-- ==== Sys2Proof/Word.lean ====
section
/-! DEFINITION. The word types of the machine, bit fields, signed and unsigned readings, and the two kinds of sparse
table the state is made of: a table with a default (memory, registers) and a table of present objects. -/

namespace Sys2Proof

/-- A byte of memory. -/
abbrev Byte := BitVec 8
/-- A 32-bit register's bits. -/
abbrev W32 := BitVec 32
/-- A 64-bit value: an instruction word, an address, a register pair. -/
abbrev W64 := BitVec 64

/-- Bits `[lo + len - 1 : lo]` of a word (R5). -/
abbrev fld {n : Nat} (w : BitVec n) (lo len : Nat) : BitVec len := w.extractLsb' lo len

/-- Bit `k` of a word. -/
abbrev bit {n : Nat} (w : BitVec n) (k : Nat) : Bool := w.getLsbD k

/-- The field `[lo + len - 1 : lo]` of a word as a number. -/
def fldN {n : Nat} (w : BitVec n) (lo len : Nat) : Nat := (w.toNat >>> lo) % 2 ^ len

/-- `w` with the field `[lo + len - 1 : lo]` replaced by the low `len` bits of `x`. -/
def setFld {n : Nat} (w : BitVec n) (lo len x : Nat) : BitVec n :=
  let m : BitVec n := BitVec.ofNat n ((2 ^ len - 1) <<< lo)
  (w &&& ~~~ m) ||| BitVec.ofNat n ((x % 2 ^ len) <<< lo)

/-- A 64-bit value from its low and high words (R8). -/
def pair (lo hi : W32) : W64 := hi ++ lo

/-- Bits `[31:0]` of a 64-bit value (R8). -/
def lo32 (w : W64) : W32 := w.extractLsb' 0 32

/-- Bits `[63:32]` of a 64-bit value (R8). -/
def hi32 (w : W64) : W32 := w.extractLsb' 32 32

/-- A Boolean as a number. -/
def b2n (b : Bool) : Nat := if b then 1 else 0

/-- The least number `x` with `2 ^ x > n`: the number of significant bits of `n`. -/
def bitLen (n : Nat) : Nat := if n = 0 then 0 else Nat.log2 n + 1

/-- `a` divided by `b`, rounded up. -/
def cdiv (a b : Nat) : Nat := (a + b - 1) / b

/-- Signed clamp to `n` bits (`sat_s`, chapter 10). -/
def satS (x : Int) (n : Nat) : Int := max (-(2 ^ (n - 1) : Int)) (min x (2 ^ (n - 1) - 1))

/-- Unsigned clamp to `n` bits (`sat_u`, chapter 10). -/
def satU (x : Int) (n : Nat) : Int := max 0 (min x (2 ^ n - 1))

/-- Little-endian bytes of a number (R7). -/
def toBytes (x : Nat) : Nat → List Byte
  | 0 => []
  | n + 1 => BitVec.ofNat 8 x :: toBytes (x / 256) n

/-- The number whose little-endian bytes these are (R7). -/
def ofBytes : List Byte → Nat
  | [] => 0
  | b :: bs => b.toNat + 256 * ofBytes bs

/-- A table with a default: pairs of strictly rising keys, no entry equal to the default. -/
abbrev SMap (α : Type) := List (Nat × α)

/-- Read a key: the listed value, or the default of the key. -/
def SMap.get {α : Type} (d : Nat → α) : SMap α → Nat → α
  | [], k => d k
  | (j, a) :: m, k => if j = k then a else SMap.get d m k

/-- Put a value at a key, keeping keys rising. -/
def SMap.insert {α : Type} : SMap α → Nat → α → SMap α
  | [], k, a => [(k, a)]
  | (j, b) :: m, k, a =>
    if k < j then (k, a) :: (j, b) :: m
    else if k = j then (k, a) :: m
    else (j, b) :: SMap.insert m k a

/-- Remove a key. -/
def SMap.erase {α : Type} : SMap α → Nat → SMap α
  | [], _ => []
  | (j, b) :: m, k => if j = k then SMap.erase m k else (j, b) :: SMap.erase m k

/-- Write a key, keeping the canonical form: writing the default removes the entry. -/
def SMap.set {α : Type} [DecidableEq α] (d : Nat → α) (m : SMap α) (k : Nat) (a : α) : SMap α :=
  if a = d k then m.erase k else m.insert k a

/-- The canonical form of a table with a default. -/
def SMap.wf {α : Type} [DecidableEq α] (d : Nat → α) : SMap α → Bool
  | [] => true
  | (k, a) :: m => decide (a ≠ d k) && m.all (fun p => decide (k < p.1)) && SMap.wf d m

/-- A table of present objects: pairs of strictly rising keys. -/
abbrev AMap (α : Type) := List (Nat × α)

/-- The object at a key, when there is one. -/
def AMap.get? {α : Type} : AMap α → Nat → Option α
  | [], _ => none
  | (j, a) :: m, k => if j = k then some a else AMap.get? m k

/-- The object at a key, or a default object. -/
def AMap.getD {α : Type} (m : AMap α) (k : Nat) (d : α) : α := (AMap.get? m k).getD d

/-- Put an object at a key. -/
def AMap.put {α : Type} (m : AMap α) (k : Nat) (a : α) : AMap α := SMap.insert m k a

/-- Remove an object. -/
def AMap.del {α : Type} (m : AMap α) (k : Nat) : AMap α := SMap.erase m k

/-- Change the object at a key, when there is one. -/
def AMap.modify {α : Type} (m : AMap α) (k : Nat) (f : α → α) : AMap α :=
  match AMap.get? m k with
  | some a => AMap.put m k (f a)
  | none => m

/-- The element of a list at a position, replaced. -/
def listSet {α : Type} (l : List α) (k : Nat) (a : α) : List α := l.set k a

/-- Every lane number, in ascending order (R13 of the pseudocode notation: "for each lane i in mask"). -/
def laneNums : List Nat := List.range 32

/-- The lanes of a mask, in ascending order. -/
def lanesOf (m : W32) : List Nat := laneNums.filter (fun i => bit m i)

/-- The mask of the lanes that satisfy a test. -/
def maskOf (f : Nat → Bool) : W32 :=
  BitVec.ofNat 32 (laneNums.foldl (fun acc i => if f i then acc + 2 ^ i else acc) 0)

/-- The lowest lane of a mask, 0 when it is empty. -/
def lowLane (m : W32) : Nat := ((lanesOf m).head?).getD 0

end Sys2Proof
end

