-- ==== Sys2Proof/Config.lean ====
section
/-! DEFINITION. The constants of the module, and the values the spec leaves open. A value the spec leaves open is an
opaque constant without a body: no proof can see what it is, so a claim about it holds whatever it is (assumption log 2). -/

namespace Sys2Proof.Config

/-- The bits a transcendental instruction (first argument: its base opcode) returns for an F32 operand, before the bound
of R217 is imposed on it. R210 makes it a function of the operand alone. -/
opaque trans : Nat → W32 → W32

/-- Which of the two F32 values nearest the exact reciprocal `frcp` returns: the upper one, or the lower (R217). -/
opaque rcpUpper : W32 → Bool

/-- A measured value: what is measured (0 wear, 1 die temperature) and the unit's number (R88). -/
opaque measured : Nat → Nat → W32

/-- A value fixed at manufacture or at boot. Below 0x10000, of a register by its number: `modid`, `ftbase`, `wlbase`, `cxlstat`
(R37, R89, R301, R421); 0x10000 and 0x10001 the agents' entry (R303), 0x20000 + p the serial number of the expander on CXL port p
at boot (R421), 0x30000 to 0x30007 the fused key digest and 0x30010 the fused minimum VERSION (R303). -/
opaque bootValue : Nat → W32

/-- A byte of a husk's body as it is before it is sealed: handle, serial, kind and GTSEAL of the husk, and the byte's place (R46, whose
layout of a body is not architectural). -/
opaque huskByte : Nat → Nat → Nat → Nat → Nat → Byte

/-- The length in bytes of a sealed body, for a context, before the bound of R253 is imposed (R46). -/
opaque huskLength : Nat → Nat → Nat

/-- A byte of a gate call's spill image before it is sealed, by the fresh counter of the call and the byte's place (R237). -/
opaque spillByte : Nat → Nat → Byte

/-- A byte of the IV that a spill image is sealed with, by the fresh counter of the call (R237). -/
opaque spillIv : Nat → Nat → Byte

/-- The partition whose tenant state a scan chain of a freeze holds (64 and above: none): the chain and the GT of the freeze (R316). -/
opaque scanOwner : Nat → Nat → Nat

/-- The bytes a scan chain of a freeze holds (R316). -/
opaque scanBytes : Nat → Nat → List Byte

/-- A byte of the IV that a scan chain of a freeze is encrypted with (R316). -/
opaque scanIv : Nat → Nat → Nat → Byte

/-- How many bytes of its 64 KiB a gate call's spill image fills (R237). -/
opaque spillLength : Nat → Nat

/-- The module root key, fused at manufacture (R43). -/
opaque rootKey : Nat → Byte

/-- A fresh value for the given counter: used where the spec states no value and says nothing it depends on. -/
opaque freeValue : Nat → Nat

/-- Cores of the module (R18). -/
def cores : Nat := 768
/-- Clusters of the module (R18). -/
def clusters : Nat := 192
/-- Compute dies (R18). -/
def dies : Nat := 8
/-- Partitions (R34). -/
def partitions : Nat := 64
/-- Bytes of a frame (R35). -/
def frameBytes : Nat := 65536
/-- Frames of the HBM tier (R20). -/
def hbmFrames : Nat := 2 ^ 24
/-- Frames of both tiers, numbered in one space (R20, R21, R35). DESIGN CHOICE: 2 TiB behind each of the eight CXL ports, whatever
their state, since R21 leaves open what is attached (log 58). -/
def frames : Nat := 2 ^ 24 + 2 ^ 28

end Sys2Proof.Config
end

