-- ==== Sys2Proof/Syntax.lean ====
section
/-! DEFINITION. The instructions and the device's operations and events: one constructor for each row of
spec/opcode_table.json. An instruction carries its word's common fields (`Head`) and the fields of its format (R176);
an operation or event of an agent carries what the outside world or the hardware supplies with it. -/

namespace Sys2Proof

/-- The fields every full word has (R173, R174): S, U, the guard's number and its negation. -/
structure Head where
  s : Bool
  u : Bool
  g : BitVec 3
  n : Bool
  deriving DecidableEq, Repr

/-- The F3 format (R176). -/
structure F3 where
  dst : BitVec 8
  sa : BitVec 8
  sb : BitVec 8
  sc : BitVec 8
  mod : BitVec 16
  deriving DecidableEq, Repr

/-- The FI format (R176). -/
structure FI where
  dst : BitVec 8
  sa : BitVec 8
  imm : W32
  deriving DecidableEq, Repr

/-- The FM format (R176). In atomics IDX holds AOP and ATY (R179). -/
structure FM where
  dst : BitVec 8
  base : BitVec 8
  idx : BitVec 8
  off : BitVec 12
  scope : BitVec 3
  ord : BitVec 2
  wid : BitVec 3
  cpol : BitVec 2
  xsc : BitVec 2
  deriving DecidableEq, Repr

/-- The FB format (R176, R179). -/
structure FB where
  cond : BitVec 8
  tgt : BitVec 24
  rcv : BitVec 16
  deriving DecidableEq, Repr

/-- The FS format (R176, R179). -/
structure FS where
  dst : BitVec 8
  sa : BitVec 8
  reg : BitVec 16
  mod : BitVec 16
  deriving DecidableEq, Repr

/-- Half of a pair word (R183): HOP (with U in bit 6), guard, DST, SRC and M4. -/
structure Half where
  hop : BitVec 7
  g : BitVec 3
  n : Bool
  dst : BitVec 8
  src : BitVec 8
  m4 : BitVec 4
  deriving DecidableEq, Repr

/-- The functions the module presents to its host (R22). -/
inductive Fn where
  | pf0
  | pf1
  | vf (n : Nat)
  deriving DecidableEq, Repr

/-- A 32-bit word of a function's BAR (R294), at a byte offset. -/
inductive BarWord where
  | bar0 (off : Nat)
  | bar2 (off : Nat)
  | bar4 (off : Nat)
  deriving DecidableEq, Repr

/-- What a host function writes: the mirror of a register by its number (R83), a word of a BAR by its offset (R294), or the mask of its MSI-X in its
configuration space (R359). -/
inductive HostTarget where
  | reg (num : BitVec 16)
  | word (w : BarWord)
  | msixMask
  deriving DecidableEq, Repr

/-- The activities that have a budget of ticks per frame (R315). -/
inductive Activity where
  | partition (p : Nat)
  | copyEngine (e : Nat)
  | collective
  | agent (core : Nat)
  deriving DecidableEq, Repr

/-- What the physical world measured or achieved in a maintenance slot (R311, R320, R439): die temperatures, predicted
life in days, ports with their state and peer after training, and whether the sensor sweep was done. -/
structure SlotReport where
  temps : List (Nat × Nat)
  wears : List (Nat × Nat)
  links : List (Nat × Nat × Nat × Nat)
  sensed : Bool
  deriving DecidableEq, Repr

/-- The answer of a host or a peer to one access (R322, R323, R425): bytes for a load or the old value of an atomic
(empty for a store's acknowledgement), or a failure. -/
inductive Answer where
  | done (bytes : List Byte)
  | failed
  deriving DecidableEq, Repr

/-- What an access does to its location. -/
inductive AccKind where
  | load
  | store
  | atomic
  deriving DecidableEq, Repr

/-- An access of a peer module that arrives on a port (R128, R323): target partition and domain, address, kind, width in
bytes, the bytes stored or the atomic's operand bytes, and the atomic's AOP and ATY. -/
structure Inbound where
  part : Nat
  dom : Nat
  va : W64
  kind : AccKind
  bytes : Nat
  data : List Byte
  aop : Nat
  aty : Nat
  port : Nat := 0
  tag : Nat := 0
  ord : Nat := 0
  scope : Nat := 5
  deriving DecidableEq, Repr

/-- A translation granted by the host (R126, R462): the physical page and whether write access is granted. -/
structure AtsGrant where
  phys : Nat
  write : Bool
  deriving DecidableEq, Repr

/-- The codes of a page request group response (R463). -/
inductive PriCode where
  | success
  | invalidRequest
  | responseFailure
  deriving DecidableEq, Repr

/-- One port of a link record: port number, PMOD and PPORT (R324). -/
structure PortRec where
  port : Nat
  pmod : Nat
  pport : Nat
  deriving DecidableEq, Repr

/-- A member's record of a collective job (R324, R381, R444): its rank, its live ports, the job fields the members
compare, the digest of its MEMBERS entries and, after a lost edge, its marks. `round` counts the records that the member has taken for
the job before this one, which tells a new record from a copy of an old one (DESIGN CHOICE: R444 does not say how; log 60). -/
structure JobRecord where
  rank : Nat
  ports : List PortRec
  op : Nat
  rop : Nat
  count : Nat
  chunk : Nat
  nmem : Nat
  digest : List Byte
  marks : List Nat
  round : Nat := 0
  deriving DecidableEq, Repr

/-- An uncorrectable error's ownership bitmap and what it struck (R367, R368): partitions, the operator's bit, the
groups with an access in a crossbar buffer as (handle, group, lanes), and the core of a TLB or control-block cache. -/
structure BlastSet where
  parts : List Nat
  oper : Bool
  groups : List (Nat × Nat × W32)
  deriving DecidableEq, Repr

/-- Why a fetch failed (R131, R403, R407, R420): its class code (that of a missing page among them), whether it is a table frame of
the walk that failed, whether an uncorrectable error kills the group, and the frame, tier and unit its operator half names. -/
structure FetchFailure where
  cls : Nat
  table : Bool
  kill : Bool
  frame : Nat
  tier : Nat
  unit : Nat
  deriving DecidableEq, Repr

/-- One constructor for each row of the table of operations and events. -/
inductive Instr where
  /-- R194: Does nothing. -/
  | nop (h : Head) (o : F3)
  /-- R194: Copies a register or pair into the destination and tags it I32. -/
  | mov (h : Head) (o : F3)
  /-- R194: Writes a 32-bit immediate into the destination. -/
  | movi (h : Head) (o : FI)
  /-- R194: Integer add, optionally 64-bit and optionally saturating. -/
  | iadd (h : Head) (o : F3)
  /-- R194: Adds an immediate modulo 2^32. -/
  | iaddi (h : Head) (o : FI)
  /-- R194: Integer subtract, optionally 64-bit and optionally saturating. -/
  | isub (h : Head) (o : F3)
  /-- R194: Writes the low 32 bits of a product. -/
  | imul (h : Head) (o : F3)
  /-- R194: Writes the high 32 bits of a signed or unsigned product. -/
  | imulhi (h : Head) (o : F3)
  /-- R194: Multiply-add, with a 64-bit widening form. -/
  | imad (h : Head) (o : F3)
  /-- R194: Writes the signed or unsigned minimum of two values. -/
  | imin (h : Head) (o : F3)
  /-- R194: Writes the signed or unsigned maximum of two values. -/
  | imax (h : Head) (o : F3)
  /-- R194: Writes the absolute value, optionally saturating. -/
  | iabs (h : Head) (o : F3)
  /-- R194: Writes the negation, optionally saturating. -/
  | ineg (h : Head) (o : F3)
  /-- R195: Bitwise and of two registers. -/
  | and (h : Head) (o : F3)
  /-- R195: Bitwise or of two registers. -/
  | or (h : Head) (o : F3)
  /-- R195: Bitwise xor of two registers. -/
  | xor (h : Head) (o : F3)
  /-- R195: Bitwise complement of a register. -/
  | not (h : Head) (o : F3)
  /-- R195: Bitwise and with an immediate. -/
  | andi (h : Head) (o : FI)
  /-- R195: Bitwise or with an immediate. -/
  | ori (h : Head) (o : FI)
  /-- R195: Bitwise xor with an immediate. -/
  | xori (h : Head) (o : FI)
  /-- R195: Shifts left by a register amount, giving 0 at 32 or more. -/
  | shl (h : Head) (o : F3)
  /-- R195: Logical right shift by a register amount. -/
  | shr (h : Head) (o : F3)
  /-- R195: Arithmetic right shift by a register amount. -/
  | sar (h : Head) (o : F3)
  /-- R195: Shifts left by an immediate of 0 to 31. -/
  | shli (h : Head) (o : FI)
  /-- R195: Logical right shift by an immediate. -/
  | shri (h : Head) (o : FI)
  /-- R195: Arithmetic right shift by an immediate. -/
  | sari (h : Head) (o : FI)
  /-- R195: Rotates left by the amount mod 32. -/
  | rot (h : Head) (o : F3)
  /-- R196: Extracts a bit field, sign- or zero-extended. -/
  | bfx (h : Head) (o : F3)
  /-- R196: Inserts a bit field into a value. -/
  | bfi (h : Head) (o : F3)
  /-- R195: Counts the 1 bits of a value. -/
  | popc (h : Head) (o : F3)
  /-- R195: Counts the leading 0 bits of a value. -/
  | clz (h : Head) (o : F3)
  /-- R195: Reverses the bit order of a value. -/
  | brev (h : Head) (o : F3)
  /-- R197: Chooses between two values by a predicate. -/
  | sel (h : Head) (o : F3)
  /-- R198: Compares two integers into a predicate, optionally combined with another predicate. -/
  | icmp (h : Head) (o : F3)
  /-- R199: Compares an integer with an immediate into a predicate. -/
  | icmpi (h : Head) (o : FI)
  /-- R200: Combines predicates with and, or, xor or not. -/
  | plog (h : Head) (o : F3)
  /-- R201: Computes a 64-bit address without accessing it. -/
  | lea (h : Head) (o : FM)
  /-- R202: Reads a lane, group, coordinate, extent or placement value. -/
  | idx (h : Head) (o : F3)
  /-- R204: Reduces a predicate across the contributing lanes into a uniform destination. -/
  | vote (h : Head) (o : F3)
  /-- R205: Reads another lane's register by index, up, down or xor. -/
  | shfl (h : Head) (o : F3)
  /-- R206: Reduces a vector register across lanes into a uniform register. -/
  | vred (h : Head) (o : F3)
  /-- R211: Floating-point add, correctly rounded. -/
  | fadd (h : Head) (o : F3)
  /-- R211: Floating-point subtract, correctly rounded. -/
  | fsub (h : Head) (o : F3)
  /-- R211: Floating-point multiply, correctly rounded. -/
  | fmul (h : Head) (o : F3)
  /-- R211: Fused multiply-add, rounded once. -/
  | ffma (h : Head) (o : F3)
  /-- R212: Writes the minimumNumber of two values. -/
  | fmin (h : Head) (o : F3)
  /-- R212: Writes the maximumNumber of two values. -/
  | fmax (h : Head) (o : F3)
  /-- R215: Compares floating-point values into a predicate. -/
  | fcmp (h : Head) (o : F3)
  /-- R211: Multiplies by an F32 immediate. -/
  | fmuli (h : Head) (o : FI)
  /-- R211: Adds an F32 immediate. -/
  | faddi (h : Head) (o : FI)
  /-- R213: Forms a two-element dot product plus an F32 addend, rounded once. -/
  | fdot2 (h : Head) (o : F3)
  /-- R216: Tests the class of a value against a bit mask. -/
  | fclass (h : Head) (o : F3)
  /-- R214: Rounds to an integral value in the selected mode. -/
  | frnd (h : Head) (o : F3)
  /-- R217: Computes the reciprocal. -/
  | frcp (h : Head) (o : F3)
  /-- R217: Computes the reciprocal square root. -/
  | frsq (h : Head) (o : F3)
  /-- R217: Computes the correctly rounded square root. -/
  | fsqrt (h : Head) (o : F3)
  /-- R217: Computes 2 to the power a. -/
  | fex2 (h : Head) (o : F3)
  /-- R217: Computes the base-2 logarithm. -/
  | flg2 (h : Head) (o : F3)
  /-- R217: Computes the sine in radians. -/
  | fsin (h : Head) (o : F3)
  /-- R217: Computes the cosine in radians. -/
  | fcos (h : Head) (o : F3)
  /-- R217: Computes the logistic sigmoid. -/
  | fsig (h : Head) (o : F3)
  /-- R217: Computes the hyperbolic tangent. -/
  | ftanh (h : Head) (o : F3)
  /-- R219: Converts between standard, integer and F48 formats. -/
  | cvt (h : Head) (o : F3)
  /-- R220: Packs F32 values into narrow-format elements. -/
  | npk (h : Head) (o : F3)
  /-- R221: Decodes narrow-format elements into F32 registers. -/
  | nunpk (h : Head) (o : F3)
  /-- R222: Applies an E8M0 block scale to standard-format values. -/
  | scl (h : Head) (o : F3)
  /-- R223: Derives one shared E8M0 code for each span of lanes. -/
  | sclx (h : Head) (o : F3)
  /-- R224: Copies bits and sets a fixed tag. -/
  | tag (h : Head) (o : F3)
  /-- R225: Copies bits and sets a per-lane tag taken from a register. -/
  | tagr (h : Head) (o : F3)
  /-- R226: Writes a block format register. -/
  | fmset (h : Head) (o : FI)
  /-- R228: Conditional branch that may diverge the issuing slot. -/
  | bra (h : Head) (o : FB)
  /-- R229: Computed jump to a 64-bit target. -/
  | brx (h : Head) (o : F3)
  /-- R230: Writes a link pair and jumps. -/
  | call (h : Head) (o : FB)
  /-- R229: Returns to the target held in a link pair. -/
  | ret (h : Head) (o : F3)
  /-- R231: Retires lanes, or the whole group in uniform form. -/
  | exit (h : Head) (o : F3)
  /-- R232: Block barrier arrival and wait; completes the phase when the last group arrives. -/
  | bar (h : Head) (o : F3)
  /-- R233: Arrives at a named barrier without waiting. -/
  | bara (h : Head) (o : FI)
  /-- R233: Arrives at a named barrier and waits for its phase to complete. -/
  | barw (h : Head) (o : FI)
  /-- R234: Yields until the core's next choice of active groups. -/
  | yld (h : Head) (o : F3)
  /-- R237: Spills the caller's state and enters a gate callee. -/
  | gcall (h : Head) (o : FI)
  /-- R239: Returns from the innermost gate call and restores the caller. -/
  | gret (h : Head) (o : F3)
  /-- R241: Enters the class-0 handler with a trap number. -/
  | trap (h : Head) (o : FI)
  /-- R242: Leaves the innermost handler level and resumes at the return point. -/
  | rte (h : Head) (o : F3)
  /-- R243: Arrives at a step boundary of a stepped launch and waits. -/
  | step (h : Head) (o : F3)
  /-- R245: Reserves a producer slot in a queue. -/
  | qput (h : Head) (o : FM)
  /-- R245: Claims a consumer slot in a queue. -/
  | qget (h : Head) (o : FM)
  /-- R246: Frees a consumed queue slot in order. -/
  | qctlDone (h : Head) (o : F3)
  /-- R246: Puts a queue into ERROR with a code and a time. -/
  | qctlErr (h : Head) (o : F3)
  /-- R246: Returns a queue from ERROR to RUN. -/
  | qctlRun (h : Head) (o : F3)
  /-- R246: Resets the read and claim indices of a queue in ERROR. -/
  | qctlSetr (h : Head) (o : F3)
  /-- R246: Returns a queue's state. -/
  | qctlStat (h : Head) (o : F3)
  /-- R261: Loads memory into a register group tagged I32. -/
  | ld (h : Head) (o : FM)
  /-- R182: Loads memory and tags the result with the tag its opcode carries. -/
  | ldTyped (h : Head) (tag : BitVec 4) (o : FM)
  /-- R261: Stores a register group to memory. -/
  | st (h : Head) (o : FM)
  /-- R262: Loads from the block's scratchpad, tagged I32. -/
  | lds (h : Head) (o : FM)
  /-- R182: Loads from the scratchpad with the tag its opcode carries. -/
  | ldsTyped (h : Head) (tag : BitVec 4) (o : FM)
  /-- R262: Stores to the block's scratchpad. -/
  | sts (h : Head) (o : FM)
  /-- R263: Reads through the control-block cache. -/
  | ldc (h : Head) (o : FM)
  /-- R265: Performs an atomic operation on memory and returns the old value. -/
  | atom (h : Head) (o : FM)
  /-- R265: Performs an atomic operation on the scratchpad and returns the old value. -/
  | atoms (h : Head) (o : FM)
  /-- R265: Performs an atomic reduction with no return value. -/
  | red (h : Head) (o : FM)
  /-- R267: Orders the group's accesses at a scope. -/
  | fence (h : Head) (o : FM)
  /-- R268: Drops control-block and fetched-word lines on the issuing core. -/
  | cbinv (h : Head) (o : FM)
  /-- R270: Looks up a virtual line in the scratchpad tag table. -/
  | tlook (h : Head) (o : FM)
  /-- R270: Sets a tag-table entry. -/
  | tset (h : Head) (o : FM)
  /-- R270: Clears one tag-table entry, or every entry. -/
  | tclr (h : Head) (o : F3)
  /-- R269: Prefetches a line into its L2 home. -/
  | prf (h : Head) (o : FM)
  /-- R271: Pops frames from the partition's pool. -/
  | fget (h : Head) (o : F3)
  /-- R272: Returns a frame to the pool, invalidating and scrubbing it. -/
  | fput (h : Head) (o : F3)
  /-- R273: Removes TLB entries in every core for an address or an ASID. -/
  | tinv (h : Head) (o : F3)
  /-- R282: Submits quarter requests that accumulate A·B into a tile. -/
  | mma (h : Head) (o : F3)
  /-- R285: Submits a matrix operation with B read from memory through a descriptor. -/
  | mmam (h : Head) (o : F3)
  /-- R288: Submits a matrix operation masked by the tree table. -/
  | mmt (h : Head) (o : F3)
  /-- R279: Binds an accumulator handle to a block tile. -/
  | aalloc (h : Head) (o : F3)
  /-- R279: Unbinds an accumulator handle. -/
  | afree (h : Head) (o : F3)
  /-- R279: Zeroes a handle's tile. -/
  | azero (h : Head) (o : F3)
  /-- R280: Reads tile elements into vector registers. -/
  | ald (h : Head) (o : F3)
  /-- R280: Writes tile elements from vector registers. -/
  | aput (h : Head) (o : F3)
  /-- R287: Loads a parent array into the tree-mask table. -/
  | tmld (h : Head) (o : F3)
  /-- R289: Submits a copy descriptor to a copy engine. -/
  | cpy (h : Head) (o : F3)
  /-- R290: Submits a gather. -/
  | gth (h : Head) (o : F3)
  /-- R290: Submits a scatter. -/
  | sct (h : Head) (o : F3)
  /-- R291: Submits a collective job to the Dwelvauf engine. -/
  | coll (h : Head) (o : F3)
  /-- R277: Waits until an outstanding counter is at most N, and delivers failures after submission. -/
  | waitc (h : Head) (o : FI)
  /-- R278: Snapshots the four outstanding counters. -/
  | cntr (h : Head) (o : F3)
  /-- R248: Reads a system register. -/
  | srd (h : Head) (o : FS)
  /-- R249: Writes a system register. -/
  | swr (h : Head) (o : FS)
  /-- R250: Samples GT into a pair. -/
  | gtm (h : Head) (o : F3)
  /-- R250: Samples the cluster's ccount into a pair. -/
  | ccnt (h : Head) (o : F3)
  /-- R251: Snapshots the calendar registers. -/
  | calq (h : Head) (o : F3)
  /-- R252: Claims or releases a boost step for the cluster. -/
  | bst (h : Head) (o : FI)
  /-- R254: Unseals a husk onto a core and returns a status. -/
  | place (h : Head) (o : F3)
  /-- R253: Seals a context into a husk. -/
  | seal (h : Head) (o : F3)
  /-- R255: Pre-empts a partition, by drain or by force, writing husks. -/
  | pmpt (h : Head) (o : F3)
  /-- R187: Issues two restricted halves together as one word of a run. -/
  | pairWord (s : Bool) (a b : Half)
  /-- R37: Grants a free or scrub-pending frame to a partition's pool. -/
  | grant (core : Nat) (pa pb : BitVec 6) (opm : Bool)
  /-- R37: Removes an unpopped frame from a pool. -/
  | reclaim (core : Nat) (pa pb : BitVec 6) (opm : Bool)
  /-- R37: Takes a frame for the operator. -/
  | take (core : Nat) (pa pb : BitVec 6) (opm : Bool)
  /-- R37: Releases an operator frame to scrubbing. -/
  | release (core : Nat) (pa pb : BitVec 6) (opm : Bool)
  /-- R37: Makes an operator frame a shared window between two partitions. -/
  | window (core : Nat) (pa pb : BitVec 6) (opm : Bool)
  /-- R37: Ends a window and releases the frame. -/
  | unwindow (core : Nat) (pa pb : BitVec 6) (opm : Bool)
  /-- R37: Marks an operator frame as an auditor buffer. -/
  | audbuf (core : Nat) (pa pb : BitVec 6) (opm : Bool)
  /-- R44: Resets a partition: stops its groups, scrubs its frames and rederives its key. -/
  | preset (core : Nat) (pa pb : BitVec 6) (opm : Bool)
  /-- R37: Marks an operator frame as counting-task code. -/
  | audtext (core : Nat) (pa pb : BitVec 6) (opm : Bool)
  /-- R38: Sets the partition's arm bit on a window frame. -/
  | arm (part : Nat)
  /-- R38: Clears the partition's arm bit on a window frame. -/
  | disarm (part : Nat)
  /-- R38: Marks a popped frame as control class. -/
  | ctlmark (part : Nat)
  /-- R124: Moves a frame to HBM, resolving a cold frame's missing page. -/
  | tohbm (core : Nat)
  /-- R124: Moves a frame to CXL direct. -/
  | tocxl (core : Nat)
  /-- R124: Moves a frame to CXL cold. -/
  | tocold (core : Nat)
  /-- R124: Reports a frame's location and pin state. -/
  | query (core : Nat)
  /-- R124: A frame move finishes once its frame is unpinned and copied, invalidating TLB entries and resolving waiting pages. -/
  | tierMoveComplete (frame : Nat)
  /-- R304: Writes a token queue descriptor into a window frame. -/
  | tqcmd (core : Nat) (off : BitVec 10) (slots : BitVec 13)
  /-- R419: Evicts the next unpinned candidate frame to CXL direct. -/
  | evictCxlDirect (core : Nat) (part : BitVec 6) (opf : Bool)
  /-- R419: Evicts the next unpinned candidate frame to CXL cold. -/
  | evictCxlCold (core : Nat) (part : BitVec 6) (opf : Bool)
  /-- R345: Rolls a partition back to the checkpoint ROOT names. -/
  | ckproll (part : Nat) (cutgt : W64)
  /-- R449: Discards a context that is not resident. -/
  | ctxkill (handle : Nat)
  /-- R316: Operator write that freezes the package. -/
  | dbgctlFreeze
  /-- R316: The test port's FREEZE instruction freezes the package for scan read-out. -/
  | testPortFreeze
  /-- R421: Write of RETRAIN that trains a lost CXL port. -/
  | cxlRetrain (port : Nat)
  /-- R297: Write of TAIL that makes the chaining engine fetch the ring's new packets. -/
  | hqtailDoorbell (ring : Nat) (value : W32)
  /-- R432: Resumes a ring in ERROR at a given packet. -/
  | hqskip (ring : Nat) (value : W32)
  /-- R295: Write of a ring control register, where setting EN resets TAIL and INDEX. -/
  | hqctlWrite (ring : Nat) (value : W32)
  /-- R87: Enables or disables the tag table, clearing its entries on enable. -/
  | ttcfgWrite (handle : Nat) (value : W32)
  /-- R109: Write of sillage NEXP or SIZE that clamps NEXP and resets the pass count. -/
  | sillageConfigWrite (part : Nat) (value : W32)
  /-- R92: Auditor capture of energyhi that clears a set WRAP. -/
  | energyCapture (g : Nat) (odd : Bool)
  /-- R453: Write of the wear threshold that re-arms every cluster. -/
  | wearthrWrite (value : W32)
  /-- R84: A write, by swr or a BAR mirror, of a register with no row of its own changes only the fields the writer may write; the host also writes words of BARs by their offsets (R294) and its mask of MSI-X (R359). -/
  | registerWrite (fn : Fn) (target : HostTarget) (part : Nat) (value : W32)
  /-- R25: Resets the module: GT to 0 and every register to its reset value. -/
  | moduleReset
  /-- R303: The boot ROM verifies the firmware image and starts the agents, or records the failure. -/
  | boot
  /-- R305: A frame begins: budgets renew, counting tasks and agent restarts fall due, and pending PRIO preemption takes effect. -/
  | frameBoundary
  /-- R315: An activity that used its ticks of the frame pauses until the next frame. -/
  | budgetExhausted (a : Activity)
  /-- R310: Each domain refills, falls, grants claims and charges permits. -/
  | boostIntervalBoundary
  /-- R308: Every 256 ticks the regulator accumulators and partition ESHARE counters add the energy delivered. -/
  | energyUpdate (amounts : List Nat)
  /-- R306: A supply droop stretches the cluster's arithmetic clock until the supply recovers. -/
  | droopStretch (cluster : Nat)
  /-- R313: 256 ticks before a slot, engines and links start no new transfers and core L2 accesses are held. -/
  | approachWindowStart
  /-- R312: A maintenance slot opens and the calendar registers move to the next slot. -/
  | slotOpen
  /-- R311: A slot closes: held accesses proceed, sensors, wear and link states update, and deferred regmap and lnkdis writes take effect. -/
  | slotClose (r : SlotReport)
  /-- R439: Housekeeping not done at the slot's end extends it in 64-tick steps and raises MNT. -/
  | slotOverrun (unit : Nat) (memory : Bool)
  /-- R314: A follower measures its offset from the reference and steps, holds or corrects GT. -/
  | gtSyncExchange (offset : Int)
  /-- R67: A waited result or condition arrives and the group becomes ready. -/
  | waitSatisfied (handle gi : Nat)
  /-- R69: The scheduler starts a block on a qualifying core. -/
  | blockStart (launch : Nat)
  /-- R72: A gang whose places are all reserved starts its blocks together. -/
  | gangStart (launch : Nat)
  /-- R72: After 8 frames of waiting, a gang takes priority for every resource that frees. -/
  | gangPriorityTimeout (launch : Nat)
  /-- R401: A gang or stepped launch that can never fit ends its launch with CBK. -/
  | gangCannotFit (launch : Nat)
  /-- R70: A block whose groups exited and drained releases its resources and increments DONE. -/
  | blockComplete (handle : Nat)
  /-- R73: All blocks have arrived; the die set may change, STEPNO is written and groups resume. -/
  | stepBoundaryComplete (launch : Nat)
  /-- R131: A block with missing pages leaves its core once results not depending on held accesses are written. -/
  | blockSwitchOut (handle : Nat)
  /-- R132: A block whose mpc reached 0 is placed and its held accesses are replayed. -/
  | blockPageIn (handle : Nat)
  /-- R284: The matrix arbiter grants a pass, fusing eligible requests, and writes the tiles. -/
  | matrixPass (cluster : Nat)
  /-- R141: An engine operation retires in order and decrements its counter. -/
  | engineOpComplete (op : Nat)
  /-- R415: The scrubber zeroes the next line of a frame and advances its frontier. -/
  | scrubLine (frame : Nat)
  /-- R296: A NOP packet makes no command. -/
  | nopPacket (ring : Nat)
  /-- R297: An INDIRECT packet stands for the packets at its block. -/
  | indirect (ring : Nat)
  /-- R298: Launches a grid from a task record. -/
  | launch (cmd : Nat)
  /-- R76: Starts linked sub-launches that retire as one unit. -/
  | bundle (cmd : Nat)
  /-- R298: Runs a copy descriptor from a ring. -/
  | copy (cmd : Nat)
  /-- R298: Writes a signal pair once earlier commands have retired. -/
  | signal (cmd : Nat)
  /-- R298: Holds later commands until a memory word reaches a value. -/
  | wait (cmd : Nat)
  /-- R298: The chaining engine re-reads a WAIT word after a change or a timeout. -/
  | waitReread (cmd : Nat)
  /-- R340: Arms the partition's checkpoint. -/
  | checkpoint (cmd : Nat)
  /-- R298: Writes a ring's base and control as a command. -/
  | qconfig (cmd : Nat)
  /-- R430: The chaining engine fetches a ring packet and its blocks, or stops the ring on failure. -/
  | packetFetch (ring : Nat)
  /-- R301: A command is posted as a ticket in the work list once there is room. -/
  | ticketPost (cmd : Nat)
  /-- R435: The chaining engine accepts an agent's start of a ticket's command. -/
  | commandStart (ticket : Nat)
  /-- R435: A ticket not started within 64 frames is reposted. -/
  | ticketRepost (ticket : Nat)
  /-- R299: A command retires, its signal pair is written and INDEX advances. -/
  | commandRetire (cmd : Nat)
  /-- R359: A held MSI-X message is sent when its mask clears. -/
  | msixMessageSend (fn : Fn)
  /-- R247: A waiting queue instruction tests again after the descriptor changes. -/
  | queueRetest (handle gi : Nat)
  /-- R396: A gate call's deadline expires and the call ends with a forced return and GTO. -/
  | gateDeadline (handle gi : Nat)
  /-- R422: A host or remote access exceeds its timeout and raises RTO. -/
  | remoteTimeout (id : Nat)
  /-- R322: A peer or host response returns a value or acknowledgement, or REM. -/
  | remoteResponse (id : Nat) (a : Answer)
  /-- R323: The target performs an inbound peer access at its home, or reports REM. -/
  | inboundPeerAccess (x : Inbound)
  /-- R464: A translation response is installed or discarded, or makes the page missing. -/
  | atsResponse (id : Nat) (grant : Option AtsGrant)
  /-- R127: An ATS Invalidation Request removes matching translations. -/
  | atsInvalidation (pasid page : Nat)
  /-- R127: The completion is sent once accesses that used the entries have finished. -/
  | invalidationCompletion (pasid page : Nat)
  /-- R463: A PRI group response resolves or fails a missing host page. -/
  | pageRequestResponse (pasid page : Nat) (code : PriCode)
  /-- R454: A PCIe Function Level Reset resets a function's rings and MSI-X state. -/
  | functionLevelReset (fn : Fn)
  /-- R455: The host link goes down and host accesses fail with REM. -/
  | pcieLinkDown
  /-- R443: A fabric port fails link retry or retraining, takes STATE 0 and raises LNK. -/
  | linkRetryFail (port : Nat)
  /-- R324: A member receives and forwards a job record, and starts the job when it holds all. -/
  | collRecordReceive (job : Nat) (r : JobRecord)
  /-- R328: A chunk's DST is final and its MARKS bit is set as a release. -/
  | collChunkMark (job chunk : Nat) (contrib : List (Nat × List W32))
  /-- R446: A member without records or marks for 1,024 frames ends the job with LNK. -/
  | collStallTimeout (job : Nat)
  /-- R421: A CXL port is lost and its frames become unreachable. -/
  | cxlPortLoss (port : Nat)
  /-- R367: An uncorrectable error in a shared structure is reported to its blast set and recovered. -/
  | blastError (ukind unit : Nat) (x : BlastSet)
  /-- R332: The next member with work starts its turn with a new quantum. -/
  | turnGrant (rot : Nat)
  /-- R332: The holder's deficit reaches 0 while another member has work. -/
  | turnQuantumExpiry (rot : Nat)
  /-- R334: Blocks still resident 65,536 ticks into a drain are sealed by force with DRN. -/
  | turnForcedSealing (part : Nat)
  /-- R340: A checkpoint falls due by period or step count. -/
  | checkpointDue (part : Nat)
  /-- R341: The partition stops, seals checkpoint husks and marks frames copy-on-write. -/
  | checkpointCut (part : Nat)
  /-- R342: A marked frame is copied into the image and its waiting writes released. -/
  | checkpointFrameCopy (part frame : Nat)
  /-- R344: The manifest address is written to ROOT as a release. -/
  | checkpointCommit (part : Nat)
  /-- R306: The cluster's supply recovers above the droop threshold and its arithmetic clock stops stretching. -/
  | droopRecovery (cluster : Nat)
  /-- R316: While the package is frozen, scan chains are read out through the test port, with tenant arrays encrypted under a scan key. -/
  | scanReadout (chain : Nat)
  /-- R455: The host link returns; after a conventional reset each function is as after FLR, and Page Requests resume. -/
  | pcieLinkUp (conventional : Bool)
  /-- R421: A retrained CXL port's expander answers, and its frames are served again or stay unreachable depending on its serial number. -/
  | cxlTrainingComplete (port : Nat) (serial : Option Nat)
  /-- R448: A turn is still not over 65,536 ticks after forced sealing began, and a PRE record is raised while sealing continues. -/
  | forcedSealingOverdue (part : Nat)
  /-- R373: A fetched word whose bits name no instruction reaches issue and raises ENC. -/
  | wordNamingNoInstruction (w : W64)
  /-- R407: An instruction fetch fails translation, permission, X or an uncorrectable error, and raises its class with KIND 4. -/
  | instructionFetchFailure (f : FetchFailure)
  /-- R85: A host function's read of a 64-bit register's even half through a BAR mirror latches the odd half into that function's shadow; with `word`, the function reads that word of its BAR 0, BAR 2 or BAR 4 (R36, R294, R359). -/
  | barMirrorRead (fn : Fn) (num : BitVec 16) (part : Nat) (word : Option BarWord)
  deriving DecidableEq, Repr

end Sys2Proof
end

