-- ==== Sys2Proof/Machine/State.lean ====
section
/-! DEFINITION. The state of the module: everything the spec names, as plain data. Tables with a default are in the
canonical form of `SMap.wf`. Fields marked MODEL are the model's own (assumption log 2, 3). -/

namespace Sys2Proof.Machine

/-- One lane's vector register: 32 bits and a format tag (R77, R80). -/
structure VReg where
  bits : W32 := 0
  tag : BitVec 4 := 0
  deriving DecidableEq, Repr

/-- The register files of one group (R77). Vector register `r` of lane `l` is at key `32 * r + l`; predicate `p k` is
the mask of lanes where it is true. `fm` holds format registers written by words of the run in progress (R79); `late` names
the registers (uniform register `r` as `8192 + r`) that a word of the run is still to write, with that word's address: a later
word that writes one removes it (R56). -/
structure Regs where
  v : SMap VReg := []
  p : SMap W32 := []
  s : SMap W32 := []
  q : SMap Bool := []
  acc : AMap Nat := []
  fm : AMap W32 := []
  late : List (Nat × W64) := []
  deriving DecidableEq, Repr

/-- A divergence entry: a path or a reconvergence point (R58). -/
structure DivEntry where
  pc : W64
  mask : W32
  rpc : Option W64
  arr : Bool
  deriving DecidableEq, Repr

/-- What a word that was not performed waits for; the word issues again once it may hold (R66, R245, R276, R277). -/
inductive Cond where
  /-- `waitc`: the counter of a class is at most `n`. -/
  | counter (cls n : Nat)
  /-- A submission: the counter of a class is below 63 and the reservation table has `k` entries (R276). -/
  | room (cls k : Nat)
  /-- No matrix operation of the group outstanding on the tile (R276, R280). -/
  | tile (t : Nat)
  /-- A queue descriptor at a physical address changes from these bytes (R245, R247). -/
  | queue (pa : Nat) (old : List Byte)
  /-- A frame is not pinned and a frontier is free (R272, R416). -/
  | frame (f : Nat)
  /-- The counters of the group are all 0 (R239). -/
  | drained
  /-- The operator-gate call of a context returns or is ended (R240). -/
  | gateOut (handle : Nat)
  /-- No context of the partition is inside an operator-gate call, and under drain none is resident (R240, R255). -/
  | partOut (part : Nat) (drain : Bool)
  /-- The reservation table of a core's cluster has an entry for each continuation (R397). -/
  | placeRoom (core k : Nat)
  /-- The bytes of a context's husk have arrived at the host or a peer (R253). -/
  | husked (handle : Nat)
  /-- The host and peer accesses of the group have been answered (R57, R422). -/
  | remote
  /-- The lines a reader asked the host or a peer for have come (R126, R254). -/
  | fetch (reader : Nat)
  /-- No host or peer access that used a translation of the address in the ASID is outstanding (R273). -/
  | unused (asid : Nat) (va : W64) (all : Bool)
  deriving DecidableEq, Repr

/-- Why a slot does not issue. -/
inductive Wait where
  /-- It does not wait. -/
  | none
  /-- Its word issues again when a condition may hold. -/
  | retry (c : Cond)
  /-- Waiting at `bar` (R232). -/
  | bar
  /-- Waiting at `barw` for the phase it arrived in (R233). -/
  | barw (n : Nat)
  /-- Waiting at `step` with a step number (R243). -/
  | step (n : W32)
  /-- The barrier, step or decision it waited for has come: it continues at its word + 8. -/
  | passed
  deriving DecidableEq, Repr

/-- A PC slot (R58, R64) with the words issued since its count was restarted (R374), its wait, and the lanes that an `fput` it waits at
has already performed, as a bound (R272, R416). -/
structure Slot where
  live : Bool := false
  arr : Bool := false
  pc : W64 := 0
  mask : W32 := 0
  cnt : Nat := 0
  wait : Wait := .none
  upto : Nat := 0
  deriving DecidableEq, Repr

/-- The outstanding counters (R86). -/
structure Counters where
  cpy : Nat := 0
  mma : Nat := 0
  gth : Nat := 0
  col : Nat := 0
  deriving DecidableEq, Repr

/-- The save area of one handler level (R362). -/
structure Hsv where
  slot0 : Slot := {}
  slot1 : Slot := {}
  top : Option DivEntry := none
  depth : Nat := 0
  dslot : Bool := false
  rpc : W64 := 0
  cls : BitVec 8 := 0
  trapno : BitVec 8 := 0
  owner : BitVec 256 := 0
  deriving DecidableEq, Repr

/-- The caller's image of one gate call, with the call's own data (R237): the gate entry's counts, the deadline, whether LIMIT was 0, the
fresh counter its sealed image goes by, the calling word and slot, the operator-gate callee's own format file, the callee's divergence
entries, and the caller's waits of pushed paths and save areas. -/
structure GateFrame where
  regs : Regs := {}
  asid : BitVec 11 := 0
  auth : BitVec 2 := 0
  tvt : W64 := 0
  slot0 : Slot := {}
  slot1 : Slot := {}
  d : Bool := false
  top : Option DivEntry := none
  depth : Nat := 0
  counters : Counters := {}
  subs : Counters := {}
  argv : Nat := 0
  args : Nat := 0
  retv : Nat := 0
  rets : Nat := 0
  deadline : Option Nat := none
  noLimit : Bool := true
  gate : Nat := 0
  image : Nat := 0
  iaddr : W64 := 0
  mask : W32 := 0
  fm : SMap W32 := []
  entries : List DivEntry := []
  pushed : AMap Wait := []
  hsv1 : Hsv := {}
  hsv2 : Hsv := {}
  deriving DecidableEq, Repr

/-- A page an access waits for (R131): a frame, or a host page under a PASID. -/
inductive PageKey where
  /-- A frame in CXL cold, under copy-on-write, or a table frame of a walk. -/
  | frame (f : Nat)
  /-- A 4 KiB host page under a PASID. -/
  | host (pasid page : Nat)
  deriving DecidableEq, Repr

/-- A held access of one lane in the store replay buffer (R131), in issue order: `mask` is the issuing slot's, `page` what it
misses, `table` says that the page is a table frame of its walk, `acq` that later accesses wait for it, `so` that it touches an SO page
(or one whose kind its walk has not reached), `spot` where it lies, as far as its walk reached (0 device memory, 1 the host, 2 a
peer, with the address there), `rem` that the host refused its page (R463), `frame` FRAME of its leaf where it misses a host page
(R406), and `seq` when it issued (MODEL). -/
structure Held where
  lane : Nat
  iaddr : W64
  kind : AccKind
  va : W64
  w : Nat
  data : List Byte
  dst : Option Nat
  uniform : Bool
  tag : BitVec 4
  aop : Nat
  aty : Nat
  asid : BitVec 11
  auth : BitVec 2
  mask : W32
  page : Option PageKey
  table : Bool := false
  acq : Bool := false
  so : Bool := false
  spot : Option (Nat × Nat) := none
  rem : Bool := false
  frame : Nat := 0xFFFFFFFF
  seq : Nat := 0
  deriving DecidableEq, Repr

/-- A failure after submission that no `waitc` has delivered yet (R380): counter class, submission order and the fields
of its record. -/
structure OpFailure where
  opcls : Nat
  seq : Nat
  depth : Nat
  cls : Nat
  iaddr : W64
  vaddr : W64
  mask : W32
  frame : Nat
  tier : Nat
  unit : Nat := 0
  kind : Nat := 5
  deriving DecidableEq, Repr

/-- A failure of a host or remote access, delivered at a run end or at the next word that waits (R422), or of a held access,
delivered at the first word to issue at a handler level (R412); `ret` that a run end waits for its value. -/
structure RemoteFailure where
  cls : Nat
  iaddr : W64
  vaddr : W64
  lanes : W32
  kind : Nat
  wid : Nat
  tier : Nat
  frame : Nat := 0xFFFFFFFF
  level : Nat := 0
  ret : Bool := false
  deriving DecidableEq, Repr

/-- A quarter's operand latch (R283): the A registers named, the A bytes and scales of each row, and A's format. -/
structure Latch where
  sa : Nat
  n : Nat
  rows : List (List Byte)
  scales : List (List Byte)
  atag : BitVec 4
  afmt : W32
  deriving DecidableEq, Repr

/-- System registers outside groups and blocks: GT and, for every other register, its 32-bit words, at key
`65536 * instance + number` (R83). -/
structure Sys where
  gt : Nat := 0
  regs : SMap W32 := []
  deriving DecidableEq, Repr

/-- A matrix quarter request, in a reservation table or as a continuation (R281–R288): `next` is its next k-block, `a` and
`ascales` the A bytes and scale bytes of its eight rows, `tree` QOFF and KOFF of `mmt`; in a continuation `own` says that
B's address is an offset in the block's own allocation (R397). -/
structure MReq where
  op : Nat
  handle : Nat
  gi : Nat
  q : Nat
  tile : Nat
  n : Nat
  next : Nat
  rows : BitVec 8
  a : List (List Byte)
  ascales : List (List Byte)
  atag : BitVec 4
  afmt : W32
  bty : Nat
  bfmt : W32
  scratch : Bool
  baddr : W64
  kstride : Int
  cstride : Int
  bscales : W64
  asid : BitVec 11
  part : Option Nat
  iaddr : W64
  tree : Option (Nat × Nat)
  own : Bool := false
  deriving DecidableEq, Repr

/-- A cluster: the matrix engine's reservation table, oldest first (R284), the contexts whose continuations it keeps
entries for (R397), its pass counts by partition (R109), arithmetic-clock cycles up to a GT (R88), with the twentieths of the edge
begun then, whether its supply droops (R306), the age of its boost claim and a pending release (R252), whether its wear is armed
(R453). -/
structure Cluster where
  reqs : List MReq := []
  placing : List Nat := []
  passes : AMap Nat := []
  cycles : Nat := 0
  frac : Nat := 0
  cyclesAt : Nat := 0
  droop : Bool := false
  claimAge : Nat := 0
  release : Bool := false
  wearAbove : Bool := true
  deriving DecidableEq, Repr

/-- What a run's `srd` words read: register values as of the start of the run (R248). -/
structure RunStart where
  sys : Sys := {}
  clusters : AMap Cluster := []
  divBase : W64 := 0
  spbase : W32 := 0
  tten : Bool := false
  slot0 : Slot := {}
  slot1 : Slot := {}
  depth : Nat := 0
  counters : Counters := {}
  mpc : Nat := 0
  rngseed : W64 := 0
  rngctr : W64 := 0
  prog : BitVec 16 := 0
  fm : SMap W32 := []
  tags : AMap (BitVec 48) := []
  deriving DecidableEq, Repr

/-- An `swr` of a group- or block-scope register issued in the run in progress, performed when the run ends (R249,
R384). -/
structure SwrReq where
  num : Nat
  value : W32
  deriving DecidableEq, Repr

/-- A group (R49): its register files as of run start (`base`, R56) and with the results of the run's words (`live`), its PC slots,
divergence top and count, its group-scope registers (R33, R64, R86) and what its context carries (R82). `subs` counts its submissions of
each class; `pushed` says what a path in the divergence area waits for, by its index there; `area` holds the bytes of its divergence area
while it is off its core, `away` those of its entries that lie on pages of the host or of peers, by index, `word` the last word fetched,
with its address (R188), `killed` that it was killed (R366), `ready` whether it was ready when its core last looked (R65), `stopAt` the
lane at which forced sealing stops the long word in issue (R382; 32: it does not), `notBefore` the GT before which it issues no word
(R347), `placing` the context for which a `place` of it waits (R397). `shadow` names no register until an even word is read (DESIGN
CHOICE: R54 and R85 give it no first contents; log 58). -/
structure Group where
  base : Regs := {}
  live : Regs := {}
  slot0 : Slot := {}
  slot1 : Slot := {}
  cur : Bool := false
  inRun : Bool := false
  longRun : Bool := false
  ending : Bool := false
  forced : Option (Nat × Nat) := none
  rs : RunStart := {}
  swrs : List SwrReq := []
  top : Option DivEntry := none
  depth : Nat := 0
  pushed : AMap Wait := []
  area : List Byte := []
  away : AMap (List Byte) := []
  divLimit : Nat := 64
  divBase : W64 := 0
  exited : W32 := 0
  asid : BitVec 11 := 0
  auth : BitVec 2 := 0
  gates : List GateFrame := []
  level : Nat := 0
  cls : BitVec 8 := 0
  trapno : BitVec 8 := 0
  hsv1 : Hsv := {}
  hsv2 : Hsv := {}
  tvt : W64 := 0
  prog : BitVec 16 := 0
  spfmask : BitVec 3 := 7
  rngseed : W64 := 0
  rngctr : W64 := 0
  counters : Counters := {}
  subs : Counters := {}
  shadow : Option (Nat × W32) := none
  held : List Held := []
  failures : List OpFailure := []
  remFail : List RemoteFailure := []
  pend : List RemoteFailure := []
  latches : AMap Latch := []
  tree : List Byte := []
  active : Bool := false
  age : Nat := 0
  stopped : Bool := false
  word : Option (W64 × W64) := none
  killed : Bool := false
  ready : Bool := false
  stopAt : Nat := 32
  notBefore : Nat := 0
  placing : Option Nat := none
  deriving DecidableEq, Repr

/-- A named barrier's phase: COUNT, arrivals, and the groups that have arrived (R233, R366). -/
structure Named where
  count : Nat
  arrived : Nat
  who : List Nat := []
  deriving DecidableEq, Repr

/-- Where a block is (R69, R131, R253): on a core, out of its core with missing pages, runnable again, held by a sealed
husk, or stopped. -/
inductive Place where
  /-- Resident on a core. -/
  | core (c : Nat)
  /-- Switched out, until its missing pages are resolved and it is placed (R131, R132). -/
  | out
  /-- Sealed into a husk that is placeable (R253). -/
  | sealed
  /-- Pre-empted by a turn's end: its husk lies at an offset of the partition's husk area (R335). -/
  | husk (va : W64)
  deriving DecidableEq, Repr

/-- What kind of work a block is (R31): a tenant's or operator's launch, a Gynil agent, or a counting task. -/
inductive Owner where
  /-- A block of a launch in a partition, or of an operator launch. -/
  | launch (part : Option Nat)
  /-- The Gynil agent of a core. -/
  | agent (core : Nat)
  /-- Counting task `t` on core `t`. -/
  | task (t : Nat)
  deriving DecidableEq, Repr

/-- What becomes of a block's launch index when a failure of an `mmam` B fetch has ended the block (R398). -/
inductive Redo where
  /-- The block has not been ended so. -/
  | no
  /-- Restarted, or counted as complete at its third end. -/
  | failed
  /-- Restarted once a missing page resolves, which it has where none is named. -/
  | page (k : Option PageKey)
  deriving DecidableEq, Repr

/-- A long write failed: class, frame, tier, unit and address, and the page of the host that it misses (R253, R448, R449). -/
structure WriteFail where
  cls : Nat
  frame : Nat
  tier : Nat
  unit : Nat
  va : W64
  page : Option PageKey := none
  deriving DecidableEq, Repr

/-- A block (context) and its state (R49–R54, R69, R82, R87, R121–R122, R131). `gslots` are the group slots its groups
occupy; `spOff` its allocation's offset in the core's scratchpad; `tiles` the elements of its accumulator tiles at key
`1024 * tile + 32 * row + column` (F48 bits); `gang` the launch indices started together with it (R72); `halted` a context that
a sealing could not write (R448, R449); `stopping` one that a sealing has stopped (R253, R255), `huskOut` the GT, ASID and address of a husk
whose bytes are on their way to the host or a peer, `huskFail` why one did not arrive; `redo` how an `mmam` failure ended it (R398). -/
structure Block where
  owner : Owner := .launch none
  launch : Option Nat := none
  lidx : Nat := 0
  place : Place := .out
  gslots : List Nat := []
  groups : List Group := []
  regsN : Nat := 255
  accs : Nat := 0
  scratchN : Nat := 0
  fm : SMap W32 := []
  tten : Bool := false
  tags : AMap (BitVec 48) := []
  spOff : Nat := 0
  spPos : Nat := 0
  constva : W64 := 0
  scratch : SMap Byte := []
  tiles : SMap (BitVec 48) := []
  phys : List Nat := []
  named : AMap Named := []
  missing : List PageKey := []
  serial : Nat := 0
  conts : List MReq := []
  gang : List Nat := []
  halted : Bool := false
  stopping : Bool := false
  huskOut : Option (Nat × Nat × W64) := none
  huskFail : Option WriteFail := none
  redo : Redo := .no
  deriving DecidableEq, Repr

/-- A TLB entry (R119). -/
structure TlbEnt where
  asid : Nat
  lg : Bool
  vpn : Nat
  frame : Nat
  ord : Nat
  w : Bool
  x : Bool
  ctl : Bool
  host : Bool
  peer : Bool
  exp : Bool
  tier : Nat
  tgt : Nat
  deriving DecidableEq, Repr

/-- A control-block cache line: ASID, line number and its 64 bytes (R123). -/
structure CbLine where
  asid : Nat
  line : Nat
  bytes : List Byte
  deriving DecidableEq, Repr

/-- A core: TLB, control-block cache, the lines of which it keeps fetched words (R188), the group slot last chosen (R65), scratchpad lines
that hold an uncorrectable error (R420), and whether its agent is killed (R436). -/
structure Core where
  tlb : List TlbEnt := []
  cbc : List CbLine := []
  words : List (Nat × Nat) := []
  lastSlot : Nat := 31
  spBad : List Nat := []
  agentDead : Bool := false
  deriving DecidableEq, Repr

/-- What an engine operation does (R287–R291). -/
inductive OpKind where
  /-- A matrix operation; its quarter requests lie in a reservation table. -/
  | mat
  /-- `tmld`: parent array at an address, N bytes. -/
  | tmld (n : Nat)
  /-- A copy descriptor. -/
  | copy
  /-- A gather descriptor. -/
  | gather
  /-- A scatter descriptor. -/
  | scatter
  /-- A collective job. -/
  | coll (job : Nat)
  deriving DecidableEq, Repr

/-- Who submitted an engine operation: a group, at a gate depth, or a ring command (R298). -/
inductive OpOwner where
  /-- A group of a context. -/
  | group (handle gi depth : Nat)
  /-- A command of the chaining engine. -/
  | cmd (id : Nat)
  deriving DecidableEq, Repr

/-- An outstanding engine operation (R276): who submitted it and where, its captured control block, whether it may name scratchpads
(R238), the frames it pins (R124), and how far it is: the position among its group's submissions of the class, whether its writes to host
or peer pages are on their way, whether its effect is done, `upto` the elements moved (R290), a failure found so far, whether its group is
to be killed (R420), and the pages it waits for (R413). -/
structure EngOp where
  owner : OpOwner
  cls : Nat
  kind : OpKind
  asid : BitVec 11
  auth : BitVec 2
  part : Option Nat
  cluster : Nat
  iaddr : W64
  va : W64
  mask : W32
  block : List Byte
  sp : Bool := true
  frames : List Nat := []
  seq : Nat := 0
  upto : Nat := 0
  sent : Bool := false
  done : Bool := false
  fail : Option OpFailure := none
  kill : Bool := false
  cancelled : Bool := false
  waits : List PageKey := []
  deriving DecidableEq, Repr

/-- Where a frame lives (R124). -/
inductive Loc where
  /-- HBM. -/
  | hbm
  /-- CXL direct, behind a port. -/
  | cxl (port : Nat)
  /-- CXL cold, behind a port. -/
  | cold (port : Nat)
  deriving DecidableEq, Repr

/-- The scrub frontier of a frame (R415): the first line not yet zeroed, and the later lines already zeroed by writes. -/
structure Frontier where
  next : Nat := 0
  done : List Nat := []
  deriving DecidableEq, Repr

/-- A move of a frame in progress (R124, R419): its destination, the core of its command, and whether it is an
eviction. -/
structure Move where
  frame : Nat
  dest : Loc
  core : Nat
  evict : Bool
  deriving DecidableEq, Repr

/-- A frame command waiting with BUSY = 1 (R37, R416, R418, R419). -/
structure FtWait where
  core : Nat
  opc : Nat
  pa : Nat
  frame : Nat
  deriving DecidableEq, Repr

/-- A search of `evcmd` that waits until a candidate is unpinned (R419). -/
structure EvWait where
  core : Nat
  part : Nat
  opf : Bool
  cold : Bool
  deriving DecidableEq, Repr

/-- What a host or peer access of no group serves: a line that a reader's fetch waits for (rings by their number, group `gi` of
context `h` as `4096 + 32 * h + gi`), the SIG store of a ring's command, a posted write of the hardware's own, or one of a checkpoint. -/
inductive HwUse where
  /-- A 64-byte line for a reader. -/
  | fetch (reader : Nat)
  /-- The SIG store of a ring's command (R299, R433). -/
  | sig (ring cmd : Nat)
  /-- A posted write. -/
  | post
  /-- A posted write of the husk of a context (R253, R449). -/
  | husk (handle : Nat)
  /-- A write of the hardware fields of a launch's task record (R53, R70). -/
  | done (launch : Nat)
  /-- A sillage entry of a partition, with HEAD as it stands once the entry is written (R112, R417). -/
  | sill (part next : Nat)
  /-- A posted write of the checkpoint of a partition that was cut at a GT (R344). -/
  | image (part cut : Nat)
  deriving DecidableEq, Repr

/-- An access to a host or peer page, not yet answered (R126, R128, R422): which lane and registers it serves, its host address or target
and address, the target's ASID and the port it uses (R128, R322), `acq` when later accesses of the group wait for it, `stale` for a line
that `cbinv` has dropped on its way (R155), `xlat` while it waits for a translation, `denied` once one was withheld and the host was asked
for the page (R463), `lost` once an error in a crossbar buffer has lost its answer (R368), `seq` when it issued (MODEL), `fill` for a line
of a core's control-block cache, `eng` for a write of an engine operation, `hw` for the hardware's own, and the time its answer is due. -/
structure Remote where
  handle : Nat
  gi : Nat
  lane : Nat
  uniform : Bool
  kind : AccKind
  va : W64
  w : Nat
  data : List Byte
  aop : Nat
  aty : Nat
  dst : Option Nat
  tag : BitVec 4
  iaddr : W64
  mask : W32
  wid : Nat
  host : Bool
  addr : Nat
  frame : Nat
  tgt : Nat
  pasid : Nat
  page : Nat
  asid : BitVec 11
  auth : BitVec 2
  acq : Bool
  xlat : Bool
  fill : Option Nat
  eng : Option Nat := none
  hw : Option HwUse := none
  tasid : Nat := 0
  port : Option Nat := none
  stale : Bool := false
  denied : Bool := false
  lost : Bool := false
  seq : Nat := 0
  due : Nat
  deriving DecidableEq, Repr

/-- What a page access of the host port waits for (R126, R463, R464). -/
structure AtsReq where
  pasid : Nat
  page : Nat
  stale : Bool := false
  deriving DecidableEq, Repr

/-- An entry of the address translation cache (R126). -/
structure AtcEnt where
  pasid : Nat
  page : Nat
  phys : Nat
  write : Bool
  deriving DecidableEq, Repr

/-- An invalidation whose completion has not been sent: the accesses it still waits for (R127). -/
structure AtsInv where
  pasid : Nat
  page : Nat
  uses : List Nat
  deriving DecidableEq, Repr

/-- The MSI-X state of one function (R294, R359): the address, data and mask of its one table entry, the mask of the function
and the pending bit. PRESUMED, with the layout of PCIe: after reset the entry is masked and the function is not (log 57). -/
structure Msix where
  addr : W64 := 0
  data : W32 := 0
  masked : Bool := true
  fnMasked : Bool := false
  pending : Bool := false
  deriving DecidableEq, Repr

/-- The host port (R126–R127, R294, R359, R454–R464). Function `n` is 0, 1 for the physical functions, `n + 1` for
virtual function `n`. -/
structure HostPort where
  linkUp : Bool := true
  atc : List AtcEnt := []
  ats : AMap AtsReq := []
  pri : List (Nat × Nat) := []
  priBarred : List Nat := []
  inv : List AtsInv := []
  shadows : AMap (Nat × W32) := []
  msix : AMap Msix := []
  flash : List Byte := []
  deriving DecidableEq, Repr

/-- What is reserved for one block of a gang on one core (R72): its launch index, the core, group slots, registers and tiles, and whether
the scratchpad run and the resident-block place are. -/
structure Spot where
  index : Nat
  core : Nat
  slots : Nat
  regs : Nat
  tiles : Nat
  run : Bool
  place : Bool
  deriving DecidableEq, Repr

/-- A gang waiting at the head of its launch (R72): its launch indices, the time of its first reservation, whether it
has waited 8 frames, and what is reserved so far. -/
structure Gang where
  indices : List Nat
  since : Option Nat := none
  priority : Bool := false
  spots : List Spot := []
  deriving DecidableEq, Repr

/-- A launch (R50–R53, R69–R75): its task record's address and fields, NEXT, DONE and STEPNO, whether a write of these waits for a
frame (R342), the stage queues that QTAB names, by physical address, as last read (R337), its die set once chosen,
the gang at its head, indices to start again and how often each ended under R398, indices that wait for a page, and
whether it was ended as one that can never fit (R401). -/
structure Launch where
  recVa : W64 := 0
  asid : Nat := 0
  part : Option Nat := none
  entry : W64 := 0
  const : W64 := 0
  divBase : W64 := 0
  qtab : W64 := 0
  gx : Nat := 1
  gy : Nat := 1
  gz : Nat := 1
  stages : Nat := 1
  groups : Nat := 1
  regs : Nat := 1
  accs : Nat := 0
  scratch : Nat := 0
  divent : Nat := 64
  mindie : Nat := 1
  maxdie : Nat := 8
  gangsz : Nat := 0
  restart : Bool := false
  stepped : Bool := false
  next : Nat := 0
  done : Nat := 0
  stepno : W32 := 0
  unwritten : Option Nat := none
  queues : List Nat := []
  dies : List Nat := []
  chosen : Bool := false
  gang : Option Gang := none
  again : List (List Nat) := []
  fails : AMap Nat := []
  onPage : List (Nat × PageKey) := []
  ended : Bool := false
  cmd : Option Nat := none
  deriving DecidableEq, Repr

/-- A rotation (R331–R334): the clusters and members in effect, the holder, when its drain began, the round-robin
position, the member a PRIO turn interrupted, when forced sealing began, and whether its overrun was reported (R448). -/
structure Rot where
  cl : List Nat := []
  members : List Nat := []
  holder : Option Nat := none
  drainAt : Option Nat := none
  forcedAt : Option Nat := none
  pos : Nat := 63
  resume : Option Nat := none
  overdue : Bool := false
  deriving DecidableEq, Repr

/-- A packet fetched from a ring and not yet retired: its index and the commands it made (R297, R299). -/
structure Packet where
  index : Nat
  cmds : List Nat
  deriving DecidableEq, Repr

/-- A command ring (R295–R300, R429–R434). Ring `16 * P + q` is ring `q` of partition P, ring `1024 + q` operator ring
`q`. `fetch` is the packet fetched next, `missing` the pages its fetch waits for, `badTail` an out-of-range TAIL (R431), `stuck` a WAIT
whose read failed (R433), `shadow` and `queued` the writes made while its partition is out (R434). -/
structure Ring where
  fetch : Nat := 0
  packets : List Packet := []
  missing : List PageKey := []
  badTail : Bool := false
  stuck : Option Nat := none
  shadow : Option W32 := none
  queued : List (Nat × W32) := []
  deriving DecidableEq, Repr

/-- A part of a launch, copy or bundle command as captured at its fetch (R298, R430): KIND as in a BUNDLE entry, its
domain, its block and, for a launch, its task record. -/
structure SubCmd where
  kind : Nat
  dom : Nat
  block : List Byte
  record : List Byte
  deriving DecidableEq, Repr

/-- A command (R297–R301): where it comes from, its captured block and parts, its ticket, whether its start was accepted,
whether it has been performed or its parts started, whether it has retired, when a WAIT last read its word and whether it is to
read it again at once (R298), whether its SIG store is on its way (R299), and the page a store or read of it waits for. -/
structure Cmd where
  ring : Nat
  index : Nat
  type : Nat
  serial : Bool
  tag : W32
  cbva : W64
  block : List Byte
  subs : List SubCmd
  ticket : Option Nat := none
  started : Bool := false
  begun : Bool := false
  retired : Bool := false
  polled : Nat := 0
  reread : Bool := false
  signalled : Bool := false
  page : Option PageKey := none
  deriving DecidableEq, Repr

/-- A ticket of the work list (R301, R435). -/
structure Ticket where
  cmd : Nat
  posted : Nat
  started : Bool := false
  reposted : Bool := false
  fill : Nat := 0
  deriving DecidableEq, Repr

/-- A husk the module has sealed (R46, R47): its header fields, whether `place`, a turn or a rollback may still consume
it, whether it lies at a turn's end area awaiting the next turn, and for a checkpoint husk the context it holds. -/
structure Husk where
  part : Nat
  handle : Nat
  serial : Nat
  kind : Nat
  gt : Nat
  len : Nat
  gen : W32
  placeable : Bool
  saved : Option Block := none
  deriving DecidableEq, Repr

/-- A checkpoint being streamed (R341–R344): its cut GT, ROOT, the ASID it is written in, the address of its image, its frames, the
frames copied with the digests of their bytes, its husks with their lengths and digests, and whether the manifest and ROOT have been
written. -/
structure Stream where
  cut : Nat
  root : W64
  asid : Nat
  base : W64
  frames : List Nat
  copied : List (Nat × List Byte)
  husks : List (Nat × Nat × Nat × List Byte)
  manifest : Bool := false
  rooted : Bool := false
  deriving DecidableEq, Repr

/-- A partition's checkpoint (R340, R450): DEST, ROOT, the ASID both are translated in, PERIOD, whether it is armed, the GT at
which the next one falls due by period, step boundaries completed since the last, whether one has fallen due, whether its cut
has begun to stop the groups, whether the next goes to `ckpalt`, and the one being streamed. -/
structure Ckpt where
  dest : W64
  root : W64
  asid : Nat
  period : Nat
  armed : Bool := true
  nextDue : Option Nat := none
  steps : Nat := 0
  due : Bool := false
  cutting : Bool := false
  alt : Bool := false
  stream : Option Stream := none
  deriving DecidableEq, Repr

/-- A `pmpt` in progress (R255): the group that issued it, the ASID and next address of its husks, how many it has written,
and whether a write failed (R448). -/
structure Pmpt where
  handle : Nat
  gi : Nat
  asid : Nat
  va : W64
  count : Nat := 0
  failed : Bool := false
  deriving DecidableEq, Repr

/-- What the hardware keeps of a partition beyond its registers: the reset notice not yet written (R369), the contexts sealed at a turn's
end in their order (R334), those a rollback has brought back for the next turn (R345), the next offset of the husk area, whether sealing
is paused (R448), whether an MNT was raised for the present slot (R441), its checkpoint, a `pmpt` that names it (R255), the launches as
they stood at the cut of each checkpoint taken, by its GT, the CUTGT of a rollback that runs (R345), and the sillage entries that wait
behind one on its way to the host or a peer (R112). -/
structure Part where
  notice : Option (W32 × W32 × Nat) := none
  awaiting : List Nat := []
  later : List Nat := []
  huskOff : Nat := 0
  paused : Bool := false
  mnt : Bool := false
  ckpt : Option Ckpt := none
  pmpt : Option Pmpt := none
  images : List (Nat × List (Nat × Launch)) := []
  roll : Option Nat := none
  sill : List (List Byte) := []
  deriving DecidableEq, Repr

/-- A collective job on this module (R324–R329, R444–R446): its operation and its submission once the engine has taken it, whether it is
`finished` here, so that this module only sends what it owes others, the records held, those ever seen, how often its tree set has been
lost, the trees in the order of R325 as lists of edges between ranks, this module's ports on those edges (tree, rank at the far end,
port), the values in the engine's buffers (chunk, member, elements), those that came before the job started (`early`), the chunks whose
part of this member has been sent, those whose value has been passed on, the chunks of DST whose writes are on their way, those marked,
when it last received a record or set a mark, and whether it has started. -/
structure Job where
  op : Option Nat := none
  desc : Option EngOp := none
  finished : Bool := false
  records : List JobRecord := []
  seen : List JobRecord := []
  round : Nat := 0
  trees : List (List (Nat × Nat)) := []
  ports : List (Nat × Nat × Nat) := []
  bufs : List (Nat × Nat × List W32) := []
  early : List (Nat × List (Nat × List W32)) := []
  sent : List Nat := []
  passed : List Nat := []
  writing : List Nat := []
  marks : List Nat := []
  since : Nat := 0
  started : Bool := false
  deriving DecidableEq, Repr

/-- A regulator domain's internal states (R309): quiet intervals counted, whether it is exhausted, and whether a cluster of it
was above step 0 in the present interval. -/
structure Domain where
  refill : Nat := 0
  fall : Bool := false
  boosted : Bool := false
  deriving DecidableEq, Repr

/-- The phase of the maintenance calendar (R311–R313). -/
inductive Phase where
  /-- Neither a slot nor its approach window. -/
  | open_
  /-- The approach window of the next slot. -/
  | approach
  /-- A slot in progress. -/
  | slot
  deriving DecidableEq, Repr

/-- What the calendar and the periodic events of the always-on domain have reached (R305, R308–R314): the phase, the next frame, boost
interval and energy update, the length of the slot in progress and its extension (R439), whether GT has locked once, the GT of its last
correction, the ticks it still holds and whether it holds them for its first lock, the counting tasks whose table entries are fetched with
the frames they fell due in (R42), whether the boot ROM has run (R303), whether anything has been done since GT last advanced, the core
that last issued a word, whether a word was the last thing chosen and how many events have been chosen (MODEL: with no list of choices,
every core and every event gets its turn), the activities that have used the present tick and the ticks each has used of the frame, and
the registers as the frame began (R315). -/
structure Clock where
  phase : Phase := .slot
  nextFrame : Nat := 1
  nextBoost : Nat := 1
  nextEnergy : Nat := 1
  slotFrame : Nat := 0
  slotLen : Nat := 384
  ext : Nat := 0
  everLocked : Bool := false
  fixedAt : Nat := 0
  hold : Nat := 0
  locking : Bool := false
  dueTasks : List (Nat × Nat) := []
  booted : Bool := false
  worked : Bool := false
  lastCore : Nat := 767
  wordLast : Bool := false
  picked : Nat := 0
  acting : List Activity := []
  spent : List (Activity × Nat) := []
  budgets : SMap W32 := []
  deriving DecidableEq, Repr

/-- What has left the module for a host, a peer or the test port (R85, R126, R127, R316, R323, R324, R359, R463). -/
inductive Sent where
  /-- An MSI-X message of a function: its data, written to its address. -/
  | msix (fn : Nat) (addr : W64) (data : W32)
  /-- A PRI Page Request, with write access asked for or not. -/
  | pageRequest (pasid page : Nat) (write : Bool)
  /-- An ATS Invalidation Completion. -/
  | invalidated (pasid page : Nat)
  /-- A value or an acknowledgement to a peer, over the port its access came by, under the access's tag (R323). -/
  | answer (port tag : Nat) (bytes : List Byte)
  /-- REM to a peer, over the port its access came by (R424). -/
  | refused (port tag : Nat)
  /-- The value of a BAR mirror read. -/
  | value (w : W32)
  /-- A scan chain's bytes, encrypted under the scan key of the GT at the freeze where they hold tenant state (R316). -/
  | scan (chain gt : Nat) (bytes : List Byte)
  /-- A member's record of a job. -/
  | record (job : Nat) (r : JobRecord)
  /-- Elements of a chunk of a job, to the member at the far end of a port (R326, R327). -/
  | chunk (job chunk port : Nat) (words : List W32)
  deriving DecidableEq, Repr

/-- The state of the module. `cxlGone` are the CXL ports at which another expander, or none, has answered since reset (R421); `claims` are
the tickets that agents have claimed and not yet started, each with its agent's core (R302); `heldWords` names the groups whose next word
the calendar holds, in the order they came to it (R313). -/
structure State where
  sys : Sys := {}
  blocks : AMap Block := []
  cores : AMap Core := []
  clusters : AMap Cluster := []
  mem : SMap Byte := []
  fot : SMap W64 := []
  pools : AMap (List Nat) := []
  loc : SMap Loc := []
  frontiers : AMap Frontier := []
  scrubQ : List Nat := []
  moves : List Move := []
  ftWaits : List FtWait := []
  evWaits : List EvWait := []
  badLines : List Nat := []
  l2Bad : List Nat := []
  cxlGone : List Nat := []
  cow : List Nat := []
  rots : AMap Rot := []
  launches : AMap Launch := []
  nextLaunch : Nat := 0
  ops : AMap EngOp := []
  nextOp : Nat := 0
  remotes : AMap Remote := []
  fetched : List (Nat × Nat × List Byte) := []
  host : HostPort := {}
  nextHandle : Nat := 0
  frozen : Bool := false
  frozenAt : Nat := 0
  rings : AMap Ring := []
  cmds : AMap Cmd := []
  nextCmd : Nat := 0
  tickets : AMap Ticket := []
  nextTicket : Nat := 0
  claims : List (Nat × Nat) := []
  husks : List Husk := []
  keys : AMap (List Byte) := []
  parts : AMap Part := []
  jobs : AMap Job := []
  domains : AMap Domain := []
  doms : AMap Nat := []
  clock : Clock := {}
  paused : List Activity := []
  tokenQueues : List (Nat × Nat) := []
  inbound : List (Inbound × Option PageKey) := []
  lastEvicted : Nat := 0
  outbox : List Sent := []
  cursor : Option (Nat × Nat) := none
  heldWords : List (Nat × Nat) := []
  choices : List Nat := []
  fresh : Nat := 0
  inbox : List (Nat × Instr) := []
  deriving DecidableEq, Repr

/-- Why a step stops without a next state. -/
inductive Fault where
  /-- `exec` of a word where no group issues: no step of the machine does this (safe). -/
  | noIssuingGroup
  deriving DecidableEq, Repr

/-- Why a step is refused. -/
inductive Refusal where
  /-- The instruction has no meaning yet; raised by the arm of `exec` that names it (safe). -/
  | notModelled (mnemonic : String)
  deriving DecidableEq, Repr

/-- The outcome of a step of this machine. -/
abbrev Out := Host.Outcome State Fault Refusal

/-- The machine right after module reset (R25). -/
def State.reset : State := {}

end Sys2Proof.Machine
end

