-- ==== Sys2Proof/WellFormed.lean ====
section
/-! DEFINITION. Which words are instructions: the limits of R177, R178, R180, R186, R256 and of each description, as
collected by R373. `encOk r k i` judges an instruction against a launch with REGS `r` and ACCS `k`; `WellFormed` is the
part that does not depend on a launch. For operations and events of agents it bounds the numbers of parts (R18, R34). -/

namespace Sys2Proof

/-- SEL of the integer class (R192). -/
def sel (o : F3) : Nat := fldN o.mod 4 4
/-- COMB of `icmp` (R192). -/
def comb (o : F3) : Nat := fldN o.mod 8 2
/-- W64 as a number of extra registers (R191, R192). -/
def w64 (o : F3) : Nat := b2n (bit o.mod 0)
/-- TY of the floating-point class (R178). -/
def ty (o : F3) : Nat := fldN o.mod 8 2
/-- RND (R178). -/
def rnd (o : F3) : Nat := fldN o.mod 10 3
/-- DTY of `cvt` (R218). -/
def dty (o : F3) : Nat := fldN o.mod 0 4
/-- STY of `cvt` (R218). -/
def sty (o : F3) : Nat := fldN o.mod 4 4
/-- Columns an `ald` or `aput` names (R280). -/
def tileCols (o : F3) : Nat := 2 ^ fldN o.mod 5 3
/-- Registers an `ald` or `aput` names (R280). -/
def tileRegs (o : F3) : Nat := tileCols o * (1 + b2n (bit o.mod 8))
/-- AOP of an atomic (R179). -/
def aop (o : FM) : Nat := fldN o.idx 4 4
/-- ATY of an atomic (R179). -/
def aty (o : FM) : Nat := fldN o.idx 0 4
/-- Registers of the data of an access of width code `w` (R258). -/
def regsOf (w : BitVec 3) : Nat := if w.toNat ≤ 2 then 1 else 2 ^ (w.toNat - 2)
/-- Registers of an atomic's register group (R265). -/
def atomRegs (o : FM) : Nat := (if aty o = 2 then 2 else 1) * (if aop o = 7 then 2 else 1)

/-- Registers a `cvt` operand of a type code occupies (R218). -/
def cvtRegs (t : Nat) : Nat := if t = 2 ∨ t = 3 ∨ t = 7 then 2 else 1
/-- The `cvt` combinations that pack two converted elements and so take a second source (R219). -/
def cvtPacks (s d : Nat) : Bool := decide (s ≤ 4 ∧ (d = 5 ∨ d = 6))
/-- The `cvt` combinations of R219, with the element flag and the rounding code each admits. -/
def cvtOk (s d : Nat) (el : Bool) (r : Nat) : Bool :=
  let int (t : Nat) := decide (t ≤ 3)
  let packed (t : Nat) := decide (t = 5 ∨ t = 6)
  if int s && decide (d = 4) then !el && decide (r ≤ 3)
  else if (int s || decide (s = 4)) && packed d then !el && decide (r ≤ 4)
  else if packed s && packed d && decide (s ≠ d) then !el && decide (r ≤ 4)
  else if packed s && decide (d = 4) then decide (r = 0)
  else if packed s && int d then decide (r ≤ 3)
  else if decide (s = 4) && int d then !el && decide (r ≤ 3)
  else if decide (s = 4 ∧ d = 7) then !el && decide (r = 0)
  else if decide (s = 7 ∧ d = 4) then !el && decide (r ≤ 3)
  else false

/-- The atomic combinations of R265, with the width code each type takes. -/
def atomOk (o : FM) : Bool :=
  let t := aty o
  decide (o.wid.toNat = (if t = 2 then 3 else 2)) &&
  match aop o with
  | 0 | 6 => decide (t ≤ 3)
  | 1 | 2 | 3 | 4 | 5 | 7 => decide (t ≤ 2)
  | 8 => decide (t = 1)
  | _ => false

/-- What a register field of an F3, FI or FM word names (R177, R178). -/
inductive Opd where
  /-- Unused: the field is 0. -/
  | zero
  /-- A source of `n` aligned registers of the form's file, or of the uniform file by its FS bit. -/
  | src (n : Nat)
  /-- `n` registers of the form's own file, aligned to `a`. -/
  | own (n a : Nat)
  /-- `n` aligned uniform registers, with the FS bit given. -/
  | uni (n : Nat) (fs : Bool)
  /-- A predicate 0–7. -/
  | pr
  /-- A predicate 0–7 with its negation in bit 3. -/
  | prn
  /-- A format register 0–7. -/
  | fmr
  /-- An accumulator handle below ACCS. -/
  | hdl
  /-- A field the instruction's own condition judges. -/
  | any
  deriving DecidableEq, Repr

/-- The index field of an FM word. -/
inductive IdxUse where
  /-- A register, or 0xFF for none. -/
  | index
  /-- 0xFF. -/
  | none
  /-- AOP and ATY. -/
  | any
  deriving DecidableEq, Repr

/-- `n` registers from `x` on lie in the uniform file, or in the vector file below REGS, and `x` is a multiple of `a`. -/
def inFile (uniform : Bool) (regs n a x : Nat) : Bool :=
  decide (x % a = 0) && decide (x + n ≤ (if uniform then 64 else regs))

/-- The check of one register field with its FS bit (R177, R178). -/
def opdOk (u : Bool) (r k : Nat) (fs : Bool) (x : Nat) : Opd → Bool
  | .zero => decide (x = 0) && !fs
  | .src n => !(u && fs) && inFile (u || fs) r n n x
  | .own n a => !fs && inFile u r n a x
  | .uni n f => (fs == f) && inFile true r n n x
  | .pr => !fs && decide (x ≤ 7)
  | .prn => !fs && decide (x ≤ 15)
  | .fmr => !fs && decide (x ≤ 7)
  | .hdl => !fs && decide (x < min k 8)
  | .any => true

/-- The register fields and the MOD bits of an F3 word: a MOD bit outside the mask and FSA–FSC is 0. -/
def okF3 (r k : Nat) (h : Head) (o : F3) (d a b c : Opd) (mask : BitVec 16) : Bool :=
  decide (o.mod &&& ~~~(mask ||| 0xE000#16) = 0) &&
  opdOk h.u r k false o.dst.toNat d && opdOk h.u r k (bit o.mod 13) o.sa.toNat a &&
  opdOk h.u r k (bit o.mod 14) o.sb.toNat b && opdOk h.u r k (bit o.mod 15) o.sc.toNat c

/-- The register fields of an FI word. -/
def okFI (r k : Nat) (h : Head) (o : FI) (d a : Opd) : Bool :=
  opdOk h.u r k false o.dst.toNat d && opdOk h.u r k false o.sa.toNat a

/-- The register fields of an FM word. -/
def okFM (r k : Nat) (h : Head) (o : FM) (d base : Opd) (i : IdxUse) : Bool :=
  opdOk h.u r k false o.dst.toNat d && opdOk h.u r k false o.base.toNat base &&
  match i with
  | .index => decide (o.idx = 0xFF#8) || inFile h.u r 1 1 o.idx.toNat
  | .none => decide (o.idx = 0xFF#8)
  | .any => true

/-- HOP[6], the uniform twin of a half (R184). -/
def Half.u (a : Half) : Bool := bit a.hop 6
/-- HOP[5:0] (R184). -/
def Half.code (a : Half) : Nat := fldN a.hop 0 6
/-- M4[2:0] (R184). -/
def Half.kind (a : Half) : Nat := fldN a.m4 0 3
/-- The half's SRC field holds a shift count (R184). -/
def Half.shiftImm (a : Half) : Bool := decide (9 ≤ a.code ∧ a.code ≤ 11)
/-- The half is `lds` or `sts` (R184). -/
def Half.isMem (a : Half) : Bool := decide (a.code = 0x20 ∨ a.code = 0x21)
/-- The half's SRC names a vector register (R183). -/
def Half.srcVec (a : Half) : Bool := !a.u && !a.shiftImm && !bit a.m4 3

/-- A half whose HOP is assigned, with M4 and its registers in range (R183, R184). -/
def okHalf (r : Nat) (a : Half) : Bool :=
  (match a.code with
    | 0x00 | 0x01 | 0x02 | 0x03 | 0x04 | 0x05 | 0x06 | 0x07 | 0x08 | 0x09 | 0x0A | 0x0B => decide (a.kind = 0)
    | 0x0C | 0x0D => decide (a.kind ≤ 1)
    | 0x10 | 0x11 | 0x12 | 0x13 => decide (a.kind ≤ 2)
    | 0x18 => decide (a.kind ≤ 5)
    | 0x20 | 0x21 => decide (a.kind ≤ 2)
    | _ => false) &&
  inFile a.u r 1 1 a.dst.toNat &&
  (if a.shiftImm then decide (a.src.toNat ≤ 31) && !bit a.m4 3
   else !(a.u && bit a.m4 3) && inFile (a.u || bit a.m4 3) r 1 1 a.src.toNat)

/-- The pairing rules of R186. -/
def okPair (a b : Half) : Bool :=
  !(a.srcVec && b.srcVec && decide (a.src.toNat % 4 = b.src.toNat % 4)) &&
  !(!a.u && !b.u && decide (a.dst.toNat % 4 = b.dst.toNat % 4)) &&
  !(a.u && b.u && decide (a.dst = b.dst)) && !(a.isMem && b.isMem)

/-- The word of a BAR lies inside it, aligned (R294). -/
def barWordOk : Option BarWord → Bool
  | none => true
  | some (.bar0 off) => decide (off < 2 ^ 21) && decide (off % 4 = 0)
  | some (.bar2 off) => decide (off < 8192) && decide (off % 4 = 0)
  | some (.bar4 off) => decide (off < 2 ^ 32) && decide (off % 4 = 0)

/-- The encodings that are instructions, in a launch with REGS `r` and ACCS `k` (R373). DESIGN CHOICE: RCV16 of a vector `bra` with UNI 1,
which R228 leaves unread, may hold anything (R165; log 58). -/
def encOk (r k : Nat) : Instr → Bool
  | .nop h o => okF3 r k h o .zero .zero .zero .zero 0
  | .mov h o => okF3 r k h o (.own (1 + w64 o) (1 + w64 o)) (.src (1 + w64 o)) .zero .zero 0x1
  | .movi h o => okFI r k h o (.own 1 1) .zero
  | .iadd h o => okF3 r k h o (.own (1 + w64 o) (1 + w64 o)) (.src (1 + w64 o)) (.src (1 + w64 o)) .zero 0x7 && (bit o.mod 1 || !bit o.mod 2)
  | .iaddi h o => okFI r k h o (.own 1 1) (.own 1 1)
  | .isub h o => okF3 r k h o (.own (1 + w64 o) (1 + w64 o)) (.src (1 + w64 o)) (.src (1 + w64 o)) .zero 0x7 && (bit o.mod 1 || !bit o.mod 2)
  | .imul h o => okF3 r k h o (.own 1 1) (.src 1) (.src 1) .zero 0
  | .imulhi h o => okF3 r k h o (.own 1 1) (.src 1) (.src 1) .zero 0x4
  | .imad h o => okF3 r k h o (.own (1 + w64 o) (1 + w64 o)) (.src 1) (.src 1) (.src (1 + w64 o)) 0x5
  | .imin h o => okF3 r k h o (.own (1 + w64 o) (1 + w64 o)) (.src (1 + w64 o)) (.src (1 + w64 o)) .zero 0x5
  | .imax h o => okF3 r k h o (.own (1 + w64 o) (1 + w64 o)) (.src (1 + w64 o)) (.src (1 + w64 o)) .zero 0x5
  | .iabs h o => okF3 r k h o (.own 1 1) (.src 1) .zero .zero 0x2
  | .ineg h o => okF3 r k h o (.own 1 1) (.src 1) .zero .zero 0x2
  | .and h o => okF3 r k h o (.own 1 1) (.src 1) (.src 1) .zero 0
  | .or h o => okF3 r k h o (.own 1 1) (.src 1) (.src 1) .zero 0
  | .xor h o => okF3 r k h o (.own 1 1) (.src 1) (.src 1) .zero 0
  | .not h o => okF3 r k h o (.own 1 1) (.src 1) .zero .zero 0
  | .andi h o => okFI r k h o (.own 1 1) (.own 1 1)
  | .ori h o => okFI r k h o (.own 1 1) (.own 1 1)
  | .xori h o => okFI r k h o (.own 1 1) (.own 1 1)
  | .shl h o => okF3 r k h o (.own 1 1) (.src 1) (.src 1) .zero 0
  | .shr h o => okF3 r k h o (.own 1 1) (.src 1) (.src 1) .zero 0
  | .sar h o => okF3 r k h o (.own 1 1) (.src 1) (.src 1) .zero 0
  | .shli h o => okFI r k h o (.own 1 1) (.own 1 1) && decide (o.imm.toNat ≤ 31)
  | .shri h o => okFI r k h o (.own 1 1) (.own 1 1) && decide (o.imm.toNat ≤ 31)
  | .sari h o => okFI r k h o (.own 1 1) (.own 1 1) && decide (o.imm.toNat ≤ 31)
  | .rot h o => okF3 r k h o (.own 1 1) (.src 1) (.src 1) .zero 0
  | .bfx h o => okF3 r k h o (.own 1 1) (.src 1) (.src 1) .zero 0x4
  | .bfi h o => okF3 r k h o (.own 1 1) (.src 1) (.src 1) (.src 1) 0
  | .popc h o => okF3 r k h o (.own 1 1) (.src 1) .zero .zero 0
  | .clz h o => okF3 r k h o (.own 1 1) (.src 1) .zero .zero 0
  | .brev h o => okF3 r k h o (.own 1 1) (.src 1) .zero .zero 0
  | .sel h o => okF3 r k h o (.own (1 + w64 o) (1 + w64 o)) (.src (1 + w64 o)) (.src (1 + w64 o)) .prn 0x1
  | .icmp h o => okF3 r k h o .pr (.src (1 + w64 o)) (.src (1 + w64 o)) (if comb o = 0 then .zero else .prn) 0x3F5 && (decide (sel o ≤ 5) && decide (comb o ≤ 2))
  | .icmpi h o => okFI r k h o .any (.own 1 1) && (!bit o.dst 7 && decide (fldN o.dst 4 3 ≤ 5))
  | .plog h o => okF3 r k h o .pr .pr (if sel o = 3 then .zero else .pr) .zero 0x1F8 && (decide (sel o ≤ 3) && (decide (sel o ≠ 3) || !bit o.mod 8))
  | .lea h o => okFM r k h o (.own 2 2) (.own 2 2) .index && decide (o.wid.toNat ≤ 5) && decide (o.xsc.toNat ≤ 1) && decide (o.scope = 0) && decide (o.ord = 0) && decide (o.cpol = 0)
  | .idx h o => okF3 r k h o (.own 1 1) .zero .zero .zero 0xF0 && (!h.u || decide (sel o ≠ 0))
  | .vote h o => !h.u && okF3 r k h o (if sel o = 2 then .uni 1 false else .pr) .pr .zero .zero 0xF8 && decide (sel o ≤ 2)
  | .shfl h o => !h.u && okF3 r k h o (.own 1 1) (.own 1 1) (.src 1) .zero 0xF0 && decide (sel o ≤ 3)
  | .vred h o => !h.u && okF3 r k h o (.uni 1 false) (.own 1 1) .zero .zero 0xF4 && decide (sel o ≤ 4)
  | .fadd h o => okF3 r k h o (.own 1 1) (.src 1) (.src 1) .zero 0x1F1B && (decide (ty o ≤ 2) && decide (rnd o ≤ 3))
  | .fsub h o => okF3 r k h o (.own 1 1) (.src 1) (.src 1) .zero 0x1F1B && (decide (ty o ≤ 2) && decide (rnd o ≤ 3))
  | .fmul h o => okF3 r k h o (.own 1 1) (.src 1) (.src 1) .zero 0x1F1B && (decide (ty o ≤ 2) && decide (rnd o ≤ 3))
  | .ffma h o => okF3 r k h o (.own 1 1) (.src 1) (.src 1) (.src 1) 0x1F3F && (decide (ty o ≤ 2) && decide (rnd o ≤ 3))
  | .fmin h o => okF3 r k h o (.own 1 1) (.src 1) (.src 1) .zero 0x31B && decide (ty o ≤ 2)
  | .fmax h o => okF3 r k h o (.own 1 1) (.src 1) (.src 1) .zero 0x31B && decide (ty o ≤ 2)
  | .fcmp h o => okF3 r k h o .any (.src 1) (.src 1) .zero 0x35B && (!bit o.dst 7 && decide (fldN o.dst 3 3 ≤ 5) && decide (ty o ≤ 2) && (!bit o.mod 6 || decide (ty o ≠ 0)))
  | .fmuli h o => okFI r k h o (.own 1 1) (.own 1 1)
  | .faddi h o => okFI r k h o (.own 1 1) (.own 1 1)
  | .fdot2 h o => okF3 r k h o (.own 1 1) (.src 1) (.src 1) (.src 1) 0x1F3F && (decide (ty o = 1 ∨ ty o = 2) && decide (rnd o ≤ 3))
  | .fclass h o => okF3 r k h o .pr (.src 1) (.src 1) .zero 0x349 && (decide (ty o ≤ 2) && (!bit o.mod 6 || decide (ty o ≠ 0)))
  | .frnd h o => okF3 r k h o (.own 1 1) (.src 1) .zero .zero 0x1F09 && (decide (ty o ≤ 2) && decide (rnd o ≤ 3))
  | .frcp h o => okF3 r k h o (.own 1 1) (.src 1) .zero .zero 0x309 && decide (ty o ≤ 2)
  | .frsq h o => okF3 r k h o (.own 1 1) (.src 1) .zero .zero 0x309 && decide (ty o ≤ 2)
  | .fsqrt h o => okF3 r k h o (.own 1 1) (.src 1) .zero .zero 0x1F09 && (decide (ty o ≤ 2) && decide (rnd o ≤ 3))
  | .fex2 h o => okF3 r k h o (.own 1 1) (.src 1) .zero .zero 0x309 && decide (ty o ≤ 2)
  | .flg2 h o => okF3 r k h o (.own 1 1) (.src 1) .zero .zero 0x309 && decide (ty o ≤ 2)
  | .fsin h o => okF3 r k h o (.own 1 1) (.src 1) .zero .zero 0x309 && decide (ty o ≤ 2)
  | .fcos h o => okF3 r k h o (.own 1 1) (.src 1) .zero .zero 0x309 && decide (ty o ≤ 2)
  | .fsig h o => okF3 r k h o (.own 1 1) (.src 1) .zero .zero 0x309 && decide (ty o ≤ 2)
  | .ftanh h o => okF3 r k h o (.own 1 1) (.src 1) .zero .zero 0x309 && decide (ty o ≤ 2)
  | .cvt h o => okF3 r k h o (.own (cvtRegs (dty o)) (cvtRegs (dty o))) (.src (cvtRegs (sty o))) (if cvtPacks (sty o) (dty o) then .src (cvtRegs (sty o)) else .zero) .zero 0x1DFF && cvtOk (sty o) (dty o) (bit o.mod 8) (rnd o)
  | .npk h o => okF3 r k h o (.own 1 1) (.own 1 1) (.src 1) .fmr 0x1C00 && decide (rnd o = 0 ∨ rnd o = 1 ∨ rnd o = 4)
  | .nunpk h o => okF3 r k h o (.own 1 1) (.own 1 1) (.src 1) .fmr 0
  | .scl h o => okF3 r k h o (.own 1 1) (.src 1) (.src 1) .zero 0x1F01 && (decide (ty o ≤ 2) && decide (rnd o ≤ 3 ∨ (rnd o = 4 ∧ ty o ≠ 0)))
  | .sclx h o => !h.u && okF3 r k h o (.own 1 1) (.own 1 1) .zero .fmr 0x30 && decide (fldN o.mod 4 2 ≤ 2)
  | .tag h o => !h.u && okF3 r k h o (.own 1 1) (.src 1) .zero .zero 0xF && decide (fldN o.mod 0 4 ≤ 13)
  | .tagr h o => !h.u && okF3 r k h o (.own 1 1) (.src 1) (.src 1) .zero 0
  | .fmset h o => h.u && okFI r k h o .fmr .zero && (!bit o.imm 7 && decide (fldN o.imm 28 4 = 0))
  | .bra h o => h.s && decide (fldN o.cond 5 3 = 0) &&
      (if h.u then !bit o.cond 4 && decide (o.rcv = 0) else bit o.cond 4 || decide (o.rcv ≠ 0))
  | .brx h o => h.s && okF3 r k h o .zero (.src 2) .zero .zero (if h.u then 0 else 1) && (h.u || bit o.mod 0)
  | .call h o => h.s && inFile h.u r 2 2 o.cond.toNat && decide (o.rcv = 0)
  | .ret h o => h.s && okF3 r k h o .zero (.src 2) .zero .zero 0
  | .exit h o => h.s && okF3 r k h o .zero .zero .zero .zero 0
  | .bar h o => h.u && h.s && okF3 r k h o .zero .zero .zero .zero 0
  | .bara h o => h.u && okFI r k h o .zero .zero && (decide (fldN o.imm 9 23 = 0) && decide (1 ≤ fldN o.imm 4 5) && decide (fldN o.imm 4 5 ≤ 16))
  | .barw h o => h.u && h.s && okFI r k h o .zero .zero && (decide (fldN o.imm 9 23 = 0) && decide (1 ≤ fldN o.imm 4 5) && decide (fldN o.imm 4 5 ≤ 16))
  | .yld h o => h.u && h.s && okF3 r k h o .zero .zero .zero .zero 0
  | .gcall h o => h.u && h.s && okFI r k h o .zero .zero && decide (o.imm.toNat < 512)
  | .gret h o => h.u && h.s && okF3 r k h o .zero .zero .zero .zero 0
  | .trap h o => h.u && h.s && okFI r k h o .zero .zero && decide (o.imm.toNat < 256)
  | .rte h o => h.u && h.s && okF3 r k h o .zero .zero .zero .zero 0
  | .step h o => h.u && h.s && okF3 r k h o .zero (.uni 1 false) .zero .zero 0
  | .qput h o => h.u && okFM r k h o (.uni 1 false) (.own 2 2) .none && decide (o.wid = 0) && decide (o.scope = 0) && decide (o.ord = 0) && decide (o.cpol = 0) && decide (o.xsc.toNat ≤ 1) && decide (o.off = 0)
  | .qget h o => h.u && okFM r k h o (.uni 1 false) (.own 2 2) .none && decide (o.wid = 0) && decide (o.scope = 0) && decide (o.ord = 0) && decide (o.cpol = 0) && decide (o.xsc.toNat ≤ 1) && decide (o.off = 0)
  | .qctlDone h o => h.u && okF3 r k h o (.uni 1 false) (.uni 2 false) (.uni 1 false) .zero 0xF && decide (fldN o.mod 0 4 = 0)
  | .qctlErr h o => h.u && okF3 r k h o (.uni 1 false) (.uni 2 false) (.uni 1 false) .zero 0xF && decide (fldN o.mod 0 4 = 1)
  | .qctlRun h o => h.u && okF3 r k h o (.uni 1 false) (.uni 2 false) (.uni 1 false) .zero 0xF && decide (fldN o.mod 0 4 = 2)
  | .qctlSetr h o => h.u && okF3 r k h o (.uni 1 false) (.uni 2 false) (.uni 1 false) .zero 0xF && decide (fldN o.mod 0 4 = 3)
  | .qctlStat h o => h.u && okF3 r k h o (.uni 1 false) (.uni 2 false) (.uni 1 false) .zero 0xF && decide (fldN o.mod 0 4 = 4)
  | .ld h o => okFM r k h o (.own (regsOf o.wid) (regsOf o.wid)) (.own 2 2) .index && decide (o.wid.toNat ≤ 5) && decide (o.scope.toNat ≤ 5) && decide (o.ord.toNat ≤ 1)
  | .ldTyped h t o => !h.u && okFM r k h o (.own (regsOf o.wid) (regsOf o.wid)) (.own 2 2) .index && decide (o.wid.toNat ≤ 5) && decide (o.scope.toNat ≤ 5) && decide (o.ord.toNat ≤ 1) && decide (1 ≤ t.toNat) && decide (t.toNat ≤ 11)
  | .st h o => okFM r k h o (.own (regsOf o.wid) (regsOf o.wid)) (.own 2 2) .index && decide (o.wid.toNat ≤ 5) && decide (o.scope.toNat ≤ 5) && decide (o.ord = 0 ∨ o.ord = 2)
  | .lds h o => okFM r k h o (.own (regsOf o.wid) (regsOf o.wid)) (.own 2 2) .index && decide (o.wid.toNat ≤ 5) && decide (o.scope.toNat ≤ 1) && decide (o.ord.toNat ≤ 1) && decide (o.cpol = 0)
  | .ldsTyped h t o => !h.u && okFM r k h o (.own (regsOf o.wid) (regsOf o.wid)) (.own 2 2) .index && decide (o.wid.toNat ≤ 5) && decide (o.scope.toNat ≤ 1) && decide (o.ord.toNat ≤ 1) && decide (o.cpol = 0) && decide (1 ≤ t.toNat) && decide (t.toNat ≤ 11)
  | .sts h o => okFM r k h o (.own (regsOf o.wid) (regsOf o.wid)) (.own 2 2) .index && decide (o.wid.toNat ≤ 5) && decide (o.scope.toNat ≤ 1) && decide (o.ord = 0 ∨ o.ord = 2) && decide (o.cpol = 0)
  | .ldc h o => okFM r k h o (.own (regsOf o.wid) (regsOf o.wid)) (.own 2 2) .index && decide (2 ≤ o.wid.toNat) && decide (o.wid.toNat ≤ 5) && decide (o.scope = 0) && decide (o.ord = 0) && decide (o.cpol = 0)
  | .atom h o => okFM r k h o (.own (atomRegs o) (atomRegs o)) (.own 2 2) .any && decide (o.scope.toNat ≤ 5) && decide (o.xsc = 0) && atomOk o
  | .atoms h o => okFM r k h o (.own (atomRegs o) (atomRegs o)) (.own 2 2) .any && decide (o.scope.toNat ≤ 1) && decide (o.xsc = 0) && decide (o.cpol = 0) && atomOk o
  | .red h o => okFM r k h o (.own (atomRegs o) (atomRegs o)) (.own 2 2) .any && decide (o.scope.toNat ≤ 5) && decide (o.ord = 0 ∨ o.ord = 2) && decide (o.xsc = 0) && atomOk o && decide (aop o ≠ 6 ∧ aop o ≠ 7)
  | .fence h o => h.u && okFM r k h o .zero .zero .none && decide (o.wid = 0) && decide (o.scope.toNat ≤ 5) && decide (o.ord ≠ 0) && decide (o.cpol = 0) && decide (o.xsc = 0) && decide (o.off = 0)
  | .cbinv h o => okFM r k h o .zero (.own 2 2) .none && decide (o.wid = 0) && decide (o.scope = 0) && decide (o.ord = 0) && decide (o.cpol = 0) && decide (o.xsc = 0)
  | .tlook h o => okFM r k h o (.own 1 1) (.own 2 2) .index && decide (o.wid = 0) && decide (o.scope = 0) && decide (o.ord = 0) && decide (o.cpol = 0)
  | .tset h o => okFM r k h o (.own 1 1) (.own 2 2) .none && decide (o.wid = 0) && decide (o.scope = 0) && decide (o.ord = 0) && decide (o.cpol = 0) && decide (o.xsc = 0)
  | .tclr h o => okF3 r k h o .zero (if bit o.mod 0 then .zero else .src 1) .zero .zero 0x1
  | .prf h o => okFM r k h o .zero (.own 2 2) .index && decide (o.wid = 0) && decide (o.scope = 0) && decide (o.ord = 0)
  | .fget h o => okF3 r k h o (.own 1 1) .zero .zero .zero 0
  | .fput h o => okF3 r k h o .zero (.src 1) .zero .zero 0
  | .tinv h o => okF3 r k h o .zero (.src 2) (.src 1) .zero 0x1
  | .mma h o => !h.u && okF3 r k h o .hdl (.own (8 * (fldN o.mod 0 6 + 1)) 1) (.uni 1 true) (if fldN o.mod 8 2 = 0 then .fmr else .zero) 0x37F && decide (fldN o.mod 8 2 ≤ 2)
  | .mmam h o => !h.u && okF3 r k h o .hdl (.own (8 * (fldN o.mod 0 6 + 1)) 1) (.uni 2 true) (if fldN o.mod 8 2 = 0 then .fmr else .zero) 0x37F && decide (fldN o.mod 8 2 ≤ 2)
  | .mmt h o => !h.u && okF3 r k h o .hdl (.own (8 * (fldN o.mod 0 6 + 1)) 1) (.uni 2 true) (if fldN o.mod 8 2 = 0 then .fmr else .zero) 0x37F && decide (fldN o.mod 8 2 ≤ 2)
  | .aalloc h o => h.u && okF3 r k h o .hdl (.uni 1 false) .zero .zero 0
  | .afree h o => h.u && okF3 r k h o .hdl .zero .zero .zero 0
  | .azero h o => h.u && okF3 r k h o .hdl .zero .zero .zero 0
  | .ald h o => !h.u && okF3 r k h o (.own (tileRegs o) 1) .hdl (.src 1) .zero 0x1DFF && (decide (fldN o.mod 5 3 ≤ 4) && decide (fldN o.mod 0 5 % tileCols o = 0) && decide (fldN o.mod 0 5 + tileCols o ≤ 32) && (!bit o.mod 8 || decide (tileCols o ≤ 8))) && decide (rnd o ≤ 3) && (!bit o.mod 8 || decide (rnd o = 0))
  | .aput h o => !h.u && okF3 r k h o .hdl (.own (tileRegs o) 1) (.src 1) .zero 0x1FF && (decide (fldN o.mod 5 3 ≤ 4) && decide (fldN o.mod 0 5 % tileCols o = 0) && decide (fldN o.mod 0 5 + tileCols o ≤ 32) && (!bit o.mod 8 || decide (tileCols o ≤ 8)))
  | .tmld h o => h.u && okF3 r k h o .zero (.uni 2 false) (.uni 1 false) .zero 0
  | .cpy h o => h.u && okF3 r k h o .zero (.uni 2 false) .zero .zero 0
  | .gth h o => h.u && okF3 r k h o .zero (.uni 2 false) .zero .zero 0
  | .sct h o => h.u && okF3 r k h o .zero (.uni 2 false) .zero .zero 0
  | .coll h o => h.u && okF3 r k h o .zero (.uni 2 false) .zero .zero 0
  | .waitc h o => h.u && okFI r k h o .zero .zero && (decide (fldN o.imm 6 2 = 0) && decide (fldN o.imm 10 22 = 0))
  | .cntr h o => h.u && okF3 r k h o (.uni 1 false) .zero .zero .zero 0
  | .srd h o => inFile h.u r 1 1 o.dst.toNat && decide (o.mod.toNat ≤ 1) &&
      (if bit o.mod 0 then inFile true r 1 1 o.sa.toNat else decide (o.sa = 0))
  | .swr h o => h.u && inFile h.u r 1 1 o.dst.toNat && decide (o.mod.toNat ≤ 1) &&
      (if bit o.mod 0 then inFile true r 1 1 o.sa.toNat else decide (o.sa = 0))
  | .gtm h o => okF3 r k h o (.own 2 2) .zero .zero .zero 0
  | .ccnt h o => okF3 r k h o (.own 2 2) .zero .zero .zero 0
  | .calq h o => okF3 r k h o (.own 4 2) .zero .zero .zero 0
  | .bst h o => h.u && okFI r k h o .zero .zero && decide (o.imm.toNat ≤ 2)
  | .place h o => h.u && okF3 r k h o (.uni 1 false) (.uni 2 false) (.uni 1 false) .zero 0
  | .seal h o => h.u && okF3 r k h o (.uni 1 false) (.uni 2 false) (.uni 1 false) .zero 0
  | .pmpt h o => h.u && okF3 r k h o (.uni 1 false) (.uni 1 false) (.uni 2 false) .zero 0x1
  | .pairWord _ a b => okHalf r a && okHalf r b && okPair a b
  | .grant core _ _ _ => decide (core < 768)
  | .reclaim core _ _ _ => decide (core < 768)
  | .take core _ _ _ => decide (core < 768)
  | .release core _ _ _ => decide (core < 768)
  | .window core _ _ _ => decide (core < 768)
  | .unwindow core _ _ _ => decide (core < 768)
  | .audbuf core _ _ _ => decide (core < 768)
  | .preset core _ _ _ => decide (core < 768)
  | .audtext core _ _ _ => decide (core < 768)
  | .arm part => decide (part < 64)
  | .disarm part => decide (part < 64)
  | .ctlmark part => decide (part < 64)
  | .tohbm core => decide (core < 768)
  | .tocxl core => decide (core < 768)
  | .tocold core => decide (core < 768)
  | .query core => decide (core < 768)
  | .tierMoveComplete frame => decide (frame < Config.frames)
  | .tqcmd core _ _ => decide (core < 768)
  | .evictCxlDirect core _ _ => decide (core < 768)
  | .evictCxlCold core _ _ => decide (core < 768)
  | .ckproll part _ => decide (part < 64)
  | .ctxkill _ => true
  | .dbgctlFreeze => true
  | .testPortFreeze => true
  | .cxlRetrain port => decide (port < 8)
  | .hqtailDoorbell ring _ => decide (ring < 1040)
  | .hqskip ring _ => decide (ring < 1040)
  | .hqctlWrite ring _ => decide (ring < 1040)
  | .ttcfgWrite _ _ => true
  | .sillageConfigWrite part _ => decide (part < 64)
  | .energyCapture g _ => decide (g < 4)
  | .wearthrWrite _ => true
  | .registerWrite _ target part _ => decide (part < 64) && (match target with | .word w => barWordOk (some w) | _ => true)
  | .moduleReset => true
  | .boot => true
  | .frameBoundary => true
  | .budgetExhausted _ => true
  | .boostIntervalBoundary => true
  | .energyUpdate _ => true
  | .droopStretch cluster => decide (cluster < 192)
  | .approachWindowStart => true
  | .slotOpen => true
  | .slotClose _ => true
  | .slotOverrun _ _ => true
  | .gtSyncExchange _ => true
  | .waitSatisfied _ gi => decide (gi < 16)
  | .blockStart _ => true
  | .gangStart _ => true
  | .gangPriorityTimeout _ => true
  | .gangCannotFit _ => true
  | .blockComplete _ => true
  | .stepBoundaryComplete _ => true
  | .blockSwitchOut _ => true
  | .blockPageIn _ => true
  | .matrixPass cluster => decide (cluster < 192)
  | .engineOpComplete _ => true
  | .scrubLine frame => decide (frame < Config.frames)
  | .nopPacket ring => decide (ring < 1040)
  | .indirect ring => decide (ring < 1040)
  | .launch _ => true
  | .bundle _ => true
  | .copy _ => true
  | .signal _ => true
  | .wait _ => true
  | .waitReread _ => true
  | .checkpoint _ => true
  | .qconfig _ => true
  | .packetFetch ring => decide (ring < 1040)
  | .ticketPost _ => true
  | .commandStart _ => true
  | .ticketRepost _ => true
  | .commandRetire _ => true
  | .msixMessageSend _ => true
  | .queueRetest _ gi => decide (gi < 16)
  | .gateDeadline _ gi => decide (gi < 16)
  | .remoteTimeout _ => true
  | .remoteResponse _ _ => true
  | .inboundPeerAccess _ => true
  | .atsResponse _ _ => true
  | .atsInvalidation _ _ => true
  | .invalidationCompletion _ _ => true
  | .pageRequestResponse _ _ _ => true
  | .functionLevelReset _ => true
  | .pcieLinkDown => true
  | .linkRetryFail port => decide (port < 128)
  | .collRecordReceive _ _ => true
  | .collChunkMark _ _ _ => true
  | .collStallTimeout _ => true
  | .cxlPortLoss port => decide (port < 8)
  | .blastError _ _ _ => true
  | .turnGrant _ => true
  | .turnQuantumExpiry _ => true
  | .turnForcedSealing part => decide (part < 64)
  | .checkpointDue part => decide (part < 64)
  | .checkpointCut part => decide (part < 64)
  | .checkpointFrameCopy part frame => decide (part < 64) && decide (frame < Config.frames)
  | .checkpointCommit part => decide (part < 64)
  | .droopRecovery cluster => decide (cluster < 192)
  | .scanReadout _ => true
  | .pcieLinkUp _ => true
  | .cxlTrainingComplete port _ => decide (port < 8)
  | .forcedSealingOverdue part => decide (part < 64)
  | .wordNamingNoInstruction _ => true
  | .instructionFetchFailure _ => true
  | .barMirrorRead _ _ part word => decide (part < 64) && barWordOk word

/-- An instruction that some launch may issue: every field within the limits that do not depend on the launch (R373). -/
def WellFormed (i : Instr) : Bool := encOk 255 8 i

/-- The instruction is a word of the instruction set, not an operation or event of an agent. -/
def Instr.isWord : Instr → Bool
  | .nop _ _ => true
  | .mov _ _ => true
  | .movi _ _ => true
  | .iadd _ _ => true
  | .iaddi _ _ => true
  | .isub _ _ => true
  | .imul _ _ => true
  | .imulhi _ _ => true
  | .imad _ _ => true
  | .imin _ _ => true
  | .imax _ _ => true
  | .iabs _ _ => true
  | .ineg _ _ => true
  | .and _ _ => true
  | .or _ _ => true
  | .xor _ _ => true
  | .not _ _ => true
  | .andi _ _ => true
  | .ori _ _ => true
  | .xori _ _ => true
  | .shl _ _ => true
  | .shr _ _ => true
  | .sar _ _ => true
  | .shli _ _ => true
  | .shri _ _ => true
  | .sari _ _ => true
  | .rot _ _ => true
  | .bfx _ _ => true
  | .bfi _ _ => true
  | .popc _ _ => true
  | .clz _ _ => true
  | .brev _ _ => true
  | .sel _ _ => true
  | .icmp _ _ => true
  | .icmpi _ _ => true
  | .plog _ _ => true
  | .lea _ _ => true
  | .idx _ _ => true
  | .vote _ _ => true
  | .shfl _ _ => true
  | .vred _ _ => true
  | .fadd _ _ => true
  | .fsub _ _ => true
  | .fmul _ _ => true
  | .ffma _ _ => true
  | .fmin _ _ => true
  | .fmax _ _ => true
  | .fcmp _ _ => true
  | .fmuli _ _ => true
  | .faddi _ _ => true
  | .fdot2 _ _ => true
  | .fclass _ _ => true
  | .frnd _ _ => true
  | .frcp _ _ => true
  | .frsq _ _ => true
  | .fsqrt _ _ => true
  | .fex2 _ _ => true
  | .flg2 _ _ => true
  | .fsin _ _ => true
  | .fcos _ _ => true
  | .fsig _ _ => true
  | .ftanh _ _ => true
  | .cvt _ _ => true
  | .npk _ _ => true
  | .nunpk _ _ => true
  | .scl _ _ => true
  | .sclx _ _ => true
  | .tag _ _ => true
  | .tagr _ _ => true
  | .fmset _ _ => true
  | .bra _ _ => true
  | .brx _ _ => true
  | .call _ _ => true
  | .ret _ _ => true
  | .exit _ _ => true
  | .bar _ _ => true
  | .bara _ _ => true
  | .barw _ _ => true
  | .yld _ _ => true
  | .gcall _ _ => true
  | .gret _ _ => true
  | .trap _ _ => true
  | .rte _ _ => true
  | .step _ _ => true
  | .qput _ _ => true
  | .qget _ _ => true
  | .qctlDone _ _ => true
  | .qctlErr _ _ => true
  | .qctlRun _ _ => true
  | .qctlSetr _ _ => true
  | .qctlStat _ _ => true
  | .ld _ _ => true
  | .ldTyped _ _ _ => true
  | .st _ _ => true
  | .lds _ _ => true
  | .ldsTyped _ _ _ => true
  | .sts _ _ => true
  | .ldc _ _ => true
  | .atom _ _ => true
  | .atoms _ _ => true
  | .red _ _ => true
  | .fence _ _ => true
  | .cbinv _ _ => true
  | .tlook _ _ => true
  | .tset _ _ => true
  | .tclr _ _ => true
  | .prf _ _ => true
  | .fget _ _ => true
  | .fput _ _ => true
  | .tinv _ _ => true
  | .mma _ _ => true
  | .mmam _ _ => true
  | .mmt _ _ => true
  | .aalloc _ _ => true
  | .afree _ _ => true
  | .azero _ _ => true
  | .ald _ _ => true
  | .aput _ _ => true
  | .tmld _ _ => true
  | .cpy _ _ => true
  | .gth _ _ => true
  | .sct _ _ => true
  | .coll _ _ => true
  | .waitc _ _ => true
  | .cntr _ _ => true
  | .srd _ _ => true
  | .swr _ _ => true
  | .gtm _ _ => true
  | .ccnt _ _ => true
  | .calq _ _ => true
  | .bst _ _ => true
  | .place _ _ => true
  | .seal _ _ => true
  | .pmpt _ _ => true
  | .pairWord _ _ _ => true
  | .grant _ _ _ _ => false
  | .reclaim _ _ _ _ => false
  | .take _ _ _ _ => false
  | .release _ _ _ _ => false
  | .window _ _ _ _ => false
  | .unwindow _ _ _ _ => false
  | .audbuf _ _ _ _ => false
  | .preset _ _ _ _ => false
  | .audtext _ _ _ _ => false
  | .arm _ => false
  | .disarm _ => false
  | .ctlmark _ => false
  | .tohbm _ => false
  | .tocxl _ => false
  | .tocold _ => false
  | .query _ => false
  | .tierMoveComplete _ => false
  | .tqcmd _ _ _ => false
  | .evictCxlDirect _ _ _ => false
  | .evictCxlCold _ _ _ => false
  | .ckproll _ _ => false
  | .ctxkill _ => false
  | .dbgctlFreeze => false
  | .testPortFreeze => false
  | .cxlRetrain _ => false
  | .hqtailDoorbell _ _ => false
  | .hqskip _ _ => false
  | .hqctlWrite _ _ => false
  | .ttcfgWrite _ _ => false
  | .sillageConfigWrite _ _ => false
  | .energyCapture _ _ => false
  | .wearthrWrite _ => false
  | .registerWrite _ _ _ _ => false
  | .moduleReset => false
  | .boot => false
  | .frameBoundary => false
  | .budgetExhausted _ => false
  | .boostIntervalBoundary => false
  | .energyUpdate _ => false
  | .droopStretch _ => false
  | .approachWindowStart => false
  | .slotOpen => false
  | .slotClose _ => false
  | .slotOverrun _ _ => false
  | .gtSyncExchange _ => false
  | .waitSatisfied _ _ => false
  | .blockStart _ => false
  | .gangStart _ => false
  | .gangPriorityTimeout _ => false
  | .gangCannotFit _ => false
  | .blockComplete _ => false
  | .stepBoundaryComplete _ => false
  | .blockSwitchOut _ => false
  | .blockPageIn _ => false
  | .matrixPass _ => false
  | .engineOpComplete _ => false
  | .scrubLine _ => false
  | .nopPacket _ => false
  | .indirect _ => false
  | .launch _ => false
  | .bundle _ => false
  | .copy _ => false
  | .signal _ => false
  | .wait _ => false
  | .waitReread _ => false
  | .checkpoint _ => false
  | .qconfig _ => false
  | .packetFetch _ => false
  | .ticketPost _ => false
  | .commandStart _ => false
  | .ticketRepost _ => false
  | .commandRetire _ => false
  | .msixMessageSend _ => false
  | .queueRetest _ _ => false
  | .gateDeadline _ _ => false
  | .remoteTimeout _ => false
  | .remoteResponse _ _ => false
  | .inboundPeerAccess _ => false
  | .atsResponse _ _ => false
  | .atsInvalidation _ _ => false
  | .invalidationCompletion _ _ => false
  | .pageRequestResponse _ _ _ => false
  | .functionLevelReset _ => false
  | .pcieLinkDown => false
  | .linkRetryFail _ => false
  | .collRecordReceive _ _ => false
  | .collChunkMark _ _ _ => false
  | .collStallTimeout _ => false
  | .cxlPortLoss _ => false
  | .blastError _ _ _ => false
  | .turnGrant _ => false
  | .turnQuantumExpiry _ => false
  | .turnForcedSealing _ => false
  | .checkpointDue _ => false
  | .checkpointCut _ => false
  | .checkpointFrameCopy _ _ => false
  | .checkpointCommit _ => false
  | .droopRecovery _ => false
  | .scanReadout _ => false
  | .pcieLinkUp _ => false
  | .cxlTrainingComplete _ _ => false
  | .forcedSealingOverdue _ => false
  | .wordNamingNoInstruction _ => false
  | .instructionFetchFailure _ => false
  | .barMirrorRead _ _ _ _ => false

end Sys2Proof
end

