-- ==== Sys2Proof/Machine/Operands.lean ====
section
/-! DEFINITION. Reading operands and writing results: the register files (R77–R81), guards (R174), the lanes a word
executes for (R189, R371), and the view of the group that issues. -/

namespace Sys2Proof.Machine

/-- A vector register of a lane; a register never written is 0, tagged I32 (R54). -/
def Regs.vec (r : Regs) (reg lane : Nat) : VReg := SMap.get (fun _ => {}) r.v (32 * reg + lane)
/-- Write a vector register of a lane with its tag (R81). -/
def Regs.setVec (r : Regs) (reg lane : Nat) (x : VReg) : Regs :=
  { r with v := SMap.set (fun _ => {}) r.v (32 * reg + lane) x, late := r.late.filter (fun e => decide (e.1 ≠ 32 * reg + lane)) }
/-- A uniform register. -/
def Regs.uni (r : Regs) (reg : Nat) : W32 := SMap.get (fun _ => 0) r.s reg
/-- Write a uniform register. -/
def Regs.setUni (r : Regs) (reg : Nat) (x : W32) : Regs :=
  { r with s := SMap.set (fun _ => 0) r.s reg x, late := r.late.filter (fun e => decide (e.1 ≠ 8192 + reg)) }
/-- A vector predicate in a lane; `p7` reads true (R77). -/
def Regs.pred (r : Regs) (k lane : Nat) : Bool := k == 7 || bit (SMap.get (fun _ => 0) r.p k) lane
/-- Write a vector predicate in a lane; a write of `p7` is discarded (R77). -/
def Regs.setPred (r : Regs) (k lane : Nat) (x : Bool) : Regs :=
  if k = 7 then r else
    let m := SMap.get (fun _ => 0) r.p k
    let l : W32 := 1#32 <<< lane
    { r with p := SMap.set (fun _ => 0) r.p k (if x then m ||| l else m &&& ~~~ l) }
/-- A uniform predicate; `q7` reads true (R77). -/
def Regs.upred (r : Regs) (k : Nat) : Bool := k == 7 || SMap.get (fun _ => false) r.q k
/-- Write a uniform predicate; a write of `q7` is discarded (R77). -/
def Regs.setUpred (r : Regs) (k : Nat) (x : Bool) : Regs :=
  if k = 7 then r else { r with q := SMap.set (fun _ => false) r.q k x }

/-- The group that issues and the slot its word comes from. -/
structure View where
  handle : Nat
  gi : Nat
  core : Nat
  gslot : Nat
  b : Block
  g : Group
  d : Bool

/-- The slot of a group by number. -/
def Group.slot (g : Group) (d : Bool) : Slot := if d then g.slot1 else g.slot0
/-- Replace a slot. -/
def Group.setSlot (g : Group) (d : Bool) (x : Slot) : Group := if d then { g with slot1 := x } else { g with slot0 := x }

/-- The issuing slot. -/
def View.sl (v : View) : Slot := v.g.slot v.d
/-- The address of the issuing word. -/
def View.pc (v : View) : W64 := v.sl.pc
/-- The lanes of the issuing slot. -/
def View.mask (v : View) : W32 := v.sl.mask
/-- The core's cluster (R18). -/
def View.cluster (v : View) : Nat := v.core / 4

/-- The slot a group issues from next: within a run the run's own; between runs the other slot if it can issue, else the
same (R62). A slot can issue when it is live, has not arrived and does not wait. -/
def Group.nextSlot (g : Group) : Option Bool :=
  let able (d : Bool) : Bool := (g.slot d).live && !(g.slot d).arr && decide ((g.slot d).wait = .none)
  if g.ending || g.stopped || g.forced.isSome then none
  else if g.inRun then (if able g.cur then some g.cur else none)
  else if able !g.cur then some !g.cur
  else if able g.cur then some g.cur
  else none

/-- The block's core, when it is resident. -/
def Block.core? (b : Block) : Option Nat :=
  match b.place with
  | .core c => some c
  | _ => none

/-- The view of a group, when its block is resident and a slot can issue. -/
def viewOf (s : State) (handle gi : Nat) : Option View :=
  match AMap.get? s.blocks handle with
  | none => none
  | some b =>
    match b.core?, b.groups[gi]? with
    | some c, some g =>
      match g.nextSlot with
      | some d => some { handle, gi, core := c, gslot := b.gslots.getD gi 0, b, g, d }
      | none => none
    | _, _ => none

/-- The group that issues: the one the cursor names (R65, R67). -/
def issuing (s : State) : Option View :=
  match s.cursor with
  | none => none
  | some (h, gi) => viewOf s h gi

/-- A vector guard in a lane (R174), as of run start (R56). -/
def View.guardV (v : View) (g : BitVec 3) (n : Bool) (lane : Nat) : Bool := v.g.base.pred g.toNat lane != n
/-- A uniform guard (R174), as of run start (R56). -/
def View.guardQ (v : View) (g : BitVec 3) (n : Bool) : Bool := v.g.base.upred g.toNat != n

/-- The lanes of the issuing slot's mask whose guard holds (R189, R371). -/
def View.lanes (v : View) (h : Head) : W32 := maskOf (fun i => bit v.mask i && v.guardV h.g h.n i)
/-- The uniform guard of a word. -/
def View.go (v : View) (h : Head) : Bool := v.guardQ h.g h.n
/-- The executions of a word: its executing lanes, or one execution (numbered 0) for the group (R189). -/
def View.units (v : View) (h : Head) : List Nat :=
  if h.u then (if v.go h then [0] else []) else lanesOf (v.lanes h)
/-- The lanes a fault record names for the executions that fail: in uniform form the slot's mask (R372). -/
def View.failMask (v : View) (h : Head) (bad : List Nat) : W32 :=
  if h.u then (if bad.isEmpty then 0 else v.mask) else maskOf (fun i => bad.contains i)

/-- A 32-bit source at run start: of the uniform file in uniform form or by its FS bit, else of the lane (R174, R178). -/
def View.src (v : View) (h : Head) (fs : Bool) (x : BitVec 8) (lane : Nat) : W32 :=
  if h.u || fs then v.g.base.uni x.toNat else (v.g.base.vec x.toNat lane).bits
/-- A 64-bit source pair (R78). -/
def View.src64 (v : View) (h : Head) (fs : Bool) (x : BitVec 8) (lane : Nat) : W64 :=
  if h.u || fs then pair (v.g.base.uni x.toNat) (v.g.base.uni (x.toNat + 1))
  else pair (v.g.base.vec x.toNat lane).bits (v.g.base.vec (x.toNat + 1) lane).bits
/-- A source of 32 or 64 bits, zero-extended to 64. -/
def View.srcN (v : View) (h : Head) (w : Bool) (fs : Bool) (x : BitVec 8) (lane : Nat) : W64 :=
  if w then v.src64 h fs x lane else (v.src h fs x lane).zeroExtend 64
/-- A predicate operand in the form's file (R197). -/
def View.prd (v : View) (h : Head) (k : Nat) (lane : Nat) : Bool :=
  if h.u then v.g.base.upred k else v.g.base.pred k lane
/-- The tag of a source passes the check for a required tag: a uniform source always does (R208). -/
def View.tagOk (v : View) (h : Head) (fs : Bool) (x : Nat) (tag : BitVec 4) (lane : Nat) : Bool :=
  h.u || fs || decide ((v.g.base.vec x lane).tag = tag)

/-- Write a 32-bit result into the form's file (R81, R189). -/
def putReg (u : Bool) (reg lane : Nat) (tag : BitVec 4) (x : W32) (r : Regs) : Regs :=
  if u then r.setUni reg x else r.setVec reg lane { bits := x, tag := tag }
/-- Write a 64-bit result into an even pair of the form's file (R78). -/
def putPair (u : Bool) (reg lane : Nat) (tag : BitVec 4) (x : W64) (r : Regs) : Regs :=
  putReg u (reg + 1) lane tag (hi32 x) (putReg u reg lane tag (lo32 x) r)
/-- Write a result of 32 or 64 bits. -/
def putN (u w : Bool) (reg lane : Nat) (tag : BitVec 4) (x : W64) (r : Regs) : Regs :=
  if w then putPair u reg lane tag x r else putReg u reg lane tag (lo32 x) r
/-- Write a predicate result into the form's file (R198). -/
def putPrd (u : Bool) (k lane : Nat) (x : Bool) (r : Regs) : Regs :=
  if u then r.setUpred k x else r.setPred k lane x
/-- Write consecutive registers. -/
def putRegs (u : Bool) (reg lane : Nat) (tag : BitVec 4) : List W32 → Regs → Regs
  | [], r => r
  | x :: xs, r => putRegs u (reg + 1) lane tag xs (putReg u reg lane tag x r)

/-- The key of a register in `late`. -/
def lateKey (u : Bool) (reg lane : Nat) : Nat := if u then 8192 + reg else 32 * reg + lane
/-- A word's result in `n` registers is still to come (R56, R57). -/
def Regs.await (r : Regs) (u : Bool) (reg lane n : Nat) (iaddr : W64) : Regs :=
  (List.range n).foldl (fun r j =>
    let k := lateKey u (reg + j) lane
    { r with late := (k, iaddr) :: r.late.filter (fun e => decide (e.1 ≠ k)) }) r
/-- A late result of a word is written to the registers that no later word of its run has written (R56). -/
def Regs.putLate (u : Bool) (reg lane : Nat) (tag : BitVec 4) (iaddr : W64) : List W32 → Regs → Regs
  | [], r => r
  | x :: xs, r =>
    Regs.putLate u (reg + 1) lane tag iaddr xs
      (if r.late.contains (lateKey u reg lane, iaddr) then putReg u reg lane tag x r else r)

/-- The results of a word: a write for each of its executions, in ascending lane order (R189). -/
def View.forUnits (v : View) (h : Head) (f : Nat → Regs → Regs) : Regs :=
  (v.units h).foldl (fun r l => f l r) v.g.live

/-- Tag I32 (R80). -/
def tagI32 : BitVec 4 := 0
/-- Tag F32 (R80). -/
def tagF32 : BitVec 4 := 1
/-- The tag of a floating-point type code TY (R178, R208). -/
def tagTy (t : Nat) : BitVec 4 := BitVec.ofNat 4 (t + 1)
/-- Tag F48H (R80). -/
def tagF48H : BitVec 4 := 12
/-- Tag F48L (R80). -/
def tagF48L : BitVec 4 := 13

end Sys2Proof.Machine
end

