-- ==== Sys2Proof/Machine/Flags.lean ====
section
/-! DEFINITION. Conditions and predicate results. The machine has no arithmetic flag register (R94): the flags of this
instruction set are predicates, written by the comparisons and combined by `plog` and `vote`. -/

namespace Sys2Proof.Machine

/-- A condition code of `icmp` and `icmpi` on two exact integers: 0 eq, 1 ne, 2 lt, 3 le, 4 gt, 5 ge (R198). -/
def condInt (c : Nat) (a b : Int) : Bool :=
  match c with
  | 0 => decide (a = b)
  | 1 => decide (a ≠ b)
  | 2 => decide (a < b)
  | 3 => decide (a ≤ b)
  | 4 => decide (a > b)
  | _ => decide (a ≥ b)

/-- A 32- or 64-bit operand, zero-extended to 64 bits, read as signed or unsigned (R193). -/
def intOf (w64 uns : Bool) (x : W64) : Int :=
  if uns then (if w64 then x.toNat else (lo32 x).toNat) else (if w64 then x.toInt else (lo32 x).toInt)

/-- `icmp`'s combination of a condition with a predicate: 0 none, 1 and, 2 or (R198). -/
def combine (comb : Nat) (t p : Bool) : Bool :=
  match comb with
  | 0 => t
  | 1 => t && p
  | _ => t || p

/-- `plog`'s operations on predicates: 0 and, 1 or, 2 xor, 3 not (R200). -/
def plogOp (sel : Nat) (a b : Bool) : Bool :=
  match sel with
  | 0 => a && b
  | 1 => a || b
  | 2 => a != b
  | _ => !a

end Sys2Proof.Machine
end

