-- ==== Sys2Proof/Machine/Base.lean ====
section
/-! DEFINITION. Named access to the parts of the state: groups and blocks, the system-register words with their reset
values, the frame ownership table, and physical memory with scrub frontiers and uncorrectable errors. -/

namespace Sys2Proof.Machine

/-- The core, or its state at reset. -/
def State.core (s : State) (c : Nat) : Core := AMap.getD s.cores c {}
/-- Replace a core. -/
def State.setCore (s : State) (c : Nat) (x : Core) : State := { s with cores := AMap.put s.cores c x }
/-- The cluster, or its state at reset. -/
def State.cluster (s : State) (c : Nat) : Cluster := AMap.getD s.clusters c {}
/-- Replace a cluster. -/
def State.setCluster (s : State) (c : Nat) (x : Cluster) : State := { s with clusters := AMap.put s.clusters c x }
/-- Change a block, when it exists. -/
def State.modBlock (s : State) (h : Nat) (f : Block → Block) : State := { s with blocks := AMap.modify s.blocks h f }
/-- Change a group of a block. -/
def Block.modGroup (b : Block) (gi : Nat) (f : Group → Group) : Block := { b with groups := b.groups.modify gi f }
/-- Change a group, when it exists. -/
def State.modGroup (s : State) (h gi : Nat) (f : Group → Group) : State := s.modBlock h (fun b => b.modGroup gi f)
/-- A group of the state. -/
def State.group? (s : State) (h gi : Nat) : Option Group := (AMap.get? s.blocks h).bind (fun b => b.groups[gi]?)
/-- Take the next fresh number. -/
def State.tick (s : State) : State := { s with fresh := s.fresh + 1 }

/-- The partition a block belongs to. -/
def Block.part? (b : Block) : Option Nat :=
  match b.owner with
  | .launch p => p
  | _ => none

/-- The reset value of the register word `num` of instance `inst` (spec/04 and the register tables of the other
chapters); where the spec states none, assumption log 6. -/
def resetReg (num inst : Nat) : W32 :=
  if num = 0x2088 then 0xFFFFFFFF#32
  else if num = 0x3020 then Config.measured 0 inst &&& 0xFFFF#32
  else if num = 0x4000 then Config.measured 1 inst &&& 0xFFF#32
  else if 0x4010 ≤ num ∧ num ≤ 0x4013 then 3712
  else if num = 0x5012 then 384
  else if num = 0x5013 then 0xF
  else if 0x5020 ≤ num ∧ num ≤ 0x502B then
    BitVec.ofNat 32 ((List.range 16).foldl (fun a j => a + ((16 * (num - 0x5020) + j) / 48) * 4 ^ j) 0)
  else if 0x5030 ≤ num ∧ num ≤ 0x5033 then 0x00FF4040#32
  else if num = 0x5060 then 3712
  else if num = 0x5061 then 512
  else if num = 0x5080 then Config.bootValue num
  else if num = 0x5086 then 64
  else if num = 0x5090 then 180
  else if 0x50B0 ≤ num ∧ num ≤ 0x50B7 then Config.bootValue num &&& 3#32
  else if num = 0x5100 then Config.bootValue num
  else if num = 0x5116 then 0x3FFFFFF#32
  else if 0x5500 ≤ num ∧ num < 0x5580 ∧ num % 8 = 2 then 4
  else if num = 0x5700 then Config.bootValue num &&& ~~~ 0xFFFF#32
  else if num = 0x5701 then Config.bootValue num &&& 0x00FFFFFF#32
  else if num = 0x6002 then 0x000A0000#32
  else if num = 0x6030 then 1
  else if num = 0x6032 then 3712
  else if num = 0x6086 then 64
  else if 0x6100 ≤ num ∧ num < 0x6180 ∧ num % 8 = 2 then 4
  else 0

/-- The default of the register table, by key. -/
def regDefault (k : Nat) : W32 := resetReg (k % 65536) (k / 65536)

/-- A register word of an instance. -/
def Sys.reg (y : Sys) (inst num : Nat) : W32 := SMap.get regDefault y.regs (65536 * inst + num)
/-- Write a register word of an instance. -/
def Sys.setReg (y : Sys) (inst num : Nat) (x : W32) : Sys :=
  { y with regs := SMap.set regDefault y.regs (65536 * inst + num) x }
/-- A 64-bit register of an instance (R64). -/
def Sys.reg64 (y : Sys) (inst num : Nat) : W64 := pair (y.reg inst num) (y.reg inst (num + 1))

/-- A register word of an instance. -/
def State.reg (s : State) (inst num : Nat) : W32 := s.sys.reg inst num
/-- A field of a register word. -/
def State.regF (s : State) (inst num lo len : Nat) : Nat := fldN (s.reg inst num) lo len
/-- A 64-bit register. -/
def State.reg64 (s : State) (inst num : Nat) : W64 := s.sys.reg64 inst num
/-- Write a register word. -/
def State.setReg (s : State) (inst num : Nat) (x : W32) : State := { s with sys := s.sys.setReg inst num x }
/-- Write a field of a register word. -/
def State.setRegF (s : State) (inst num lo len x : Nat) : State := s.setReg inst num (setFld (s.reg inst num) lo len x)
/-- Write a 64-bit register. -/
def State.setReg64 (s : State) (inst num : Nat) (x : W64) : State := (s.setReg inst num (lo32 x)).setReg inst (num + 1) (hi32 x)
/-- Add to a counter of a given width held in the low bits of one word (R91). -/
def State.addReg (s : State) (inst num lo len x : Nat) : State := s.setRegF inst num lo len (s.regF inst num lo len + x)
/-- Add to a 64-bit counter (R91). -/
def State.addReg64 (s : State) (inst num x : Nat) : State :=
  s.setReg64 inst num (s.reg64 inst num + BitVec.ofNat 64 x)

/-- A rotation, or its state at reset (R331). -/
def State.rot (s : State) (r : Nat) : Rot := AMap.getD s.rots r {}
/-- Replace a rotation. -/
def State.setRot (s : State) (r : Nat) (x : Rot) : State := { s with rots := AMap.put s.rots r x }
/-- The partition a cluster belongs to: the holder of the lowest-numbered rotation that names it (R34, R331). -/
def State.clusterPart (s : State) (c : Nat) : Option Nat :=
  ((List.range 16).find? (fun r => (s.rot r).cl.contains c)).bind (fun r => (s.rot r).holder)

/-- The global time (R25). -/
def State.gt (s : State) : Nat := s.sys.gt

/-- An entry of the frame ownership table (R35); a frame never named is free. -/
def State.ftEntry (s : State) (f : Nat) : W64 := SMap.get (fun _ => 0) s.fot f
/-- Write an entry of the frame ownership table. -/
def State.setFt (s : State) (f : Nat) (e : W64) : State := { s with fot := SMap.set (fun _ => 0) s.fot f e }
/-- KIND of an entry (R35). -/
def ftKind (e : W64) : Nat := fldN e 0 2
/-- PART of an entry. -/
def ftPart (e : W64) : Nat := fldN e 2 6
/-- CTLF of an entry. -/
def ftCtl (e : W64) : Bool := bit e 8
/-- WIN of an entry. -/
def ftWin (e : W64) : Bool := bit e 9
/-- OPM of an entry. -/
def ftOpm (e : W64) : Bool := bit e 10
/-- ARMA of an entry. -/
def ftArmA (e : W64) : Bool := bit e 11
/-- ARMB of an entry. -/
def ftArmB (e : W64) : Bool := bit e 12
/-- PB of an entry. -/
def ftPb (e : W64) : Nat := fldN e 13 6
/-- POOL of an entry. -/
def ftPool (e : W64) : Bool := bit e 19
/-- AUB of an entry. -/
def ftAub (e : W64) : Bool := bit e 20
/-- AUX of an entry. -/
def ftAux (e : W64) : Bool := bit e 21
/-- An entry from its fields (R35). -/
def ftMake (kind part : Nat) (ctl win opm armA armB : Bool) (pb : Nat) (pool aub aux : Bool) : W64 :=
  BitVec.ofNat 64 (kind + 4 * part + 2 ^ 8 * b2n ctl + 2 ^ 9 * b2n win + 2 ^ 10 * b2n opm + 2 ^ 11 * b2n armA +
    2 ^ 12 * b2n armB + 2 ^ 13 * pb + 2 ^ 19 * b2n pool + 2 ^ 20 * b2n aub + 2 ^ 21 * b2n aux)

/-- Where a frame is before any move: the HBM frames first, the rest in CXL direct (assumption log 7). -/
def homeLoc (f : Nat) : Loc := if f < Config.hbmFrames then .hbm else .cxl (f % 8)
/-- Where a frame is (R124). -/
def State.locOf (s : State) (f : Nat) : Loc := SMap.get homeLoc s.loc f
/-- Move a frame in the location table. -/
def State.setLoc (s : State) (f : Nat) (l : Loc) : State := { s with loc := SMap.set homeLoc s.loc f l }
/-- The tier code of a frame: 0 HBM, 1 CXL (R354, R406). -/
def State.tierOf (s : State) (f : Nat) : Nat := match s.locOf f with | .hbm => 0 | _ => 1

/-- An unlisted byte of memory reads 0: every frame is free and scrubbed at module reset (assumption log 5). -/
def memDefault (_ : Nat) : Byte := 0

/-- The canonical form of a memory. -/
def Memory.wf (m : SMap Byte) : Bool := SMap.wf memDefault m

/-- The physical address of a byte of a frame. -/
def physAddr (f off : Nat) : Nat := Config.frameBytes * f + off

/-- A line of a frame lies at or above the frame's scrub frontier and has not been zeroed: it reads as zeros (R415). -/
def State.unscrubbed (s : State) (f line : Nat) : Bool :=
  match AMap.get? s.frontiers f with
  | none => false
  | some fr => decide (fr.next ≤ line) && !fr.done.contains line

/-- One byte of physical memory as every party reads it (R415). -/
def State.byte (s : State) (pa : Nat) : Byte :=
  if s.unscrubbed (pa / 65536) (pa % 65536 / 128) then 0 else SMap.get memDefault s.mem pa

/-- Store one byte in a memory. -/
def memSet (m : SMap Byte) (pa : Nat) (b : Byte) : SMap Byte := SMap.set memDefault m pa b
/-- Store bytes at ascending addresses. -/
def memPut (m : SMap Byte) (pa : Nat) : List Byte → SMap Byte
  | [] => m
  | b :: bs => memPut (memSet m pa b) (pa + 1) bs

/-- Zero a line that a scrub has not reached, before a write to it (R415); an error it held is gone with it (R420). -/
def State.zeroFirst (s : State) (pa : Nat) : State :=
  let f := pa / 65536
  let line := pa % 65536 / 128
  if s.unscrubbed f line then
    { s with
      mem := memPut s.mem (physAddr f (128 * line)) (List.replicate 128 0)
      badLines := s.badLines.filter (fun l => decide (l ≠ pa / 128)), l2Bad := s.l2Bad.filter (fun l => decide (l ≠ pa / 128))
      frontiers := AMap.modify s.frontiers f (fun fr => { fr with done := line :: fr.done }) }
  else s

/-- Lines of a memory no longer hold errors: they have been replaced. -/
def State.healLine (s : State) (l : Nat) : State :=
  { s with badLines := s.badLines.filter (fun x => decide (x ≠ l)), l2Bad := s.l2Bad.filter (fun x => decide (x ≠ l)) }

/-- Store one byte at a physical address. -/
def State.setByte (s : State) (pa : Nat) (b : Byte) : State :=
  let s := s.zeroFirst pa
  { s with mem := memSet s.mem pa b }

/-- Bytes at ascending physical addresses. -/
def State.bytes (s : State) (pa n : Nat) : List Byte := (List.range n).map (fun i => s.byte (pa + i))
/-- Store bytes at ascending physical addresses. -/
def State.setBytes (s : State) (pa : Nat) : List Byte → State
  | [] => s
  | b :: bs => State.setBytes (s.setByte pa b) (pa + 1) bs

/-- The lines a range of physical addresses touches. -/
def linesOf (pa n : Nat) : List Nat := (List.range ((pa + n + 127) / 128 - pa / 128)).map (fun i => pa / 128 + i)

/-- Whether a CXL port is up (R421). -/
def State.portUp (s : State) (p : Nat) : Bool := decide (s.regF 0 (0x50B0 + p) 0 2 = 2)

/-- The unit an uncorrectable error of an access at a physical address is charged to, when the access meets one: a line
that holds an error, or a frame behind a CXL port that is not up (R420, R421). `whole` lines are replaced, not read. -/
def State.eccUnit (s : State) (pa n : Nat) (write : Bool) : Option Nat :=
  let down : Option Nat :=
    match s.locOf (pa / 65536) with
    | .hbm => none
    | .cxl p => if s.portUp p then none else some (16 + p)
    | .cold p => if s.portUp p then none else some (16 + p)
  match down with
  | some u => some u
  | none =>
    let bad (ls : List Nat) : Bool := (linesOf pa n).any (fun l => ls.contains l && !s.unscrubbed (l / 512) (l % 512) &&
        !(write && decide (pa ≤ 128 * l) && decide (128 * l + 128 ≤ pa + n)))
    if bad s.badLines then
      some (match s.locOf (pa / 65536) with | .hbm => pa % 65536 / 4096 | .cxl p => 16 + p | .cold p => 16 + p)
    else if bad s.l2Bad then some (0x400 + pa / 8192 % 8)
    else none

/-- Read physical bytes, or the unit of an uncorrectable error (R420). -/
def State.physRead (s : State) (pa n : Nat) : Except Nat (List Byte) :=
  match s.eccUnit pa n false with
  | some u => .error u
  | none => .ok (s.bytes pa n)

/-- Write physical bytes, or the unit of an uncorrectable error; a whole-line write replaces a bad line (R420). -/
def State.physWrite (s : State) (pa : Nat) (bs : List Byte) : Except Nat State :=
  match s.eccUnit pa bs.length true with
  | some u => .error u
  | none =>
    let keep (ls : List Nat) : List Nat :=
      ls.filter (fun l => !(decide (pa ≤ 128 * l) && decide (128 * l + 128 ≤ pa + bs.length)))
    let t := State.setBytes s pa bs
    .ok { t with badLines := keep t.badLines, l2Bad := keep t.l2Bad }

end Sys2Proof.Machine
end

