-- ==== Sys2Proof/Machine/Mmu.lean ====
section
/-! DEFINITION. Translation: roots, page-table walks, the frame ownership checks, the TLB, and the order of checks on an
access (R39, R113–R119, R126–R131, R403–R406). -/

namespace Sys2Proof.Machine

/-- Class codes used by name (R352). -/
def clsENC : Nat := 0x01
def clsRGT : Nat := 0x02
def clsTAG : Nat := 0x03
def clsUNI : Nat := 0x04
def clsRUN : Nat := 0x05
def clsALN : Nat := 0x06
def clsXLT : Nat := 0x07
def clsPRM : Nat := 0x08
def clsFTP : Nat := 0x09
def clsMSP : Nat := 0x0A
def clsSPV : Nat := 0x0B
def clsDIV : Nat := 0x0C
def clsGTE : Nat := 0x0D
def clsGTO : Nat := 0x0E
def clsCBK : Nat := 0x0F
def clsREM : Nat := 0x10
def clsRTO : Nat := 0x11
def clsMNT : Nat := 0x12
def clsDRN : Nat := 0x13
def clsECC : Nat := 0x14
def clsHDL : Nat := 0x15
def clsQER : Nat := 0x16
def clsLNK : Nat := 0x17
def clsCKP : Nat := 0x18
def clsPRE : Nat := 0x19
def clsAGE : Nat := 0x1A

/-- "None" in the FRAME field of a record (R354). -/
def noFrame : Nat := 0xFFFFFFFF
/-- "None" in the TIER field of a record (R354). -/
def noTier : Nat := 0xFF

/-- The partition of a tenant ASID (R34). -/
def asidPart (a : Nat) : Option Nat := if a < 0x400 then some (a / 16) else none
/-- An operator ASID (R34). -/
def asidOper (a : Nat) : Bool := decide (0x400 ≤ a ∧ a < 0x440)
/-- The auditor's ASID (R34). -/
def asidAud (a : Nat) : Bool := decide (a = 0x440)

/-- The root of an ASID's tables (R114). -/
def State.rootOf (s : State) (a : Nat) : W64 :=
  if a < 0x400 then s.reg64 (a / 16) (0x6060 + 2 * (a % 16))
  else if a ≤ 0x440 then s.reg64 0 (0x5300 + 2 * (a - 0x400))
  else 0

/-- Whether a table frame passes the check of R116 for an ASID. -/
def tableOk (e : W64) (a : Nat) : Bool :=
  match asidPart a with
  | some p => decide (ftKind e = 1) && decide (ftPart e = p) && !ftCtl e && !ftPool e
  | none => decide (ftKind e = 2) && !ftWin e && !ftAub e && !ftAux e

/-- What R39 permits an ASID on a frame, for a leaf with the given CTL, X and W: the write permission it leaves. A frame under two
rows of the table (AUB with WIN or with AUX) is judged by WIN first, then AUB, then AUX (DESIGN CHOICE, log 58). -/
def permits (e : W64) (a : Nat) (ctl x w : Bool) : Option Bool :=
  if ftPool e then none
  else match ftKind e with
  | 1 =>
    if asidPart a = some (ftPart e) then (if ftCtl e == ctl then some w else none)
    else if asidOper a && ftCtl e && ctl then some false
    else none
  | 2 =>
    if ftWin e then
      if (asidOper a && ftOpm e) || (decide (asidPart a = some (ftPart e)) && ftArmA e) ||
          (decide (asidPart a = some (ftPb e)) && ftArmB e) then some w else none
    else if ftAub e then (if asidAud a then some w else if asidOper a then some false else none)
    else if ftAux e then
      (if asidAud a then (if x && !w then some false else none) else if asidOper a then some w else none)
    else if asidOper a then some w else none
  | _ => none

/-- The bits of a table entry that may be set with V = 1 (R404). -/
def tablePteMask : W64 := 0x0000FFFFFFFFE201#64

/-- A leaf with V = 1 obeys R404 and its ORD is not 3. -/
def leafOk (pte : W64) (lg : Bool) : Bool :=
  !bit pte 11 && decide (fldN pte 13 3 = 0) && (bit pte 8 || decide (fldN pte 48 16 = 0)) &&
  !(bit pte 7 && bit pte 8) && (!lg || decide (fldN pte 16 10 = 0)) && decide (fldN pte 2 2 ≠ 3)

/-- How a walk ends (R116). -/
inductive Walk where
  /-- A leaf, with the physical address of its entry. -/
  | leaf (pte : W64) (lg : Bool) (at_ : Nat)
  /-- V = 0 with FT = 1. -/
  | firstTouch
  /-- A failure: class and the table frame it names. -/
  | fail (cls frame : Nat)
  /-- A table frame in CXL cold. -/
  | missing (frame : Nat)
  /-- An uncorrectable error in a table frame. -/
  | ecc (frame unit : Nat)
  deriving DecidableEq, Repr

/-- A frame in CXL cold is missing (R124, R131). -/
def State.isCold (s : State) (f : Nat) : Bool := match s.locOf f with | .cold _ => true | _ => false

/-- The walk from a table entry through the levels that remain (R116, R404). -/
def walkFrom (s : State) (a : Nat) (va : Nat) : List Nat → W64 → Walk
  | [], _ => .fail clsXLT noFrame
  | level :: rest, e =>
    let f := fldN e 16 32
    if !tableOk (s.ftEntry f) a then .fail clsPRM f
    else if s.isCold f then .missing f
    else
      let pa := physAddr f (8192 * fldN e 13 3 + 8 * ((va >>> (56 - 10 * level)) % 1024))
      match s.physRead pa 8 with
      | .error u => .ecc f u
      | .ok bs =>
        let pte : W64 := BitVec.ofNat 64 (ofBytes bs)
        if !bit pte 0 then (if bit pte 9 then .firstTouch else .fail clsXLT noFrame)
        else if bit pte 1 && decide (level ≠ 3) then .fail clsXLT noFrame
        else if decide (level = 4) || bit pte 1 then
          (if leafOk pte (bit pte 1) then .leaf pte (bit pte 1) pa else .fail clsXLT noFrame)
        else if pte &&& ~~~ tablePteMask ≠ 0 then .fail clsXLT noFrame
        else walkFrom s a va rest pte

/-- The walk of an address in an ASID (R116). -/
def State.walk (s : State) (a va : Nat) : Walk :=
  let root := s.rootOf a
  if bit root 0 then walkFrom s a va [1, 2, 3, 4] root else .fail clsXLT noFrame

/-- The walk of an address ends at a table frame in CXL cold or with an uncorrectable error (R407, R409). -/
def State.walkStops (s : State) (a : Nat) (va : W64) : Bool :=
  match s.walk a va.toNat with
  | .missing _ => true
  | .ecc _ _ => true
  | _ => false

/-- How a translation ends. -/
inductive Tr where
  /-- Device memory: a physical address, write permission, execute permission, CTL, EXP and whether the page is SO. -/
  | mem (pa : Nat) (w x ctl exp so : Bool)
  /-- A host address, its leaf's FRAME, whether its page is SO, and write permission (R126). -/
  | host (ha frame : Nat) (so w : Bool)
  /-- An address in the target of a peer-table entry, its leaf's FRAME, whether its page is SO, and write permission
  (R128). -/
  | peer (tgt addr frame : Nat) (so w : Bool)
  /-- First touch (R129). -/
  | firstTouch
  /-- A failure: class, frame and tier for the record (R406). -/
  | fail (cls frame tier : Nat)
  /-- A missing page: its frame, whether it is a table frame of the walk, and whether the page is SO or its kind not yet known. -/
  | missing (f : Nat) (table so : Bool)
  /-- An uncorrectable error in a walk (R420). -/
  | ecc (frame unit : Nat)
  deriving DecidableEq, Repr

/-- A translation leads to the host or a peer. -/
def Tr.isRemote : Tr → Bool
  | .host _ _ _ _ => true
  | .peer _ _ _ _ _ => true
  | _ => false

/-- The TLB entry of a leaf (R119). -/
def entOf (s : State) (a va : Nat) (pte : W64) (lg : Bool) : TlbEnt :=
  { asid := a, lg, vpn := if lg then va / 2 ^ 26 else va / 2 ^ 16, frame := fldN pte 16 32, ord := fldN pte 2 2,
    w := bit pte 4, x := bit pte 5, ctl := bit pte 6, host := bit pte 7, peer := bit pte 8, exp := bit pte 12,
    tier := s.tierOf (fldN pte 16 32), tgt := fldN pte 48 16 }

/-- What the leaf of an address says, where the walk of it comes to one. -/
def State.leafOf (s : State) (a : Nat) (va : W64) : Option TlbEnt :=
  match s.walk a va.toNat with
  | .leaf pte lg _ => some (entOf s a va.toNat pte lg)
  | _ => none

/-- Whether a TLB entry translates an address (R119). -/
def TlbEnt.hits (e : TlbEnt) (a va : Nat) : Bool :=
  decide (e.asid = a) && decide (e.vpn = if e.lg then va / 2 ^ 26 else va / 2 ^ 16)

/-- The physical address of a peer-table entry of a partition (R128). -/
def State.peerEntry (s : State) (p tgt : Nat) : Nat := physAddr (s.reg p 0x6080).toNat (16 * tgt)
/-- PMOD of a peer-table entry of a partition (R128). -/
def State.peerMod (s : State) (p tgt : Nat) : Nat := ofBytes (s.bytes (s.peerEntry p tgt) 4)
/-- The ASID a peer-table entry names at its target: 16 × PPART + PDOM (R128). -/
def State.peerAsid (s : State) (p tgt : Nat) : Nat :=
  16 * ((s.byte (s.peerEntry p tgt + 4)).toNat % 64) + (s.byte (s.peerEntry p tgt + 5)).toNat % 16

/-- The ports in STATE 2 that lead to a module, lowest first; a port that loops back to this module carries no peer access
(R320–R322). -/
def State.portsTo (s : State) (pmod : Nat) : List Nat :=
  if pmod = (s.reg 0 0x5080).toNat then []
  else (List.range 128).filter (fun p =>
    decide (s.regF 0 (0x5200 + 2 * p) 0 2 = 2) && decide ((s.reg 0 (0x5201 + 2 * p)).toNat = pmod))

/-- Whether some port in STATE 2 leads to a module (R321, R322). -/
def State.linkTo (s : State) (pmod : Nat) : Bool := !(s.portsTo pmod).isEmpty

/-- What an access does, for the checks of R403 and KIND of its record (R406). -/
inductive Acc where
  /-- A load. -/
  | load
  /-- A store. -/
  | store
  /-- An atomic or reduction; whether a HOST leaf provides it (R265). -/
  | atomic (hostOk : Bool)
  /-- An instruction fetch. -/
  | fetch
  /-- A control block or engine operand. -/
  | block
  /-- An engine operand that is written. -/
  | blockStore
  deriving DecidableEq, Repr

/-- KIND of a record (R353, R406). -/
def Acc.kind : Acc → Nat
  | .load => 1
  | .store => 2
  | .atomic _ => 3
  | .fetch => 4
  | .block | .blockStore => 5

/-- The access writes its location. -/
def Acc.writes : Acc → Bool
  | .store | .atomic _ | .blockStore => true
  | _ => false

/-- Check 7 of R403 on an access through an entry that leaves write permission `w`: W for writes, X for fetches; the auditor
stores to AUB frames and fetches from frames that are not AUB, and does nothing else (R39). -/
def leafAllows (s : State) (a : Nat) (k : Acc) (e : TlbEnt) (f : Nat) (w : Bool) : Bool :=
  (!k.writes || w) && (decide (k ≠ .fetch) || e.x) &&
  (!asidAud a || (!e.host && !e.peer && (if k = .fetch then !ftAub (s.ftEntry f) else k.writes && ftAub (s.ftEntry f))))

/-- Where an access through an entry goes (R116, R121, R126, R128), by checks 4 and 6 to 9 of R403: a 64 MiB entry admits a frame
only as R39 permits; a missing page comes last. DESIGN CHOICE: a PEER leaf in an ASID of no partition, which has no peer table, is XLT, as
a TGT beyond a table's end is (R128, R467; log 58). The frame's own entry is judged at every access, so that a TLB entry installed
before a frame command changed the frame no longer admits what the frame no longer permits (DESIGN CHOICE: R39 speaks of the
installing alone; log 58). -/
def resolve (s : State) (a va : Nat) (k : Acc) (e : TlbEnt) : Tr :=
  let off := if e.lg then va % 2 ^ 26 else va % 2 ^ 16
  let so := decide (e.ord = 0)
  if e.host then
    let given := match k with | .atomic ok => ok | _ => true
    if leafAllows s a k e 0 e.w && given then .host (e.frame * 65536 + off) e.frame so e.w else .fail clsPRM e.frame 2
  else if e.peer then
    match asidPart a with
    | some p =>
      if s.regF p 0x6082 0 13 ≤ e.tgt then .fail clsXLT noFrame noTier
      else if !leafAllows s a k e 0 e.w then .fail clsPRM e.frame 3
      else if s.linkTo (s.peerMod p e.tgt) then .peer e.tgt (e.frame * 65536 + off) e.frame so e.w
      else .fail clsREM e.frame 3
    | none => .fail clsXLT noFrame noTier
  else
    let f := e.frame + off / 65536
    match permits (s.ftEntry f) a e.ctl e.x e.w with
    | none => .fail clsPRM f (s.tierOf f)
    | some w =>
      if !leafAllows s a k e f w then .fail clsPRM f (s.tierOf f)
      else if s.isCold f then .missing f false so
      else if k.writes && s.cow.contains f then .missing f false so
      else .mem (physAddr f (off % 65536)) w e.x e.ctl e.exp so

/-- Put an entry into a core's TLB of 256 entries, the newest first; the oldest leaves (R119, assumption log 8). -/
def State.tlbAdd (s : State) (core : Nat) (e : TlbEnt) : State :=
  s.setCore core { s.core core with tlb := (e :: (s.core core).tlb).take 256 }

/-- The TIER bit of a leaf of device memory, written by the walker when the frame's tier differs (R118). -/
def State.writeTier (s : State) (pte : W64) (pa : Nat) : State :=
  if bit pte 7 || bit pte 8 then s
  else
    let t := s.tierOf (fldN pte 16 32)
    if b2n (bit pte 10) = t then s
    else match s.physWrite pa (toBytes (setFld pte 10 1 t).toNat 8) with
      | .ok s => s
      | .error _ => s

/-- Translate an address, for a group of a core (through its TLB, installing an entry) or for an engine (by a walk). The entry of
a 64 MiB leaf is installed only when R39 permits its first frame, FRAME, and every walk writes TIER, an engine's and the hardware's
own among them (DESIGN CHOICES, log 58). -/
def translate (s : State) (core : Option Nat) (a va : Nat) (k : Acc) : State × Tr :=
  let hit : Option TlbEnt := match core with
    | some c => (s.core c).tlb.find? (fun e => e.hits a va)
    | none => none
  match hit with
  | some e => (s, resolve s a va k e)
  | none =>
    match s.walk a va with
    | .firstTouch => (s, .firstTouch)
    | .fail c f => (s, .fail c f (if f = noFrame then noTier else s.tierOf f))
    | .missing f => (s, .missing f true true)
    | .ecc f u => (s, .ecc f u)
    | .leaf pte lg pa =>
      let e := entOf s a va pte lg
      if e.host || e.peer then
        ((match core with | some c => s.tlbAdd c e | none => s), resolve s a va k e)
      else
        match permits (s.ftEntry e.frame) a e.ctl e.x e.w with
        | none => (s, .fail clsPRM e.frame (s.tierOf e.frame))
        | some _ =>
          let s := s.writeTier pte pa
          ((match core with | some c => s.tlbAdd c e | none => s), resolve s a va k e)

/-- The checks of R403 on one access of `w` bytes that must be aligned to `align`. -/
def judge (s : State) (core : Option Nat) (a : Nat) (k : Acc) (va : W64) (align : Nat) : State × Tr :=
  if fldN va 56 8 ≠ 0 then (s, .fail clsXLT noFrame noTier)
  else if va.toNat % align ≠ 0 then (s, .fail clsALN noFrame noTier)
  else
    translate s core a va.toNat k

/-- TIER of the record of a failed access of the hardware's own (R406): that of the leaf, or of the table frame it names. -/
def State.failTier (s : State) (a : Nat) (k : Acc) (va : W64) : Nat :=
  match (judge s none a k va 1).2 with
  | .mem pa _ _ _ _ _ => s.tierOf (pa / 65536)
  | .host _ _ _ _ => 2
  | .peer _ _ _ _ _ => 3
  | .fail _ _ t => t
  | .missing f _ _ => s.tierOf f
  | .ecc f _ => s.tierOf f
  | .firstTouch => noTier

/-- Read bytes at a virtual address for the hardware's own use (queues, tables, divergence areas): device memory only. -/
def vread (s : State) (a : Nat) (va : W64) (n : Nat) : State × Except (Nat × Nat × Nat) (List Byte) :=
  match judge s none a .load va 1 with
  | (s, .mem pa _ _ _ _ _) =>
    match s.physRead pa n with
    | .ok bs => (s, .ok bs)
    | .error u => (s, .error (clsECC, pa / 65536, u))
  | (s, .fail c f _) => (s, .error (c, f, 0))
  | (s, .firstTouch) => (s, .error (clsFTP, noFrame, 0))
  | (s, .missing f _ _) => (s, .error (clsMSP, f, 0))
  | (s, .ecc f u) => (s, .error (clsECC, f, u))
  | (s, .host _ _ _ _) => (s, .error (clsXLT, noFrame, 0))
  | (s, .peer _ _ _ _ _) => (s, .error (clsXLT, noFrame, 0))

/-- Write bytes at a virtual address for the hardware's own use. -/
def vwrite (s : State) (a : Nat) (va : W64) (bs : List Byte) : State × Option (Nat × Nat × Nat) :=
  match judge s none a .store va 1 with
  | (s, .mem pa _ _ _ _ _) =>
    match s.physWrite pa bs with
    | .ok s => (s, none)
    | .error u => (s, some (clsECC, pa / 65536, u))
  | (s, .fail c f _) => (s, some (c, f, 0))
  | (s, .firstTouch) => (s, some (clsFTP, noFrame, 0))
  | (s, .missing f _ _) => (s, some (clsMSP, f, 0))
  | (s, .ecc f u) => (s, some (clsECC, f, u))
  | (s, .host _ _ _ _) => (s, some (clsXLT, noFrame, 0))
  | (s, .peer _ _ _ _ _) => (s, some (clsXLT, noFrame, 0))

end Sys2Proof.Machine
end

