-- ==== Sys2Proof/Machine/Remote.lean ====
section
/-! DEFINITION. Accesses that leave the module: translation requests, ports, traffic counts and failures (R126–R128, R321,
R322, R422, R455, R462), and the hardware's own writes and fetches of host and peer pages. -/

namespace Sys2Proof.Machine

/-- The KIND of an access to memory (R353). -/
def kindOf : AccKind → Nat
  | .load => 1
  | .store => 2
  | .atomic => 3

/-- The PASID of host accesses of an ASID (R126, R467). -/
def State.pasidOf (s : State) (a : Nat) : Nat :=
  match asidPart a with
  | some p => s.regF p 0x6084 0 20
  | none => s.regF 0 0x5084 0 20

/-- The timeout of host and peer accesses of an ASID, in ticks (R25, R423, R467). -/
def State.remoteTicks (s : State) (a : Nat) : Nat :=
  match asidPart a with
  | some p => 1000 * s.regF p 0x6086 0 16
  | none => 1000 * s.regF 0 0x5086 0 16

/-- The port of an access to a module (R322). -/
def State.peerPort (s : State) (pmod addr : Nat) : Option Nat :=
  (s.portsTo pmod)[addr / 128 % (s.portsTo pmod).length]?

/-- A counter grows by an amount the spec does not state (R91). -/
def State.addFree (s : State) (inst num : Nat) : State :=
  (s.addReg64 inst num (1 + Config.freeValue s.fresh % 256)).tick

/-- The units of 64 bytes that a message with some bytes of payload takes: those of its payload, at least one, and what its headers add,
which the spec does not state (R91, R319; log 16). -/
def State.units (s : State) (bytes : Nat) : Nat := max 1 (cdiv bytes 64) + Config.freeValue s.fresh % 256

/-- A port's count of resent flits grows by an amount the spec does not state, up to its end (R321). -/
def State.retries (s : State) (port : Nat) : State :=
  let n := 0x5A00 + port
  (s.setReg 0 n (BitVec.ofNat 32 (min 0xFFFF ((s.reg 0 n).toNat + Config.freeValue s.fresh % 256)))).tick

/-- A message through a port, sent (`lnktx`) or received (`lnkrx`): its flits are counted there and for its partition (R91, R319,
R321). -/
def State.flits (s : State) (reg : Nat) (part : Option Nat) (port bytes : Nat) : State :=
  let n := s.units bytes
  let s := s.tick.addReg64 0 (reg + 4 * port) n
  match part with
  | some p => s.addReg64 0 (0x7000 + 32 * p + 8) n
  | none => s

/-- A message leaves through a port; the link may have to send flits of it again (R321). -/
def State.fabSend (s : State) (part : Option Nat) (port bytes : Nat) : State := (s.flits 0x5800 part port bytes).retries port
/-- A message arrives through a port. -/
def State.fabTake (s : State) (part : Option Nat) (port bytes : Nat) : State := s.flits 0x5802 part port bytes

/-- Traffic of a partition on the host port (R91). -/
def State.hostTraffic (s : State) (part : Option Nat) (bytes : Nat) : State :=
  match part with
  | some p => s.tick.addReg64 0 (0x7000 + 32 * p + 10) (s.units bytes)
  | none => s

/-- A host or peer access has failed: its lane joins the failure its group is to receive (R422), whose record names the lowest lane's
address and leaf (R406). -/
def State.remoteFailed (s : State) (r : Remote) (cls : Nat) : State :=
  let kind := if r.fill.isSome then 5 else kindOf r.kind
  let lane : W32 := if r.uniform then r.mask else 1#32 <<< r.lane
  let f : RemoteFailure :=
    { cls, iaddr := r.iaddr, vaddr := r.va, lanes := lane, kind, wid := r.wid, tier := if r.host then 2 else 3, frame := r.frame
      ret := r.dst.isSome || r.fill.isSome }
  let same (x : RemoteFailure) : Bool :=
    decide (x.cls = cls) && decide (x.iaddr = r.iaddr) && decide (x.kind = kind) && decide (x.ret = f.ret)
  s.modGroup r.handle r.gi (fun g =>
    { g with
      remFail := if g.remFail.any same then
          g.remFail.map (fun x =>
            if !same x then x
            else if lowLane x.lanes ≤ r.lane then { x with lanes := x.lanes ||| lane }
            else { x with lanes := x.lanes ||| lane, vaddr := r.va, frame := r.frame })
        else g.remFail ++ [f] })

/-- Ask for a translation of a host page, unless a request that still counts is outstanding (R126, R464). -/
def State.askAts (s : State) (pasid page : Nat) : State :=
  if s.host.ats.any (fun q => decide (q.2.pasid = pasid ∧ q.2.page = page) && !q.2.stale) then s
  else { s with host := { s.host with ats := AMap.put s.host.ats s.fresh { pasid, page } }, fresh := s.fresh + 1 }

/-- Put an access on its way, under a number of its own. -/
def State.putRemote (s : State) (r : Remote) : State :=
  { s with remotes := AMap.put s.remotes s.fresh r, fresh := s.fresh + 1 }

/-- The bytes of payload an access carries out. -/
def Remote.outLen (r : Remote) : Nat := match r.kind with | .load => 0 | _ => r.data.length

/-- An access to a host or peer page leaves the module, or waits for its translation (R126, R322, R455, R462). An access to a peer
carries the ASID that its peer-table entry names (R128), and leaves by one port. -/
def State.sendRemote (s : State) (r : Remote) : State :=
  let due := s.gt + s.remoteTicks r.asid.toNat
  if r.host then
    if !s.host.linkUp then s.remoteFailed r clsREM
    else if s.host.atc.any (fun e => decide (e.pasid = r.pasid ∧ e.page = r.page) && (decide (r.kind = .load) || e.write)) then
      (s.putRemote { r with xlat := false, due }).hostTraffic (asidPart r.asid.toNat) r.w
    else (s.putRemote { r with xlat := true, due }).askAts r.pasid r.page
  else
    match asidPart r.asid.toNat with
    | none => s.putRemote { r with xlat := false, due }
    | some p =>
      let port := s.peerPort (s.peerMod p r.tgt) r.addr
      let s := s.putRemote { r with xlat := false, due, tasid := s.peerAsid p r.tgt, port }
      match port with
      | some k => s.fabSend (some p) k r.outLen
      | none => s

/-- The handle of an access of no context. -/
def noHandle : Nat := 0xFFFFFFFF

/-- Nothing waits for an access that has left the module any more: it is still outstanding, and its answer does nothing (R127). -/
def Remote.orphan (r : Remote) : Remote :=
  { r with handle := noHandle, gi := 0, uniform := true, dst := none, fill := none, eng := none, hw := some .post, stale := true }

/-- Accesses are given up: those that have left the module go on without anything that waits for them, the others end. -/
def State.loseRemotes (s : State) (mine : Remote → Bool) : State :=
  { s with remotes := s.remotes.filterMap (fun (x : Nat × Remote) =>
      if !mine x.2 then some x else if x.2.xlat then none else some (x.1, x.2.orphan)) }

/-- The outstanding host and peer accesses of a group. -/
def State.remotesOf (s : State) (h gi : Nat) : List (Nat × Remote) :=
  s.remotes.filter (fun x => decide (x.2.handle = h ∧ x.2.gi = gi))

/-! ### The hardware's own accesses -/


/-- An access of the hardware's own to a translated host or peer address, in an ASID. -/
def State.hwRemote (s : State) (a : Nat) (use : HwUse) (kind : AccKind) (va : W64) (data : List Byte) (w : Nat) (t : Tr) : Option Remote :=
  let base : Remote :=
    { handle := noHandle, gi := 0, lane := 0, uniform := true, kind, va, w, data, aop := 0, aty := 0, dst := none, tag := 0,
      iaddr := 0, mask := 0, wid := 0, host := true, addr := 0, frame := 0, tgt := 0, pasid := 0, page := 0,
      asid := BitVec.ofNat 11 a, auth := 0, acq := false, xlat := false, fill := none, hw := some use, due := 0 }
  match t with
  | .host ha f _ _ => some { base with addr := ha, frame := f, pasid := s.pasidOf a, page := ha / 4096 }
  | .peer tgt ad f _ _ => some { base with host := false, addr := ad, frame := f, tgt }
  | _ => none

/-- The bytes from an address to the end of the piece that one access covers: a 4 KiB host page, or a 128-byte line of the target
(R126, R322). -/
def Tr.pieceLen (va : W64) (off : Nat) : Tr → Nat
  | .peer _ ad _ _ _ => 128 - (ad + off) % 128
  | _ => 4096 - va.toNat % 4096

/-- A host or peer address some bytes further on. -/
def Tr.shift (off : Nat) : Tr → Tr
  | .host ha f so w => .host (ha + off) f so w
  | .peer tgt ad f so w => .peer tgt (ad + off) f so w
  | t => t

/-- Post a write to a host or peer page, in pieces that each lie in one 4 KiB host page or one line of the target. -/
def postAll (a : Nat) (use : HwUse) (t : Tr) : Nat → State → W64 → Nat → List Byte → State
  | 0, s, _, _, _ => s
  | fuel + 1, s, va, off, bs =>
    if bs.isEmpty then s
    else
      let n := t.pieceLen va off
      match s.hwRemote a use .store va (bs.take n) (min n bs.length) (t.shift off) with
      | none => s
      | some r => postAll a use t fuel (s.sendRemote r) (va + BitVec.ofNat 64 n) (off + n) (bs.drop n)

/-- Write bytes of one page at a virtual address for the hardware's own use, to device memory, the host or a peer. -/
def vpost (s : State) (a : Nat) (use : HwUse) (va : W64) (bs : List Byte) : State × Option (Nat × Nat × Nat) :=
  match judge s none a .store va 1 with
  | (s, .host ha f so w) =>
    if s.host.linkUp then (postAll a use (.host ha f so w) (bs.length / 128 + 2) s va 0 bs, none) else (s, some (clsREM, f, 0))
  | (s, .peer tgt ad f so w) => (postAll a use (.peer tgt ad f so w) (bs.length / 128 + 2) s va 0 bs, none)
  | _ => vwrite s a va bs

/-- The reader that fetches the words of a group from pages of the host and of peers. -/
def wordReader (h gi : Nat) : Nat := 2 ^ 48 + 32 * h + gi

/-- A reader fetches words for a group that is on a core. -/
def State.readsWords (s : State) (core reader : Nat) : Bool :=
  decide (wordReader 0 0 ≤ reader) && decide (((AMap.get? s.blocks ((reader - wordReader 0 0) / 32)).bind Block.core?) = some core)

/-- How a fetch of the hardware's own goes. -/
inductive Fetch where
  /-- The bytes. -/
  | ok (bs : List Byte)
  /-- It waits for lines of the host or a peer. -/
  | wait
  /-- A check fails: class, frame, tier, unit and address. -/
  | fail (cls frame tier unit : Nat) (va : W64)
  /-- A missing page: its frame, whether it is a table frame, and the address. -/
  | missing (f : Nat) (table : Bool) (va : W64)

/-- The key of a fetched line: its ASID and its number. A line that failed is kept as its class code alone. -/
def lineKey (a : Nat) (va : W64) : Nat := 2 ^ 58 * a + va.toNat / 64

/-- A line that a reader has fetched. -/
def State.kept (s : State) (reader a : Nat) (va : W64) : Option (List Byte) :=
  (s.fetched.find? (fun x => decide (x.1 = reader ∧ x.2.1 = lineKey a va))).map (fun x => x.2.2)

/-- A line of a reader is on its way. -/
def State.lineOut (s : State) (reader : Nat) (a : Nat) (line : Nat) : Bool :=
  s.remotes.any (fun x => !x.2.stale && decide (x.2.hw = some (.fetch reader)) && decide (x.2.asid.toNat = a) && decide (x.2.va.toNat / 64 = line))

/-- FRAME of the leaf of a host or peer page. -/
def Tr.leafFrame : Tr → Nat
  | .host _ f _ _ => f
  | .peer _ _ f _ _ => f
  | _ => noFrame

/-- The tier of a host or peer page (R406, R425). -/
def Tr.leafTier : Tr → Nat
  | .host _ _ _ _ => 2
  | .peer _ _ _ _ _ => 3
  | _ => noTier

/-- Fetch bytes for a reader, line by line; host and peer lines are asked for together (R126, R128, R430). A ring keeps every line it
has read until its packet is done, so that each is read once (R297). -/
def fetchVia (reader a : Nat) : Nat → State → W64 → Nat → State × Fetch
  | 0, s, _, _ => (s, .ok [])
  | fuel + 1, s, va, n =>
    if n = 0 then (s, .ok [])
    else
      let m := min n (64 - va.toNat % 64)
      let rest (s : State) : State × Fetch := fetchVia reader a fuel s (va + BitVec.ofNat 64 m) (n - m)
      let put (s : State) (bs : List Byte) : State × Fetch :=
        match rest s with
        | (s, .ok more) => (s, .ok (bs ++ more))
        | r => r
      let away (s : State) (t : Tr) : State × Fetch :=
        let line := va.toNat / 64
        match s.kept reader a va with
        | some [c] => (s, .fail c.toNat t.leafFrame t.leafTier 0 va)
        | some bs => put s ((bs.drop (va.toNat % 64)).take m)
        | none =>
          let at_ : W64 := BitVec.ofNat 64 (64 * line)
          let s := if s.lineOut reader a line then s
            else match s.hwRemote a (.fetch reader) .load at_ [] 64 t with
              | some r => s.sendRemote { r with addr := r.addr - va.toNat % 64 }
              | none => s
          match rest s with
          | (s, .ok _) => (s, .wait)
          | r => r
      match judge s none a .load va 1 with
      | (s, .mem pa _ _ _ _ _) =>
        match s.kept reader a va with
        | some [c] => (s, .fail c.toNat noFrame noTier 0 va)
        | some bs => put s ((bs.drop (va.toNat % 64)).take m)
        | none =>
          match s.physRead (pa - va.toNat % 64) 64 with
          | .error u => (s, .fail clsECC (pa / 65536) (s.tierOf (pa / 65536)) u va)
          | .ok bs => put (if reader < 2048 then { s with fetched := (reader, lineKey a va, bs) :: s.fetched } else s) ((bs.drop (va.toNat % 64)).take m)
      | (s, .fail c f t) => (s, .fail c f t 0 va)
      | (s, .firstTouch) => (s, .fail clsFTP noFrame noTier 0 va)
      | (s, .missing f t _) => (s, .missing f t va)
      | (s, .ecc f u) => (s, .fail clsECC f (s.tierOf f) u va)
      | (s, t) => if s.host.linkUp || (match t with | .peer _ _ _ _ _ => true | _ => false) then away s t else (s, .fail clsREM t.leafFrame t.leafTier 0 va)

/-- A reader is done with its lines: those on their way are not kept. -/
def State.fetchDone (s : State) (reader : Nat) : State :=
  let late (r : Remote) : Remote := if r.hw = some (.fetch reader) then { r with stale := true } else r
  { s with
    fetched := s.fetched.filter (fun x => decide (x.1 ≠ reader))
    remotes := s.remotes.map (fun (x : Nat × Remote) => (x.1, late x.2)) }

end Sys2Proof.Machine
end

