-- ==== Sys2Proof/Machine/Records.lean ====
section
/-! DEFINITION. Fault records: the two halves, the queues they go to, MSI-X messages and the auditor's counts (R45,
R351–R359). -/

namespace Sys2Proof.Machine

/-- A fault record before its serial and time are known (R353, R354). -/
structure Rec where
  cls : Nat
  kill : Bool := false
  novec : Bool := false
  blast : Bool := false
  iaddr : W64 := 0
  vaddr : W64 := 0
  kind : Nat := 0
  wid : Nat := 0
  sp : Bool := false
  lanes : W32 := 0
  part : Option Nat := none
  core : Option Nat := none
  slot : Option Nat := none
  handle : Nat := 0xFFFFFFFF
  frame : Nat := 0xFFFFFFFF
  tier : Nat := 0xFF
  unit : Nat := 0
  ukind : Nat := 0

/-- The owner half (R353). -/
def Rec.owner (r : Rec) (serial gt : Nat) : BitVec 256 :=
  BitVec.ofNat 256 (b2n r.kill + 2 * b2n r.novec + 4 * b2n r.blast + 8 * fldN r.iaddr 3 53 + 2 ^ 56 * r.cls +
    2 ^ 64 * (fldN r.vaddr 0 56 + 2 ^ 56 * r.kind + 2 ^ 60 * r.wid + 2 ^ 63 * b2n r.sp) +
    2 ^ 128 * r.lanes.toNat + 2 ^ 160 * (serial % 2 ^ 32) + 2 ^ 192 * (gt % 2 ^ 64))

/-- The operator half (R354). -/
def Rec.oper (r : Rec) (serial gt : Nat) : BitVec 256 :=
  BitVec.ofNat 256 (r.cls + 2 ^ 8 * r.part.getD 0xFF + 2 ^ 16 * ((r.core.map (· / 96)).getD 0xFF) +
    2 ^ 24 * r.slot.getD 0xFF + 2 ^ 32 * r.core.getD 0xFFFF + 2 ^ 48 * r.tier +
    2 ^ 56 * (b2n r.kill + 2 * b2n r.novec + 4 * b2n r.blast) + 2 ^ 64 * (serial % 2 ^ 32) +
    2 ^ 96 * r.handle + 2 ^ 128 * (r.frame % 2 ^ 32) + 2 ^ 160 * r.unit + 2 ^ 176 * r.ukind + 2 ^ 192 * (gt % 2 ^ 64))

/-- The MSI-X state of a function, numbered as in `HostPort`. -/
def State.msixOf (s : State) (fn : Nat) : Msix := AMap.getD s.host.msix fn {}

/-- Set the MSI-X state of a function. -/
def State.setMsix (s : State) (fn : Nat) (m : Msix) : State := { s with host := { s.host with msix := AMap.put s.host.msix fn m } }

/-- The vector of a function, or the function, is masked (R359). -/
def Msix.held (m : Msix) : Bool := m.masked || m.fnMasked

/-- Send an MSI-X message of a function, or drop it while the host link is down (R455). -/
def State.msixSend (s : State) (fn : Nat) : State :=
  let m := s.msixOf fn
  if s.host.linkUp then { s with outbox := .msix fn m.addr m.data :: s.outbox } else s

/-- Generate an MSI-X message of a function (R359): held with its pending bit while masked, else sent. -/
def State.msixRaise (s : State) (fn : Nat) : State :=
  let m := s.msixOf fn
  if m.held then s.setMsix fn { m with pending := true } else s.msixSend fn

/-- Add 1 to a 16-bit counter that saturates (R357). -/
def State.satInc (s : State) (inst num : Nat) : State :=
  if s.regF inst num 0 16 < 0xFFFF then s.setRegF inst num 0 16 (s.regF inst num 0 16 + 1) else s

/-- After an entry is written: one message while IEN = 1 and PEND = 0, and PEND is set (R359). -/
def State.signalQueue (s : State) (inst num fn : Nat) : State :=
  if s.regF inst num 0 1 = 1 ∧ s.regF inst num 1 1 = 0 then (s.msixRaise fn).setRegF inst num 1 1 1 else s

/-- Write an owner half to a partition's fault queue, or count it as lost (R357). -/
def State.pushOwner (s : State) (p : Nat) (half : BitVec 256) : State :=
  let head := s.regF p 0x6052 0 10
  let tail := s.regF p 0x6052 10 10
  let size := s.regF p 0x6052 20 10
  if size = 0 ∨ (head + 1) % size = tail then s.satInc p 0x6053
  else
    match vpost s (16 * p) .post (s.reg64 p 0x6050 + BitVec.ofNat 64 (32 * head)) (toBytes half.toNat 32) with
    | (s, some _) => s.satInc p 0x6053
    | (s, none) => (s.setRegF p 0x6052 0 10 ((head + 1) % size)).signalQueue p 0x6054 (p + 2)

/-- Write a half to the operator event queue, or count it as lost (R358). -/
def State.pushOper (s : State) (half : BitVec 256) : State :=
  let head := s.regF 0 0x5112 0 12
  let tail := s.regF 0 0x5112 12 12
  let size := s.regF 0 0x5113 0 12
  if size = 0 ∨ (head + 1) % size = tail then s.satInc 0 0x5115
  else
    match vpost s 0x400 .post (s.reg64 0 0x5110 + BitVec.ofNat 64 (32 * head)) (toBytes half.toNat 32) with
    | (s, some _) => s.satInc 0 0x5115
    | (s, none) => (s.setRegF 0 0x5112 0 12 ((head + 1) % size)).signalQueue 0 0x5114 0

/-- The auditor's fault count of a class of a partition increases by 1 (R91, R356). -/
def State.countFault (s : State) (p cls : Nat) : State :=
  s.addReg 0 (0x7000 + 32 * p + 13 + (cls - 1) / 2) (if cls % 2 = 1 then 0 else 16) 16 1

/-- The serial of a partition's next record, taken (R355); an event of no partition has serial 0. -/
def State.takeSerial (s : State) (part : Option Nat) : State × Nat :=
  match part with
  | some p => (s.setReg p 0x6055 (s.reg p 0x6055 + 1), (s.reg p 0x6055).toNat)
  | none => (s, 0)

/-- Where an owner half that no save area receives goes (R356, R395): the owner's fault queue, the operator's event
queue, or nowhere. -/
inductive OwnerTo where
  /-- The partition's fault queue. -/
  | queue
  /-- The operator event queue. -/
  | oper
  /-- A save area, or no owner half at all. -/
  | none
  deriving DecidableEq, Repr

/-- Route one record (R356): serial, auditor count, owner half, operator half. Answers the owner half with its serial. -/
def State.record (s : State) (r : Rec) (rcpt : OwnerTo) : State × BitVec 256 :=
  let (s, serial) := s.takeSerial r.part
  let s := match r.part with | some p => if r.cls = 0 then s else s.countFault p r.cls | none => s
  let own := r.owner serial s.gt
  let s := match rcpt with
    | .queue => (match r.part with | some p => s.pushOwner p own | none => s)
    | .oper => s.pushOper own
    | .none => s
  let s := if r.cls = 0 ∨ bit (s.reg 0 0x5116) (r.cls - 1) then s.pushOper (r.oper serial s.gt) else s
  (s, own)

/-- A record with operator half only (R354). -/
def State.operRecord (s : State) (r : Rec) : State := (s.record { r with part := none } .none).1

end Sys2Proof.Machine
end

