-- ==== Sys2Proof/Machine/Ops.lean ====
section
/-! DEFINITION. The shared operations of every word: the order of checks (R371), run ends (R55–R57), the divergence stack
(R58–R63), barriers, taking a fault or trap into a handler and returning from one (R351–R366, R391–R394), and the
capture of a control block (R123, R426). -/

namespace Sys2Proof.Machine

/-- All lanes. -/
def allLanes : W32 := 0xFFFFFFFF#32

/-- The context handle a record names: none for an agent or a counting task (R354). -/
def Block.handleOf (b : Block) (h : Nat) : Nat := match b.owner with | .launch _ => h | _ => 0xFFFFFFFF

/-- The record of a class at the issuing word, naming its placement (R354, R372). -/
def View.mkRec (v : View) (cls : Nat) : Rec :=
  { cls, iaddr := v.pc, lanes := v.mask, part := v.b.part?, core := some v.core, slot := some v.gslot,
    handle := v.b.handleOf v.handle }

/-- Whether a group runs inside an operator-gate call (R238, R240). -/
def Group.inOperGate (g : Group) : Bool := g.gates.any (fun f => decide (256 ≤ f.gate))

/-- Where the owner half of a group's record goes when no handler takes it (R356, R395, R42). -/
def Group.ownerTo (g : Group) (part : Option Nat) : OwnerTo :=
  if part.isNone then .oper
  else match g.gates with
    | f :: _ => if 256 ≤ f.gate then .oper else .queue
    | [] => .queue

/-! ### Arithmetic-clock cycles -/

/-- Cycles of a cluster's arithmetic clock in 20 ticks of GT, by step: 1.6, 1.75 and 1.9 GHz (R24). -/
def rate20 (step : Nat) : Nat := if step = 0 then 32 else if step = 1 then 35 else 38

/-- The twentieths of an edge of a cluster's clock since its cycles were last counted: those begun then and those of the ticks since, at
its step's rate (R24, R305). While its supply droops, each tick adds the edges that occur (R306), and no others count; a frozen package
counts none (R316). -/
def State.ticking (s : State) (c : Nat) : Nat :=
  let x := s.cluster c
  x.frac + if x.droop || s.frozen then 0 else (s.gt - x.cyclesAt) * rate20 (s.regF c 0x3010 0 2)

/-- A cluster's cycle count now (R88). -/
def State.ccount (s : State) (c : Nat) : Nat := (s.cluster c).cycles + s.ticking c / 20

/-- A cluster's cycles are counted up to now, before its rate changes: the edge begun is kept. -/
def State.countCycles (s : State) (c : Nat) : State :=
  s.setCluster c { s.cluster c with cycles := s.ccount c, frac := s.ticking c % 20, cyclesAt := s.gt }

/-- Every cluster's cycles are counted up to now. -/
def State.countAll (s : State) : State := (List.range Config.clusters).foldl State.countCycles s

/-! ### The calendar and the budgets (R313, R315) -/

/-- Whether the maintenance calendar lets an engine start a transfer (R313). -/
def State.mayTransfer (s : State) : Bool := decide (s.clock.phase = .open_)

/-- An activity uses the present tick (R315). -/
def State.act (s : State) (a : Activity) : State :=
  if s.clock.acting.contains a then s else { s with clock := { s.clock with acting := a :: s.clock.acting } }

/-! ### The scheduler's sets (R65–R68) -/

/-- A group is resident on a core as a tenant. -/
def residents (s : State) (core : Nat) : List (Nat × Nat × Group) :=
  s.blocks.flatMap (fun hb =>
    if decide (hb.2.place = .core core) && (match hb.2.owner with | .launch _ => true | _ => false) then
      (List.range hb.2.groups.length).filterMap (fun gi => (hb.2.groups[gi]?).map (fun g => (hb.1, gi, g)))
    else [])

/-- The groups of a partition stop at their run ends for a checkpoint's cut (R341). -/
def State.cutting (s : State) (part : Option Nat) : Bool :=
  match part.bind (fun p => (AMap.get? s.parts p).bind Part.ckpt) with
  | some c => c.cutting
  | none => false

/-- Whether a group is ready (R67): a slot can issue, and its block does not stop for missing pages (R131) or for a sealing, which lets an
operator-gate call go on (R240, R253). -/
def groupReady (s : State) (h : Nat) (g : Group) : Bool :=
  g.nextSlot.isSome && g.area.isEmpty &&
  match AMap.get? s.blocks h with
  | some b => !b.halted && (!b.stopping || g.inOperGate) && (g.held.isEmpty || !b.missing.isEmpty) && (g.inRun || g.inOperGate || !s.cutting b.part?) && b.conts.isEmpty && (b.missing.isEmpty || (g.inRun && !g.stopped))
  | none => false

/-- How far a group slot lies after the one last chosen. -/
def slotTurn (last slot : Nat) : Nat := (slot + 31 - last) % 32

/-- The group slot of a group. -/
def State.slotOf (s : State) (h gi : Nat) : Nat := match AMap.get? s.blocks h with | some b => b.gslots.getD gi 0 | none => 0

/-- A resident group comes before another: by age, and among equals round-robin by slot, after the slot last chosen (R65). -/
def State.older (s : State) (core : Nat) (x y : Nat × Nat × Group) : Bool :=
  let turn (r : Nat × Nat × Group) : Nat := slotTurn (s.core core).lastSlot (s.slotOf r.1 r.2.1)
  decide (x.2.2.age < y.2.2.age) || (decide (x.2.2.age = y.2.2.age) && decide (turn x ≤ turn y))

/-- The first of resident groups of a core (R65). -/
def oldest (s : State) (core : Nat) : List (Nat × Nat × Group) → Option (Nat × Nat × Group)
  | [] => none
  | r :: rs =>
    match oldest s core rs with
    | some x => if s.older core r x then some r else some x
    | none => some r

/-- Whether a block is a tenant's or an operator launch's: an agent and a counting task hold places of their own (R42, R68). -/
def Block.isTenant (b : Block) : Bool := match b.owner with | .launch _ => true | _ => false

/-- The groups on a core, an agent's and a counting task's among them. -/
def groupsOn (s : State) (core : Nat) : List (Nat × Nat × Group) :=
  s.blocks.flatMap (fun hb =>
    if hb.2.core? = some core then
      (List.range hb.2.groups.length).filterMap (fun gi => (hb.2.groups[gi]?).map (fun g => (hb.1, gi, g)))
    else [])

/-- A core looks which of its groups are ready: one that has become ready takes the present cycle as its age (R65, R67). -/
def noteReady (s : State) (core : Nat) : State :=
  let now := s.ccount (core / 4)
  (groupsOn s core).foldl (fun s r =>
    let is := groupReady s r.1 r.2.2
    if is = r.2.2.ready then s
    else s.modGroup r.1 r.2.1 (fun g => { g with ready := is, age := if is then now else g.age })) s

/-- Active groups that cannot issue leave their places: every wait but for a word's turn is long here (R66, R67). -/
def restPlaces (s : State) (core : Nat) : State :=
  (residents s core).foldl (fun s r =>
    if r.2.2.active && !groupReady s r.1 r.2.2 then s.modGroup r.1 r.2.1 (fun g => { g with active := false }) else s) s

/-- The oldest pending ready group takes an active place, when one is free (R67). -/
def promoteOne (s : State) (core : Nat) : State :=
  let rs := residents s core
  if 8 ≤ (rs.filter (fun r => r.2.2.active)).length then s
  else
    match oldest s core (rs.filter (fun r => !r.2.2.active && groupReady s r.1 r.2.2)) with
    | none => s
    | some r => s.modGroup r.1 r.2.1 (fun g => { g with active := true })

/-- Up to so many promotions. -/
def promoteMany (core : Nat) : Nat → State → State
  | 0, s => s
  | n + 1, s => promoteMany core n (promoteOne s core)

/-- The eight active places of a core go to groups that can issue, oldest first (R67). -/
def promote (s : State) (core : Nat) : State := promoteMany core 8 (restPlaces s core)

/-- A run has ended on a core: a tenant's group with a long wait leaves the active set, and a group pending ready for 1,024
cycles takes the place of the group whose run ended (R67). -/
def schedRunEnd (s : State) (core h gi : Nat) (long : Bool) : State :=
  let now := s.ccount (core / 4)
  let waits : Bool := match s.group? h gi with | some g => !groupReady s h g | none => true
  let tenant : Bool := match AMap.get? s.blocks h with | some b => b.isTenant | none => false
  if !tenant then s.modGroup h gi (fun g => { g with age := now })
  else if long || waits then promote (s.modGroup h gi (fun g => { g with active := false })) core
  else
    match oldest s core ((residents s core).filter (fun r =>
        !r.2.2.active && groupReady s r.1 r.2.2 && decide (r.2.2.age + 1024 ≤ now))) with
    | none => s.modGroup h gi (fun g => { g with age := now })
    | some r =>
      (s.modGroup h gi (fun g => { g with active := false, age := now })).modGroup r.1 r.2.1
        (fun g => { g with active := true })

/-! ### Barriers -/

/-- A slot that waits as a test says, or does not hold a path. -/
def slotWaits (t : Wait → Bool) (x : Slot) : Bool := !x.live || t x.wait

/-- A group has arrived at `bar`: it has exited, or every live slot waits at `bar` (R232). DESIGN CHOICE: a group that has exited is none
of the participating groups of R142, so the barrier does not wait for its host and peer accesses (log 58). -/
def Group.atBar (g : Group) : Bool :=
  decide (g.exited = allLanes) ||
  ((g.slot0.live || g.slot1.live) && slotWaits (fun w => decide (w = .bar)) g.slot0 &&
    slotWaits (fun w => decide (w = .bar)) g.slot1)

/-- Turn the waits a test names into passed ones. -/
def passWait (t : Wait → Bool) (w : Wait) : Wait := if t w then .passed else w
/-- `passWait` on a slot. -/
def passSlot (t : Wait → Bool) (x : Slot) : Slot := { x with wait := passWait t x.wait }
/-- `passWait` on a save area. -/
def passHsv (t : Wait → Bool) (x : Hsv) : Hsv := { x with slot0 := passSlot t x.slot0, slot1 := passSlot t x.slot1 }
/-- `passWait` on pushed paths. -/
def passPushed (t : Wait → Bool) (m : AMap Wait) : AMap Wait := m.map (fun kw => (kw.1, passWait t kw.2))

/-- Release every path of a group that waits as a test says: its slots, its pushed paths, and those that a handler level or
a gate call has set aside. -/
def Group.release (t : Wait → Bool) (g : Group) : Group :=
  { g with
    slot0 := passSlot t g.slot0, slot1 := passSlot t g.slot1, pushed := passPushed t g.pushed, hsv1 := passHsv t g.hsv1,
    hsv2 := passHsv t g.hsv2,
    gates := g.gates.map (fun f =>
      { f with
        slot0 := passSlot t f.slot0, slot1 := passSlot t f.slot1, pushed := passPushed t f.pushed, hsv1 := passHsv t f.hsv1,
        hsv2 := passHsv t f.hsv2 }) }

/-- The groups of a block that were killed. -/
def Block.killedN (b : Block) : Nat := (b.groups.filter (fun g => g.killed)).length

/-- The phase of a named barrier: COUNT is fixed by its first arrival, and every killed group counts as arrived (R233, R366). -/
def Block.phase (b : Block) (n count : Nat) : Named := AMap.getD b.named n { count, arrived := b.killedN }

/-- Arrivals of a group at a named barrier become known; those that complete the phase release its waiting slots (R233). -/
def Block.arriveAt (b : Block) (n : Nat) (p : Named) (gi : Nat) : Block :=
  if p.count ≤ p.arrived + 1 then
    { b with named := AMap.del b.named n, groups := b.groups.map (Group.release (fun w => decide (w = .barw n))) }
  else { b with named := AMap.put b.named n { p with arrived := p.arrived + 1, who := gi :: p.who } }

/-- One arrival of a group at a named barrier (R233). -/
def Block.arrive (b : Block) (gi n count : Nat) : Block := b.arriveAt n (b.phase n count) gi

/-- A killed group counts as arrived at every phase it had not arrived in (R366; log 61). -/
def Block.arriveKilled (b : Block) (gi : Nat) : Block :=
  (b.named.filter (fun p => !p.2.who.contains gi)).foldl (fun b p => b.arriveAt p.1 p.2 gi) b

/-- Complete the block barrier when every group has arrived (R232). -/
def Block.checkBar (b : Block) : Block :=
  if b.groups.all Group.atBar then { b with groups := b.groups.map (Group.release (fun w => decide (w = .bar))) } else b

/-! ### Kill -/

/-- A record of a group that belongs to no issuing word. -/
def State.recOf (s : State) (h gi cls : Nat) : Rec :=
  match AMap.get? s.blocks h with
  | none => { cls }
  | some b =>
    { cls, part := b.part?, core := b.core?, slot := b.core?.map (fun _ => b.gslots.getD gi 0), handle := b.handleOf h }

/-- The failures after submission of a group's calls at a depth or deeper go to the owner, no `waitc` having covered them
(R380). -/
def flushFailures (s : State) (h gi depth : Nat) : State :=
  match s.group? h gi with
  | none => s
  | some g =>
    let rcpt := g.ownerTo ((AMap.get? s.blocks h).bind Block.part?)
    let s := (g.failures.filter (fun f => decide (depth ≤ f.depth))).foldl (fun s f =>
      (s.record { s.recOf h gi f.cls with
          iaddr := f.iaddr, vaddr := f.vaddr, kind := 5, lanes := f.mask, frame := f.frame, tier := f.tier
          sp := decide (f.cls = clsSPV) } rcpt).1) s
    s.modGroup h gi (fun g => { g with failures := g.failures.filter (fun f => decide (f.depth < depth)) })

/-- Counters added class by class. -/
def Counters.add (a b : Counters) : Counters :=
  { cpy := a.cpy + b.cpy, mma := a.mma + b.mma, gth := a.gth + b.gth, col := a.col + b.col }

/-- Kill a group (R366): its lanes join EXITED, its held accesses are discarded, its submitted operations complete, and it
counts as arrived. An agent ends until the next frame boundary, and a ticket it has claimed is left to the repost rule (R436), a counting task until its next start (R42). -/
def killGroup (s : State) (h gi : Nat) : State :=
  let dead (s : State) : State := (flushFailures s h gi 0).modBlock h (fun b => (b.modGroup gi (fun g =>
    { g with
      slot0 := {}, slot1 := {}, top := none, depth := 0,
      counters := g.gates.foldl (fun c f => c.add f.counters) g.counters, exited := allLanes, held := [], gates := [], level := 0, inRun := false,
      ending := false, forced := none, longRun := false, base := g.live, stopped := false, killed := true })).arriveKilled gi |>.checkBar)
  let gone (s : State) : State := { flushFailures s h gi 0 with blocks := AMap.del s.blocks h }
  match (AMap.get? s.blocks h).map Block.owner with
  | some (.agent c) =>
    ({ gone s with claims := s.claims.filter (fun x => decide (x.1 ≠ c)) }).setCore c { s.core c with agentDead := true }
  | some (.task _) => gone s
  | _ => dead s

/-! ### Missing pages -/

/-- A block counts a missing page; each page newly counted raises one MSP record, whose owner half goes to the queue
(R131, R409). -/
def State.addMissing (s : State) (h gi : Nat) (k : PageKey) (r : Rec) : State :=
  match AMap.get? s.blocks h with
  | none => s
  | some b =>
    if b.missing.contains k then s
    else
      let rcpt := match b.groups[gi]? with
        | some g => g.ownerTo b.part?
        | none => .queue
      ((s.modBlock h (fun b => { b with missing := b.missing ++ [k] })).record r rcpt).1

/-! ### Divergence entries (R59, R60) -/

/-- The 16 bytes of a divergence entry (R59). -/
def DivEntry.toNat (e : DivEntry) : Nat :=
  let delta : Nat := match e.rpc with
    | none => 0x80000000
    | some r => ((r - e.pc).sshiftRight 3).toNat % 2 ^ 32
  1 + 2 * b2n e.arr + 8 * fldN e.pc 3 53 + 2 ^ 64 * e.mask.toNat + 2 ^ 96 * delta

/-- The divergence entry of 16 bytes (R59). -/
def DivEntry.ofNat (x : Nat) : DivEntry :=
  let pc : W64 := BitVec.ofNat 64 (x / 8 % 2 ^ 53 * 8)
  let delta : W32 := BitVec.ofNat 32 (x / 2 ^ 96)
  { pc, mask := BitVec.ofNat 32 (x / 2 ^ 64), arr := decide (x / 2 % 2 = 1),
    rpc := if delta = 0x80000000#32 then none else some (pc + (delta.signExtend 64 <<< 3)) }

/-- Why a push or pop of the divergence area failed: class, entry address, frame, tier and unit, and whether the failure lay in the
walk (R387, R407). -/
structure DivFail where
  cls : Nat
  va : W64
  frame : Nat
  tier : Nat
  unit : Nat
  walk : Bool := false

/-- KIND of the record: 6 for a failure in the walk (R407, R409, R420). -/
def DivFail.kind (e : DivFail) (k : Nat) : Nat := if e.walk then 6 else k

/-- Note what a path pushed at index `k` waits for. -/
def pushWait (m : AMap Wait) (k : Nat) (w : Wait) : AMap Wait := if w = .none then AMap.del m k else AMap.put m k w

/-- An address lies on a page of the host or of a peer. -/
def State.isAway (s : State) (a : Nat) (va : W64) : Bool := (judge s none a .load va 1).2.isRemote

/-- Write one entry of a group's divergence area (R60). On a page of the host or a peer the write is posted, and the entry is kept for
its pop, since no software touches a resident group's area. -/
def areaPut (s : State) (h gi a : Nat) (va : W64) (k : Nat) (bs : List Byte) : State × Option (Nat × Nat × Nat) :=
  match vpost s a .post va bs with
  | (s, some e) => (s, some e)
  | (s, none) =>
    (s.modGroup h gi (fun g => { g with away := if s.isAway a va then AMap.put g.away k bs else AMap.del g.away k }), none)

/-- Read one entry of a group's divergence area. -/
def areaGet (s : State) (g : Group) (a : Nat) (va : W64) (k : Nat) : State × Except (Nat × Nat × Nat) (List Byte) :=
  match AMap.get? g.away k with
  | some bs => if s.isAway a va then (s, .ok bs) else vread s a va 16
  | none => vread s a va 16

/-- Push an entry: into the spill image inside a gate call, else into the divergence area (R60, R61, R237, R386). A write into a line
that holds an uncorrectable error is not performed and leaves a record; the push goes on (R420). -/
def pushEntry (s : State) (v : View) (e : DivEntry) (w : Wait) : State × Option DivFail :=
  let h := v.handle
  let gi := v.gi
  match s.group? h gi with
  | none => (s, none)
  | some g =>
    let va := g.divBase + BitVec.ofNat 64 (16 * g.depth)
    let down (s : State) : State := s.modGroup h gi (fun g => { g with depth := g.depth + 1, pushed := pushWait g.pushed g.depth w })
    if g.divLimit ≤ g.depth then (s, some { cls := clsDIV, va := 0, frame := noFrame, tier := noTier, unit := 0 })
    else match g.gates with
    | f :: fs =>
      (s.modGroup h gi (fun g =>
        { g with
          depth := g.depth + 1, pushed := pushWait g.pushed g.depth w
          gates := { f with entries := f.entries.take g.depth ++ [e] } :: fs }), none)
    | [] =>
      match areaPut s h gi g.asid.toNat va g.depth (toBytes e.toNat 16) with
      | (s, some (c, fr, u)) =>
        let walk := s.walkStops g.asid.toNat va
        if c = clsECC ∧ !walk then
          (down (s.record { v.mkRec clsECC with
            lanes := v.mask, vaddr := va, kind := 2, frame := fr, tier := s.tierOf fr, unit := u, ukind := 7 } (g.ownerTo v.b.part?)).1, none)
        else (s, some { cls := c, va, frame := fr, tier := s.failTier g.asid.toNat .store va, unit := u, walk })
      | (s, none) => (down s, none)

/-- Read the newest entry of a group's divergence stack. -/
def newestEntry (s : State) (g : Group) : State × Except DivFail DivEntry :=
  match g.gates with
  | f :: _ => (s, .ok (f.entries.getD (g.depth - 1) { pc := 0, mask := 0, rpc := none, arr := false }))
  | [] =>
    let va := g.divBase + BitVec.ofNat 64 (16 * (g.depth - 1))
    match areaGet s g g.asid.toNat va (g.depth - 1) with
    | (s, .ok bs) => (s, .ok (DivEntry.ofNat (ofBytes bs)))
    | (s, .error (c, fr, u)) =>
      (s, .error { cls := c, va, frame := fr, tier := s.failTier g.asid.toNat .load va, unit := u, walk := s.walkStops g.asid.toNat va })

/-- The entries below this index belong to the code a handler interrupted (R363). -/
def Group.floor (g : Group) : Nat := match g.level with | 0 => 0 | 1 => g.hsv1.depth | _ => g.hsv2.depth

/-- The save area of the innermost handler level. -/
def Group.hsv (g : Group) : Hsv := if g.level = 1 then g.hsv1 else g.hsv2

/-- A slot from a path: empty when its mask is 0 (R61). -/
def slotOf (pc : W64) (mask : W32) (arr : Bool) : Slot :=
  if mask = 0 then {} else { live := true, arr, pc, mask }

/-- A slot masked by the lanes that have not exited. -/
def Slot.without (x : Slot) (exited : W32) : Slot :=
  if x.mask &&& ~~~ exited = 0 then {} else { x with mask := x.mask &&& ~~~ exited }

/-- A slot at the divergence top's PC has arrived (R58, R61). -/
def arriveSlot (top : Option DivEntry) (x : Slot) : Slot :=
  match top with
  | some t => if x.live && decide (x.pc = t.pc) then { x with arr := true } else x
  | none => x

/-- Both slots are empty or have arrived (R61). -/
def Group.gathered (g : Group) : Bool := (!g.slot0.live || g.slot0.arr) && (!g.slot1.live || g.slot1.arr)

/-! ### The results of a run -/

/-- Perform an `swr` of a group- or block-scope register (R249): `tvt`, `prog`, `spfmask`, the return point of a handler
level, `ttcfg` (R86, R87, R362). -/
def applySwr (b : Block) (gi : Nat) (q : SwrReq) : Block :=
  let grp (f : Group → Group) : Block := b.modGroup gi f
  let x := q.value
  match q.num with
  | 0x0014 => grp (fun g => { g with tvt := pair (x &&& ~~~ 0x3F#32) (hi32 g.tvt) })
  | 0x0015 => grp (fun g => { g with tvt := pair (lo32 g.tvt) (x &&& 0xFFFFFF#32) })
  | 0x0016 => grp (fun g => { g with prog := x.extractLsb' 0 16 })
  | 0x0017 => grp (fun g => { g with spfmask := x.extractLsb' 0 3 })
  | 0x004C => grp (fun g => { g with hsv1 := { g.hsv1 with rpc := pair (x &&& ~~~ 7#32) (hi32 g.hsv1.rpc) } })
  | 0x004D => grp (fun g => { g with hsv1 := { g.hsv1 with rpc := pair (lo32 g.hsv1.rpc) (x &&& 0xFFFFFF#32) } })
  | 0x006C => grp (fun g => { g with hsv2 := { g.hsv2 with rpc := pair (x &&& ~~~ 7#32) (hi32 g.hsv2.rpc) } })
  | 0x006D => grp (fun g => { g with hsv2 := { g.hsv2 with rpc := pair (lo32 g.hsv2.rpc) (x &&& 0xFFFFFF#32) } })
  | 0x1010 => if bit x 0 then (if b.tten then b else { b with tten := true, tags := [] }) else { b with tten := false }
  | _ => b

/-- The results of a run are written (R57): the register files, the block's format registers, and the `swr` words of the
run in order. -/
def commitBlock (b : Block) (gi : Nat) : Block :=
  match b.groups[gi]? with
  | none => b
  | some g =>
    let fm := g.live.fm
    let live := { g.live with fm := [] }
    let put (m : SMap W32) : SMap W32 := fm.foldl (fun m kv => SMap.set (fun _ => 0) m kv.1 kv.2) m
    let b : Block := match g.gates with
      | f :: fs =>
        if g.inOperGate then
          b.modGroup gi (fun g => { g with base := live, live := live, gates := { f with fm := put f.fm } :: fs })
        else { b.modGroup gi (fun g => { g with base := live, live := live }) with fm := put b.fm }
      | [] => { b.modGroup gi (fun g => { g with base := live, live := live }) with fm := put b.fm }
    let b := g.swrs.foldl (fun b q => applySwr b gi q) b
    b.modGroup gi (fun g => { g with swrs := [], inRun := false, ending := false, longRun := false })

/-! ### Gate returns -/

/-- The code `s0` receives from a forced return: reason and class (R394). -/
def forcedCode (reason cls : Nat) : W32 := BitVec.ofNat 32 (cls + 256 * reason + 2 ^ 31)

/-- The register files after a return (R239, R394): results from the callee, zeros for the arguments that are no
results, everything else from the caller's image. Only lanes of the call had their argument registers in the callee. -/
def returnRegs (f : GateFrame) (live : Regs) (forced : Option W32) : Regs :=
  let r := { f.regs with acc := live.acc, fm := [] }
  let retv := if forced.isSome then 0 else f.retv
  let rets := if forced.isSome then 0 else f.rets
  let r := (List.range f.argv).foldl (fun r k =>
    (lanesOf f.mask).foldl (fun r l => r.setVec k l (if k < retv then live.vec k l else {})) r) r
  let r := (List.range f.args).foldl (fun r k => r.setUni k (if k < rets then live.uni k else 0)) r
  match forced with
  | some c => r.setUni 0 c
  | none => r

/-- Restore the caller's image of the innermost call: `gret`, or a forced return with its code (R239, R394). The calling
slot continues at `gcall` + 8. -/
def restoreCaller (g : Group) (forced : Option W32) : Group :=
  match g.gates with
  | [] => g
  | f :: rest =>
    let r := returnRegs f g.live forced
    let next (d : Bool) (x : Slot) : Slot :=
      let x := x.without g.exited
      if d = f.d && x.live then { x with pc := f.iaddr + 8, cnt := 0, wait := .none } else x
    { g with
      base := r, live := r, gates := rest, asid := f.asid, auth := f.auth, tvt := f.tvt, top := f.top, depth := f.depth,
      counters := f.counters, subs := f.subs, pushed := f.pushed, hsv1 := f.hsv1, hsv2 := f.hsv2, slot0 := arriveSlot f.top (next false f.slot0), slot1 := arriveSlot f.top (next true f.slot1),
      level := 0, cls := 0, trapno := 0, inRun := false, ending := false, longRun := false, forced := none }

/-- Failures of accesses that no handler is to take go to the owner under the group's routing (R394). -/
def flushRemote (s : State) (h gi : Nat) : State :=
  match s.group? h gi with
  | none => s
  | some g =>
    let rcpt := g.ownerTo ((AMap.get? s.blocks h).bind Block.part?)
    let s := (g.remFail ++ g.pend).foldl (fun s f =>
      (s.record { s.recOf h gi f.cls with
          iaddr := f.iaddr, vaddr := f.vaddr, lanes := f.lanes, kind := f.kind, wid := f.wid, tier := f.tier, frame := f.frame } rcpt).1) s
    s.modGroup h gi (fun g => { g with remFail := [], pend := [] })

/-- A call ends: its uncovered failures go to the owner, and the caller's image is restored (R239, R380). A forced return reports
the failures of the callee's drained accesses under its own routing (R394). -/
def endCall (s : State) (h gi : Nat) (forced : Option W32) : State :=
  match s.group? h gi with
  | none => s
  | some g =>
    let s := flushFailures s h gi g.gates.length
    let s := if forced.isNone then s else flushRemote s h gi
    s.modGroup h gi (fun g => restoreCaller g forced)

/-- Nothing of a callee is outstanding (R239, R394): its counters are 0, its host and peer accesses answered, and none is held. -/
def Group.drained (s : State) (h gi : Nat) (g : Group) : Bool :=
  decide (g.counters = {}) && (s.remotesOf h gi).isEmpty && g.held.isEmpty

/-- End the innermost call by a forced return (R394): the results of the callee's run so far are its own (R396), and the caller goes
on once nothing of the callee is outstanding. A `place` that the callee waits at is given up. -/
def forceReturn (s : State) (h gi reason cls : Nat) : State :=
  let s := (s.modBlock h (fun b => commitBlock b gi)).modGroup h gi (fun g => { g with placing := none })
  match s.group? h gi with
  | none => s
  | some g =>
    if g.drained s h gi then endCall s h gi (some (forcedCode reason cls))
    else s.modGroup h gi (fun g =>
      { g with
        forced := some (reason, cls), slot0 := {}, slot1 := {}, top := none, level := 0, inRun := false, ending := false,
        base := g.live })

/-! ### Settling the slots -/

/-- The end of a handler level by `exit` (R389). -/
def leaveByExit (g : Group) : Group :=
  let v := g.hsv
  let s0 := v.slot0.without g.exited
  let s1 := v.slot1.without g.exited
  let s0 := if !v.dslot && s0.live then { s0 with pc := v.rpc, cnt := 0, wait := .none } else s0
  let s1 := if v.dslot && s1.live then { s1 with pc := v.rpc, cnt := 0, wait := .none } else s1
  { g with slot0 := s0, slot1 := s1, top := v.top, depth := v.depth, level := g.level - 1,
           cls := if g.level = 2 then g.hsv1.cls else 0, trapno := if g.level = 2 then g.hsv1.trapno else 0 }

/-- Pop the divergence stack once (the merge row of R61): slot 0 from the top, slot 1 and the new top from memory. A pop
that fails kills the group (R387). -/
def mergeOnce (s : State) (h gi : Nat) (g : Group) (t : DivEntry) (part : Option Nat) : State :=
  let fail (s : State) (e : DivFail) (pc : W64) : State :=
    if e.cls = clsMSP then
      (s.modGroup h gi (fun _ => { g with stopped := true })).addMissing h gi (.frame e.frame)
        { s.recOf h gi clsMSP with iaddr := pc, vaddr := e.va, kind := e.kind 1, frame := e.frame, tier := e.tier }
    else
      let r : Rec :=
        { s.recOf h gi e.cls with
          kill := true, iaddr := pc, vaddr := e.va, kind := e.kind 1, frame := e.frame, unit := e.unit, ukind := if e.cls = clsECC then 7 else 0
          tier := e.tier, lanes := g.slot0.mask ||| g.slot1.mask }
      killGroup (s.record r (g.ownerTo part)).1 h gi
  let slot0 := slotOf t.pc (t.mask &&& ~~~ g.exited) false
  let g1 := { g with slot0, slot1 := {}, top := none }
  let place (s : State) (g : Group) : State :=
    s.modGroup h gi (fun _ => { g with slot0 := arriveSlot g.top g.slot0, slot1 := g.slot1 })
  if g1.depth ≤ g1.floor then place s g1
  else
    match newestEntry s g1 with
    | (s, .error e) => fail s e t.pc
    | (s, .ok e) =>
      if e.rpc = t.rpc then
        let g2 := { g1 with
          slot1 := { slotOf e.pc (e.mask &&& ~~~ g.exited) e.arr with wait := AMap.getD g1.pushed (g1.depth - 1) .none }
          depth := g1.depth - 1 }
        if g2.depth ≤ g2.floor then place s g2
        else match newestEntry s g2 with
          | (s, .error e) => fail s e t.pc
          | (s, .ok e2) => place s { g2 with top := some e2, depth := g2.depth - 1 }
      else place s { g1 with top := some e, depth := g1.depth - 1 }

/-- Settle a group's slots after its lanes moved, joined or exited (R61, R389, R390): merge, leave a handler, end a call,
or note that the group has exited. A group whose divergence area is not yet copied to its place merges later (R60). -/
def settle : Nat → State → Nat → Nat → State
  | 0, s, _, _ => s
  | n + 1, s, h, gi =>
    match AMap.get? s.blocks h with
    | none => s
    | some b =>
      match b.groups[gi]? with
      | none => s
      | some g =>
        if g.forced.isSome then s
        else if g.exited = allLanes then
          if g.gates.isEmpty then
            (flushFailures s h gi 0).modBlock h (fun b => (b.modGroup gi (fun g =>
              { g with slot0 := {}, slot1 := {}, top := none, depth := 0, level := 0, inRun := false, ending := false })).checkBar)
          else settle n (forceReturn s h gi 5 0) h gi
        else match g.top with
        | some t =>
          if g.gathered && g.area.isEmpty then settle n (mergeOnce s h gi g t b.part?) h gi else s
        | none =>
          if g.slot0.live || g.slot1.live then s
          else if 0 < g.level then settle n (s.modGroup h gi leaveByExit) h gi
          else if !g.gates.isEmpty then settle n (forceReturn s h gi 5 0) h gi
          else (flushFailures s h gi 0).modBlock h (fun b => (b.modGroup gi (fun g => { g with exited := allLanes, inRun := false, ending := false })).checkBar)

/-- Bound on the settling of one group: its entries, handler levels and calls. -/
def settleFuel : Nat := 4096

/-! ### Run ends -/

/-- Write the results of a group's run and settle its slots (R57, R61). -/
def commitRun (s : State) (h gi : Nat) : State :=
  (settle settleFuel (s.modBlock h (fun b => commitBlock b gi)) h gi).modBlock h Block.checkBar

/-- The format registers a group's words name: the block's, or an operator-gate callee's own file (R238). -/
def fmFile (b : Block) (g : Group) : SMap W32 :=
  match g.gates with
  | f :: _ => if 256 ≤ f.gate then f.fm else b.fm
  | [] => b.fm

/-- A word issues: at the first word of a run the values its run reads are fixed (R56, R79, R248). -/
def startRun (s : State) (v : View) : State :=
  if v.g.inRun then s
  else s.modGroup v.handle v.gi (fun g =>
    { g with
      inRun := true, cur := v.d,
      rs := { sys := s.sys, clusters := s.clusters, divBase := g.divBase,
              spbase := BitVec.ofNat 32 (v.b.spOff + 2 ^ 18 * v.b.spPos), tten := v.b.tten, slot0 := g.slot0, slot1 := g.slot1, depth := g.depth, counters := g.counters, mpc := v.b.missing.length,
              rngseed := g.rngseed, rngctr := g.rngctr, prog := g.prog, fm := fmFile v.b g, tags := v.b.tags } })

/-- The slot that issued has a word behind it, counted (R374). -/
def Group.advance (g : Group) (d : Bool) (pc : W64) : Group :=
  g.setSlot d { g.slot d with pc := pc, cnt := (g.slot d).cnt + 1, wait := .none }

/-! ### The control-block cache -/

/-- How a capture ends (R123, R426). -/
inductive Cap where
  /-- The bytes of the captured version. -/
  | ok (bytes : List Byte)
  /-- A check of R403 fails: class, frame and tier. -/
  | fail (cls frame tier : Nat)
  /-- A missing page: the frame, and whether it is a table frame. -/
  | missing (f : Nat) (table : Bool)
  /-- An uncorrectable error, of the line (KIND 5) or of the walk (KIND 6). -/
  | ecc (frame unit kind : Nat)
  /-- A host or peer page: the line must be fetched from there. -/
  | remote (t : Tr)

/-- Capture `n` bytes of one 64-byte line through a core's control-block cache (R123). -/
def capture (s : State) (core a : Nat) (va : W64) (n : Nat) : State × Cap :=
  let line := va.toNat / 64
  let off := va.toNat % 64
  let pick (bs : List Byte) : List Byte := (bs.drop off).take n
  if fldN va 56 8 ≠ 0 then (s, .fail clsXLT noFrame noTier)
  else match (s.core core).cbc.find? (fun l => decide (l.asid = a ∧ l.line = line)) with
  | some l => (s, .ok (pick l.bytes))
  | none =>
    match judge s (some core) a .block va 1 with
    | (s, .mem pa _ _ _ _ _) =>
      match s.physRead (pa - off) 64 with
      | .error u => (s, .ecc (pa / 65536) u 5)
      | .ok bs =>
        (s.setCore core { s.core core with cbc := ({ asid := a, line, bytes := bs } :: (s.core core).cbc).take 512 }, .ok (pick bs))
    | (s, .fail c f t) => (s, .fail c f t)
    | (s, .firstTouch) => (s, .fail clsFTP noFrame noTier)
    | (s, .missing f t _) => (s, .missing f t)
    | (s, .ecc f u) => (s, .ecc f u 6)
    | (s, t) => (s, .remote t)

/-! ### Taking a fault -/

/-- A word's fault: its class, the lanes and access its record names, and how it is delivered (R351, R371, R372). -/
structure Req where
  cls : Nat
  lanes : W32 := 0
  vaddr : W64 := 0
  kind : Nat := 0
  wid : Nat := 0
  sp : Bool := false
  frame : Nat := noFrame
  tier : Nat := noTier
  unit : Nat := 0
  ukind : Nat := 0
  kill : Bool := false
  iaddr : Option W64 := none
  rpc : Option W64 := none
  /-- A trap's number: no record is raised (R241). -/
  trap : Option Nat := none

/-- Enter a handler at `h` on the next level (R363): the save area, `hmode`, and the slot with the entry mask. -/
def enterHandler (g : Group) (d : Bool) (h : W64) (m : W32) (rpc : W64) (cls trapno : Nat) (owner : BitVec 256) : Group :=
  let v : Hsv :=
    { slot0 := g.slot0, slot1 := g.slot1, top := g.top, depth := g.depth, dslot := d, rpc, cls := BitVec.ofNat 8 cls,
      trapno := BitVec.ofNat 8 trapno, owner }
  let g := if g.level = 0 then { g with hsv1 := v } else { g with hsv2 := v }
  let g := { g with level := g.level + 1, cls := BitVec.ofNat 8 cls, trapno := BitVec.ofNat 8 trapno, top := none }
  (g.setSlot d { live := true, pc := h, mask := m }).setSlot (!d) {}

/-- The return from a handler (R242): both slots, the top and the depth from the save area; the slot that entered resumes
at RPC with its saved mask. -/
def leaveHandler (g : Group) : Group :=
  let v := g.hsv
  let fix (d : Bool) (x : Slot) : Slot := if d = v.dslot then { x with pc := v.rpc, cnt := 0, wait := .none } else x
  let g' := { g with
    slot0 := (fix false v.slot0).without g.exited, slot1 := (fix true v.slot1).without g.exited, top := v.top, depth := v.depth,
    level := g.level - 1, cls := if g.level = 2 then g.hsv1.cls else 0, trapno := if g.level = 2 then g.hsv1.trapno else 0 }
  { g' with slot0 := arriveSlot g'.top g'.slot0, slot1 := arriveSlot g'.top g'.slot1 }

/-- The address of a class's entry in the trap vector table (R360). -/
def Group.vector (g : Group) (cls : Nat) : W64 := g.tvt + BitVec.ofNat 64 (8 * cls)

/-- The handler address for a class in the trap vector table, when one is found (R360, R361). -/
def findHandler (s : State) (core : Nat) (g : Group) (cls : Nat) : State × Option W64 :=
  if g.tvt = 0 then (s, none)
  else match capture s core g.asid.toNat (g.vector cls) 8 with
    | (s, .ok bs) =>
      let h : W64 := BitVec.ofNat 64 (ofBytes bs)
      (s, if h = 0 ∨ h.toNat % 8 ≠ 0 then none else some h)
    | (s, _) => (s, none)

/-- The group goes no further: inside a call a forced return, else the kill of the group (R361, R363, R393). -/
def stopGroup (s : State) (v : View) (reason cls : Nat) : State :=
  match s.group? v.handle v.gi with
  | none => s
  | some g =>
    if g.gates.isEmpty then killGroup s v.handle v.gi
    else settle settleFuel (forceReturn s v.handle v.gi reason cls) v.handle v.gi

/-- Take a fault or a trap at the issuing word (R351–R366, R391–R393): the run ends with the results of its earlier words
written (R364); the vector table read is the one before the run's `swr` words (R384); the handler is entered, or the
group is killed or its call ends. A fetch failure and a delivery after the word give their own RPC. -/
def takeFault (s : State) (v : View) (q : Req) : State :=
  let g0 := (s.group? v.handle v.gi).getD v.g
  let vec := g0
  let s := s.modBlock v.handle (fun b => commitBlock b v.gi)
  let s := s.modGroup v.handle v.gi (fun g => g.setSlot v.d { g.slot v.d with cnt := 0, wait := .none })
  let iaddr := q.iaddr.getD v.pc
  let inGate := !g0.gates.isEmpty
  let base : Rec :=
    { v.mkRec q.cls with
      iaddr, vaddr := q.vaddr, kind := q.kind, wid := q.wid, sp := q.sp, lanes := q.lanes, frame := q.frame, tier := q.tier,
      unit := q.unit, ukind := q.ukind }
  let rcpt := g0.ownerTo v.b.part?
  if q.kill then
    let tier := if q.tier = noTier ∧ q.frame ≠ noFrame then s.tierOf q.frame else q.tier
    killGroup (s.record { base with kill := true, tier } rcpt).1 v.handle v.gi
  else if g0.level = 2 ∨ q.cls = clsHDL then
    let r : Rec := { v.mkRec clsHDL with kill := !inGate, iaddr }
    stopGroup (s.record r rcpt).1 v 2 clsHDL
  else
    match findHandler s v.core vec q.cls with
    | (s, none) =>
      match q.trap with
      | some _ => stopGroup s v 1 0
      | none =>
        let s := s.modGroup v.handle v.gi (fun g =>
          { g with remFail := g.remFail.filter (fun f => decide (f.kind ≠ 5 ∨ f.vaddr ≠ vec.vector q.cls)) })
        stopGroup (s.record { base with kill := !inGate, novec := true } rcpt).1 v 1 q.cls
    | (s, some h) =>
      match q.trap with
      | some n =>
        let r : Rec := { cls := 0, iaddr, lanes := v.mask }
        s.modGroup v.handle v.gi (fun g => enterHandler g v.d h v.mask (v.pc + 8) 0 n (r.owner 0 s.gt))
      | none =>
        let (s, own) := s.record base (if g0.inOperGate then .oper else .none)
        s.modGroup v.handle v.gi (fun g => enterHandler g v.d h q.lanes (q.rpc.getD v.pc) q.cls 0 own)

/-- A fresh access of an issuing group to a host or peer page, in an ASID. -/
def View.remote (v : View) (s : State) (asid : BitVec 11) (t : Tr) : Remote :=
  let base : Remote :=
    { handle := v.handle, gi := v.gi, lane := 0, uniform := true, kind := .load, va := 0, w := 0, data := [], aop := 0, aty := 0,
      dst := none, tag := 0, iaddr := v.pc, mask := v.mask, wid := 0, host := true, addr := 0, frame := 0, tgt := 0, pasid := 0,
      page := 0, asid, auth := v.g.auth, acq := false, xlat := false,
      fill := none, due := 0 }
  match t with
  | .host ha f so _ => { base with addr := ha, frame := f, acq := so, pasid := s.pasidOf asid.toNat, page := ha / 4096 }
  | .peer tgt a f so _ => { base with host := false, addr := a, frame := f, tgt, acq := so }
  | _ => base

/-- What a fault meets at the line of the trap vector table that its class names (R361, R426). -/
inductive VecLine where
  /-- Nothing: the fault is taken. -/
  | there
  /-- The line lies at the host or a peer; `asked` when it is on its way. -/
  | away (t : Tr) (asked : Bool)
  /-- Its frame, or a table frame of its walk, is missing. -/
  | missing (f : Nat) (table : Bool)
  /-- An uncorrectable error, of the line (KIND 5) or of the walk (KIND 6). -/
  | ecc (frame unit kind : Nat)

/-- The state of the line of the trap vector table that a fault needs. A fetch of it that failed finds no handler. -/
def vecLine (s : State) (v : View) (q : Req) : VecLine :=
  let va := v.g.vector q.cls
  if v.g.tvt = 0 ∨ q.kill ∨ v.g.level = 2 ∨ q.cls = clsHDL ∨ v.g.remFail.any (fun f => decide (f.kind = 5) && decide (f.vaddr = va)) then .there
  else match (capture s v.core v.g.asid.toNat va 8).2 with
    | .remote t => .away t ((s.remotesOf v.handle v.gi).any (fun r => r.2.fill.isSome && decide (r.2.va = va)))
    | .missing f table => .missing f table
    | .ecc f u k => .ecc f u k
    | _ => .there

/-- The line of the trap vector table is asked for from the host or a peer. -/
def askVector (s : State) (v : View) (q : Req) (t : Tr) : State :=
  let va := v.g.vector q.cls
  let r := v.remote s v.g.asid t
  s.sendRemote { r with va, w := 64, addr := r.addr - va.toNat % 64, fill := some v.core }

/-- The page of the trap vector table is counted as missing (R409, R426). -/
def missVector (s : State) (v : View) (q : Req) (f : Nat) (table : Bool) : State :=
  s.addMissing v.handle v.gi (.frame f)
    { v.mkRec clsMSP with vaddr := v.g.vector q.cls, kind := if table then 6 else 5, frame := f, tier := s.tierOf f }

/-- The group's kill for an uncorrectable error at the trap vector table (R420). -/
def eccVector (v : View) (q : Req) (f u k : Nat) : Req :=
  { cls := clsECC, lanes := v.mask, vaddr := v.g.vector q.cls, kind := k, frame := f, unit := u, ukind := 7, kill := true, iaddr := q.iaddr }

/-! ### The end of a word -/

/-- The fault of a failed host or peer access (R422). -/
def RemoteFailure.req (f : RemoteFailure) (rpc : W64) : Req :=
  { cls := f.cls, lanes := f.lanes, vaddr := f.vaddr, kind := f.kind, wid := f.wid, frame := f.frame, tier := f.tier, iaddr := some f.iaddr,
    rpc := some rpc }

/-- Deliver the first failed host or peer access of a group at a run end, with RPC the word after it (R422), once the line of the
trap vector table is there (R361, R426); a slot that has ended leaves only the record. -/
def deliverRemote (s0 : State) (v : View) (f : RemoteFailure) : State :=
  let s := s0.modBlock v.handle (fun b => commitBlock b v.gi)
  let s := s.modGroup v.handle v.gi (fun g => { g with remFail := g.remFail.drop 1 })
  match s.group? v.handle v.gi with
  | none => s
  | some g =>
    let x := g.slot v.d
    if x.live then
      let v := { v with g := g }
      let q := f.req (if x.wait = .none then x.pc else x.pc + 8)
      let later (s : State) : State := s.modGroup v.handle v.gi (fun g => { g with ending := true })
      match vecLine s v q with
      | .there => takeFault s v q
      | .ecc fr u k => takeFault s v (eccVector v q fr u k)
      | .away t asked => later (if asked then s0 else askVector s0 v q t)
      | .missing fr table => later (missVector s0 v q fr table)
    else
      let r : Rec :=
        { v.mkRec f.cls with iaddr := f.iaddr, vaddr := f.vaddr, kind := f.kind, wid := f.wid, lanes := f.lanes, frame := f.frame, tier := f.tier }
      settle settleFuel (s.record r (g.ownerTo v.b.part?)).1 v.handle v.gi

/-- The end of a run whose results are all there: a failed host or peer access is delivered, or the results are written
and the slots settled (R57, R422). -/
def closeRun (s : State) (v : View) : State :=
  match s.group? v.handle v.gi with
  | none => s
  | some g =>
    match g.remFail with
    | f :: _ => deliverRemote s v f
    | [] => commitRun s v.handle v.gi

/-- End a run whose last word has issued: the count restarts; the results are written now, or when the memory system's
answers arrive (R57, R66). -/
def endRun (s : State) (v : View) : State :=
  let s := s.modGroup v.handle v.gi (fun g => g.setSlot v.d { g.slot v.d with cnt := 0 })
  match s.group? v.handle v.gi with
  | none => s
  | some g =>
    if g.longRun then schedRunEnd (s.modGroup v.handle v.gi (fun g => { g with ending := true })) v.core v.handle v.gi true
    else schedRunEnd (closeRun s v) v.core v.handle v.gi false

/-- A word has been performed: the PC moves past it, and the run ends when S = 1 or the slot arrives at its
reconvergence address (R55, R61). -/
def finish (v : View) (ends : Bool) (s : State) : State :=
  let s := s.modGroup v.handle v.gi (fun g =>
    let g := g.advance v.d (v.pc + 8)
    g.setSlot v.d (arriveSlot g.top (g.slot v.d)))
  match s.group? v.handle v.gi with
  | none => s
  | some g => if ends || (g.slot v.d).arr then endRun s v else s

/-- A control-flow word has set the slots itself: mark an arrival and end the run (R61, R227). -/
def finishJump (v : View) (s : State) : State :=
  endRun (s.modGroup v.handle v.gi (fun g =>
    { g with slot0 := arriveSlot g.top g.slot0, slot1 := arriveSlot g.top g.slot1 })) v

/-! ### Issuing a word -/

/-- What a word does at issue. -/
inductive Res where
  /-- Performed; the slot continues at the next word. -/
  | ok (s : State)
  /-- Performed; the word has set the slots itself and ends its run. -/
  | jump (s : State)
  /-- Performed; its run ends and the slot waits at the word. -/
  | park (w : Wait) (s : State)
  /-- Not performed; the slot waits and the word issues again. -/
  | hold (c : Cond) (s : State)
  /-- The group stops inside its run for a missing page (R131, R410, R411, R426). -/
  | stop (s : State)
  /-- A check fails. -/
  | raise (q : Req) (s : State)

/-- The rights of an instruction for an authority: operator 0, owner, auditor (R40); `asid`.AUTH numbers them 1, 0, 2. -/
inductive Rights where
  /-- Every authority. -/
  | all
  /-- Operator and owner. -/
  | notAud
  /-- Owner. -/
  | owner
  /-- Operator. -/
  | oper
  deriving DecidableEq, Repr

/-- Whether an authority holds a right (R31, R40). -/
def Rights.allow (r : Rights) (auth : Nat) : Bool :=
  match r with
  | .all => true
  | .notAud => decide (auth ≤ 1)
  | .owner => decide (auth = 0)
  | .oper => decide (auth = 1)

/-- REGS as the issuing group sees it. -/
def View.regs (v : View) : Nat := v.b.regsN
/-- ACCS as the issuing group sees it: 0 inside an operator-gate call (R238). -/
def View.accs (v : View) : Nat := if v.g.inOperGate then 0 else v.b.accs
/-- SCRATCH as the issuing group sees it: 0 inside an operator-gate call (R238). -/
def View.scratchN (v : View) : Nat := if v.g.inOperGate then 0 else v.b.scratchN
/-- A format register's value at run start (R79). -/
def View.fm (v : View) (k : Nat) : W32 := SMap.get (fun _ => 0) v.g.rs.fm k

/-- Replace the issuing group's results so far. -/
def View.put (v : View) (s : State) (r : Regs) : State := s.modGroup v.handle v.gi (fun g => { g with live := r })

/-- Results of the group's earlier words are still to come from the host or a peer (R57, R364). -/
def State.lateOut (s : State) (h gi : Nat) : Bool :=
  s.remotes.any (fun x => decide (x.2.handle = h ∧ x.2.gi = gi) && x.2.dst.isSome)

/-- The issuing slot waits at its word, which will issue again. -/
def holdAt (s : State) (v : View) (c : Cond) : State :=
  schedRunEnd (s.modGroup v.handle v.gi (fun g => g.setSlot v.d { g.slot v.d with wait := .retry c })) v.core v.handle v.gi true

/-- A fault of the issuing word in state `s` is taken in `s'`, once the results of the run's earlier words have come and the line of
the trap vector table is there: else the word is not performed, and issues again (R361, R364, R426). -/
def faultAt (s s' : State) (v : View) (q : Req) : State :=
  if s.lateOut v.handle v.gi then holdAt s v .remote
  else match vecLine s v q with
    | .there => takeFault s' v q
    | .away t asked => holdAt (if asked then s else askVector s v q t) v .remote
    | .missing f table => (missVector s v q f table).modGroup v.handle v.gi (fun g => { g with stopped := true })
    | .ecc f u k => takeFault s v (eccVector v q f u k)

/-- The issue of a word: the checks of R371 in order, then its effect, then the end of the word (R55–R57). `ends` is the word's
S bit, `rgt` a further condition of step 3. A held access that failed at placement is delivered before the first word (R412). A
fault waits for the results of the run's earlier words (R364). -/
def issue (i : Instr) (ends : Bool) (r : Rights) (rgt : View → Bool) (body : State → View → Res) (s : State) : Out :=
  match issuing s with
  | none => .fault .noIssuingGroup
  | some v0 =>
    let s := startRun s v0
    match viewOf s v0.handle v0.gi with
    | none => .fault .noIssuingGroup
    | some v =>
      let hold (c : Cond) (s : State) : Out := .next (holdAt s v c)
      let fault (q : Req) (s' : State) : Out := .next (faultAt s s' v q)
      match v.g.pend.find? (fun f => decide (v.g.level ≤ f.level)) with
      | some f =>
        fault (f.req v.pc) (s.modGroup v.handle v.gi (fun g => { g with pend := g.pend.filter (fun x => decide (x ≠ f)) }))
      | none =>
        if 31 ≤ v.sl.cnt ∧ !ends then fault { cls := clsRUN, lanes := v.mask } s
        else if !encOk v.regs v.accs i then fault { cls := clsENC, lanes := v.mask } s
        else if !(r.allow v.g.auth.toNat && rgt v) then fault { cls := clsRGT, lanes := v.mask } s
        else
          match body s v with
          | .ok s => .next (finish v ends s)
          | .jump s => .next (finishJump v s)
          | .park w s =>
            .next (endRun ((s.modGroup v.handle v.gi (fun g => g.setSlot v.d { g.slot v.d with wait := w })).modBlock v.handle
              Block.checkBar) v)
          | .hold c s => hold c s
          | .stop s => .next (s.modGroup v.handle v.gi (fun g => { g with stopped := true }))
          | .raise q s => fault q s

/-- No further condition of step 3. -/
def noRight (_ : View) : Bool := true

/-- A word whose effect is only a change of the issuing group's register files (R189, R207): no check beyond step 3. -/
def alu (i : Instr) (h : Head) (f : View → Nat → Regs → Regs) (s : State) : Out :=
  issue i h.s .all noRight (fun s v => .ok (v.put s (v.forUnits h (f v)))) s

/-- A word that raises TAG for the executions whose sources fail their tag check, and otherwise only changes register
files (R208, R371, R377). -/
def aluTagged (i : Instr) (h : Head) (ok : View → Nat → Bool) (f : View → Nat → Regs → Regs) (s : State) : Out :=
  issue i h.s .all noRight (fun s v =>
    let bad := (v.units h).filter (fun l => !ok v l)
    if bad.isEmpty then .ok (v.put s (v.forUnits h (f v)))
    else .raise { cls := clsTAG, lanes := v.failMask h bad } s) s

end Sys2Proof.Machine
end

