-- ==== Sys2Proof/Machine/Access.lean ====
section
/-! DEFINITION. What an access of a group meets beyond its core: missing pages (R131, R409), ordering points (R411, R422),
host and peer pages (R126–R128, R322, R422), and the capture of a control block by a word (R426). -/

namespace Sys2Proof.Machine

/-! ### Program order (R134–R149) -/

/-- What an access means to the order of its group's accesses: where it lies, as far as that is known (0 device memory, 1 the host,
2 a peer, 3 what no other access meets), its bytes, whether it reads and writes, whether later accesses wait for it, and whether it
touches an SO page. -/
structure Seen where
  spot : Option (Nat × Nat)
  n : Nat
  reads : Bool
  writes : Bool
  acq : Bool
  so : Bool

/-- Two ranges of bytes meet. -/
def overlap (a n b m : Nat) : Bool := decide (a < b + m) && decide (b < a + n)

/-- Two accesses may meet in a location: by their places, or because the place of one is not known. -/
def Seen.meets (a b : Seen) : Bool :=
  match a.spot, b.spot with
  | some x, some y => decide (x.1 = y.1) && overlap x.2 a.n y.2 b.n
  | _, _ => true

/-- A later access of a group waits until an earlier one is performed: behind an acquire (R139), at one location (R146), a write
behind what still has no value (R149), a store to an SO page behind everything, and a load behind a store to an SO page (R135, R148).
DEDUCED for UO pages, where the last need not hold: the hardware may delay them too (log 59). -/
def Seen.before (a b : Seen) : Bool :=
  a.acq || (b.so && b.writes) || (a.so && a.writes && b.reads) || (a.reads && b.writes) || a.meets b

/-- A held access, to its group's order. -/
def Held.seen (a : Held) : Seen :=
  { spot := a.spot, n := a.w, reads := decide (a.kind ≠ .store), writes := decide (a.kind ≠ .load), acq := a.acq, so := a.so }

/-- An outstanding host or peer access, to its group's order. -/
def Remote.seen (r : Remote) : Seen :=
  { spot := some (if r.host then 1 else 2, r.addr), n := r.w, reads := decide (r.kind ≠ .store), writes := decide (r.kind ≠ .load)
    acq := r.acq, so := false }

/-- A later access waits for an outstanding host or peer access of its group; the lines of control blocks are no accesses. -/
def State.remoteBefore (s : State) (h gi : Nat) (b : Seen) : Bool :=
  (s.remotesOf h gi).any (fun r => r.2.fill.isNone && r.2.seen.before b)

/-! ### Ordering points and captures -/

/-- The first failed host or peer access of the issuing group is raised at the word, which is not performed (R422). -/
def raiseRemote (s : State) (v : View) (f : RemoteFailure) : Res :=
  .raise (f.req v.pc) (s.modGroup v.handle v.gi (fun g => { g with remFail := g.remFail.filter (fun x => decide (x ≠ f)) }))

/-- A word that is an ordering point (R411, R422): with held accesses the group stops before it; a failed host or peer
access without a value to return is raised (DEDUCED: one that a run end waits for is delivered there; log 59); outstanding ones are waited
for. -/
def orderPoint (s : State) (v : View) (k : State → Res) : Res :=
  if !v.g.held.isEmpty then .stop s
  else match v.g.remFail.find? (fun f => !f.ret) with
    | some f => raiseRemote s v f
    | none => if (s.remotesOf v.handle v.gi).isEmpty then k s else .hold .remote s

/-- A scratchpad or control-block access, to its group's order: it meets no access of memory. -/
def innerSeen (kind : AccKind) : Seen :=
  { spot := some (3, 0), n := 0, reads := decide (kind ≠ .store), writes := decide (kind ≠ .load), acq := false, so := false }

/-- A word that can be neither held nor sent waits its turn in the group's order (R134, R139, R149): the group stops before it while
a held access comes first (DEDUCED, log 59), and it waits for an outstanding one. -/
def inTurnOf (s : State) (v : View) (b : Seen) (k : State → Res) : Res :=
  if v.g.held.any (fun a => a.seen.before b) then .stop s
  else if s.remoteBefore v.handle v.gi b then .hold .remote s
  else k s

/-- The word goes on with `n` bytes of a control block captured at `va` in an ASID, or as R426 states; a check of R403
that fails, or a fetch of its line from the host or a peer, ends it as `onFail` says. -/
def capturedIn (s : State) (v : View) (asid : BitVec 11) (va : W64) (n : Nat) (onFail : State → Nat → Nat → Nat → Res)
    (k : State → List Byte → Res) : Res :=
  match capture s v.core asid.toNat va n with
  | (s, .ok bs) => k s bs
  | (s, .fail c f t) => onFail s c f t
  | (s, .ecc f u kd) => .raise { cls := clsECC, lanes := v.mask, vaddr := va, kind := kd, frame := f, unit := u, ukind := 7, kill := true } s
  | (s, .missing f table) =>
    .stop (s.addMissing v.handle v.gi (.frame f)
      { v.mkRec clsMSP with vaddr := va, kind := if table then 6 else 5, frame := f, tier := s.tierOf f })
  | (s, .remote t) =>
    match v.g.remFail.find? (fun f => decide (f.iaddr = v.pc) && decide (f.kind = 5)) with
    | some f => onFail (s.modGroup v.handle v.gi (fun g => { g with remFail := g.remFail.filter (fun x => decide (x ≠ f)) })) f.cls f.frame f.tier
    | none =>
      let r := v.remote s asid t
      .hold .remote (s.sendRemote { r with va, w := 64, addr := r.addr - va.toNat % 64, fill := some v.core })

/-- The word goes on with `n` bytes of a control block of its own ASID. -/
def captured (s : State) (v : View) (va : W64) (n : Nat) (k : State → List Byte → Res) : Res :=
  capturedIn s v v.g.asid va n
    (fun s c f t => .raise { cls := c, lanes := v.mask, vaddr := va, kind := 5, frame := f, tier := t } s) k

/-- A push of the divergence area that failed, at a word (R386, R387). -/
def divRes (s : State) (v : View) (e : DivFail) : Res :=
  if e.cls = clsDIV then .raise { cls := clsDIV, lanes := v.mask } s
  else if e.cls = clsMSP then
    .stop (s.addMissing v.handle v.gi (.frame e.frame)
      { v.mkRec clsMSP with vaddr := e.va, kind := e.kind 2, frame := e.frame, tier := e.tier })
  else if e.cls = clsECC then
    .raise { cls := clsECC, lanes := v.mask, vaddr := e.va, kind := e.kind 2, frame := e.frame, unit := e.unit, ukind := 7, kill := true } s
  else
    .raise { cls := e.cls, lanes := v.mask, vaddr := e.va, kind := 2, frame := e.frame, tier := e.tier } s

end Sys2Proof.Machine
end

