-- ==== Sys2Proof/Machine/Fp.lean ====
section
/-! DEFINITION. Number formats and correctly rounded arithmetic on exact values (R93–R95, R103–R104, R107). A finite
value is a sign, a magnitude `m` and an exponent: `± m * 2 ^ e`. -/

namespace Sys2Proof.Machine

/-- A value of any format. -/
inductive FV where
  /-- NaN; signalling and quiet alike (R94). -/
  | nan
  /-- ±∞. -/
  | inf (neg : Bool)
  /-- `± m * 2 ^ e`; a zero keeps its sign. -/
  | fin (neg : Bool) (m : Nat) (e : Int)
  deriving DecidableEq, Repr

/-- An IEEE 754 binary format: exponent width, fraction width and bias (R93, R103). -/
structure Fmt where
  ew : Nat
  fw : Nat
  bias : Int
  deriving DecidableEq, Repr

/-- F32 (R93). -/
def F32 : Fmt := { ew := 8, fw := 23, bias := 127 }
/-- F16 (R93). -/
def F16 : Fmt := { ew := 5, fw := 10, bias := 15 }
/-- BF16 (R93). -/
def BF16 : Fmt := { ew := 8, fw := 7, bias := 127 }
/-- F48 (R103). -/
def F48 : Fmt := { ew := 10, fw := 37, bias := 511 }

/-- Bits of a value of the format. -/
def Fmt.width (f : Fmt) : Nat := 1 + f.ew + f.fw
/-- The greatest exponent of a finite value. -/
def Fmt.emax (f : Fmt) : Int := 2 ^ (f.ew - 1) - 1 + (2 ^ (f.ew - 1) - 1 - f.bias)
/-- The least exponent of a normal value. -/
def Fmt.emin (f : Fmt) : Int := 1 - f.bias
/-- The bits of ±∞. -/
def Fmt.infBits (f : Fmt) (neg : Bool) : Nat := b2n neg * 2 ^ (f.ew + f.fw) + (2 ^ f.ew - 1) * 2 ^ f.fw
/-- The canonical NaN (R93, R103): positive, quiet, payload 0. -/
def Fmt.nanBits (f : Fmt) : Nat := (2 ^ f.ew - 1) * 2 ^ f.fw + 2 ^ (f.fw - 1)
/-- The bits of the largest finite value. -/
def Fmt.maxBits (f : Fmt) (neg : Bool) : Nat := f.infBits neg - 1

/-- The value of a format's bits (R93, R103). -/
def Fmt.decode (f : Fmt) (x : Nat) : FV :=
  let neg := decide (x / 2 ^ (f.ew + f.fw) % 2 = 1)
  let e := x / 2 ^ f.fw % 2 ^ f.ew
  let m := x % 2 ^ f.fw
  if e = 2 ^ f.ew - 1 then (if m = 0 then .inf neg else .nan)
  else if e = 0 then .fin neg m (f.emin - f.fw)
  else .fin neg (2 ^ f.fw + m) (e - f.bias - f.fw)

/-- Whether a magnitude between two grid points goes up (R95, R107): the lower point's integer `n`, and the remainder
`rem` of `2 ^ d`. Modes: 0 rn, 1 rz, 2 rd, 3 ru, 4 rs with its random word. -/
def roundUp (mode : Nat) (neg : Bool) (n rem d rb : Nat) : Bool :=
  match mode with
  | 0 => decide (2 * rem > 2 ^ d) || (decide (2 * rem = 2 ^ d) && decide (n % 2 = 1))
  | 1 => false
  | 2 => neg && decide (rem ≠ 0)
  | 3 => !neg && decide (rem ≠ 0)
  | _ => decide (rem * 2 ^ 32 / 2 ^ d > rb) && decide (rem ≠ 0)

/-- Round `m * 2 ^ e` to a multiple of `2 ^ q`: the integer multiple. -/
def roundTo (mode : Nat) (neg : Bool) (m : Nat) (e q : Int) (rb : Nat) : Nat :=
  if q ≤ e then m * 2 ^ (e - q).toNat
  else
    let d := (q - e).toNat
    let n := m / 2 ^ d
    n + b2n (roundUp mode neg n (m % 2 ^ d) d rb)

/-- The result of an overflow (R94, R107). -/
def overflowBits (f : Fmt) (mode : Nat) (neg : Bool) : Nat :=
  if mode = 1 ∨ (mode = 2 ∧ neg = false) ∨ (mode = 3 ∧ neg = true) then f.maxBits neg else f.infBits neg

/-- Round a value into a format, once (R94, R104, R107). -/
def Fmt.round (f : Fmt) (mode : Nat) (x : FV) (rb : Nat) : Nat :=
  match x with
  | .nan => f.nanBits
  | .inf neg => f.infBits neg
  | .fin neg m e =>
    let sgn := b2n neg * 2 ^ (f.ew + f.fw)
    if m = 0 then sgn
    else
      let q : Int := max (bitLen m + e - 1) f.emin - f.fw
      let n := roundTo mode neg m e q rb
      if q + bitLen n - 1 > f.emax then overflowBits f mode neg
      else if n < 2 ^ f.fw then sgn + n
      else sgn + (q + f.fw + f.bias).toNat * 2 ^ f.fw + (n - 2 ^ f.fw)

/-- The signed integer of a finite value at an exponent not above its own. -/
def alignAt (neg : Bool) (m : Nat) (e exp : Int) : Int :=
  let x : Int := m * 2 ^ (e - exp).toNat
  if neg then -x else x

/-- Exact sum, with the sign of an exact zero as IEEE 754 directs for the mode (R94). -/
def FV.add (mode : Nat) (a b : FV) : FV :=
  match a, b with
  | .nan, _ => .nan
  | _, .nan => .nan
  | .inf s, .inf t => if s = t then .inf s else .nan
  | .inf s, _ => .inf s
  | _, .inf t => .inf t
  | .fin s m e, .fin t n k =>
    let exp := min e k
    let x := alignAt s m e exp + alignAt t n k exp
    if x = 0 then .fin (if s = t then s else decide (mode = 2)) 0 exp
    else .fin (decide (x < 0)) x.natAbs exp

/-- Exact product (R94). -/
def FV.mul (a b : FV) : FV :=
  match a, b with
  | .nan, _ => .nan
  | _, .nan => .nan
  | .inf s, .inf t => .inf (s != t)
  | .inf s, .fin t n _ => if n = 0 then .nan else .inf (s != t)
  | .fin s m _, .inf t => if m = 0 then .nan else .inf (s != t)
  | .fin s m e, .fin t n k => .fin (s != t) (m * n) (e + k)

/-- The value with its sign changed. -/
def FV.neg : FV → FV
  | .nan => .nan
  | .inf s => .inf !s
  | .fin s m e => .fin (!s) m e

/-- The value times `2 ^ k`. -/
def FV.scale (k : Int) : FV → FV
  | .fin s m e => .fin s m (e + k)
  | x => x

/-- Exact comparison of two values that are not NaN: -1, 0 or 1; −0 and +0 are equal. -/
def FV.cmp (a b : FV) : Int :=
  match a, b with
  | .nan, _ => 0
  | _, .nan => 0
  | .inf s, .inf t => if s = t then 0 else if s then -1 else 1
  | .inf s, _ => if s then -1 else 1
  | _, .inf t => if t then 1 else -1
  | .fin s m e, .fin t n k =>
    let exp := min e k
    let x := alignAt s m e exp - alignAt t n k exp
    if x < 0 then -1 else if x = 0 then 0 else 1

/-- The sign of a value. -/
def FV.isNeg : FV → Bool
  | .nan => false
  | .inf s => s
  | .fin s _ _ => s

/-- The value is NaN. -/
def FV.isNan : FV → Bool
  | .nan => true
  | _ => false

/-- The value is ±0. -/
def FV.isZero : FV → Bool
  | .fin _ m _ => decide (m = 0)
  | _ => false

/-- Round a finite magnitude to an integer (R214, R219). -/
def roundInteger (mode : Nat) (neg : Bool) (m : Nat) (e : Int) : Nat := roundTo mode neg m e 0 0

/-- The integral value a mode selects (R214). -/
def FV.integral (mode : Nat) : FV → FV
  | .fin s m e => .fin s (roundInteger mode s m e) 0
  | x => x

/-- Convert to an integer of a range, saturating; NaN gives 0 (R219). -/
def FV.toRange (mode : Nat) (lo hi : Int) : FV → Int
  | .nan => 0
  | .inf s => if s then lo else hi
  | .fin s m e =>
    let n : Int := roundInteger mode s m e
    max lo (min hi (if s then -n else n))

/-- An integer as a value. -/
def FV.ofInt (x : Int) : FV := .fin (decide (x < 0)) x.natAbs 0

/-- The integer square root: the greatest `r` with `r * r ≤ n`, found bit by bit from `2 ^ k`. -/
def isqrtFrom (n : Nat) : Nat → Nat → Nat
  | 0, r => if (r + 1) * (r + 1) ≤ n then r + 1 else r
  | k + 1, r =>
    let t := r + 2 ^ (k + 1)
    isqrtFrom n k (if t * t ≤ n then t else r)

/-- The integer square root. -/
def isqrt (n : Nat) : Nat := isqrtFrom n (bitLen n / 2 + 1) 0

/-- √ of a value, exact enough to be rounded once into any format here: a trailing bit marks an inexact root (R94, R217). -/
def FV.sqrt : FV → FV
  | .nan => .nan
  | .inf s => if s then .nan else .inf false
  | .fin s m e =>
    if m = 0 then .fin s 0 e
    else if s then .nan
    else
      let odd : Nat := if e % 2 = 0 then 0 else 1
      let big := m * 2 ^ (400 + odd)
      let r := isqrt big
      .fin false (2 * r + b2n (decide (r * r ≠ big))) ((e - 400 - odd) / 2 - 1)

/-- The random word of the stochastic-rounding generator (R107). -/
def rngWord (seed ctr : W64) (lane elem : Nat) : Nat :=
  let z := seed + ctr * 0x9E3779B97F4A7C15#64 + BitVec.ofNat 64 (8 * lane + elem) * 0xD1B54A32D192ED03#64
  let z := (z ^^^ (z >>> 30)) * 0xBF58476D1CE4E5B9#64
  let z := (z ^^^ (z >>> 27)) * 0x94D049BB133111EB#64
  let z := z ^^^ (z >>> 31)
  fldN z 32 32

/-- The place of an F32 value in ascending order, +0 and −0 sharing one place (R110). -/
def ordF32 (x : Nat) : Int := if 2 ^ 31 ≤ x then -((x - 2 ^ 31 : Nat) : Int) else x

end Sys2Proof.Machine
end

