-- ==== Sys2Proof/Machine/Integer.lean ====
section
/-! DEFINITION. Moves, arithmetic, logic, shifts, bit fields, comparisons, predicates and addresses (R189–R201). -/

namespace Sys2Proof.Machine

/-- A register result of 32 or 64 bits computed from up to three sources of an F3 word, tagged I32 (R189–R191): the
sources are those of the given widths, zero-extended to 64 bits. -/
def intOp (i : Instr) (h : Head) (o : F3) (wd wa wb wc : Bool) (f : W64 → W64 → W64 → W64) (s : State) : Out :=
  alu i h (fun v l => putN h.u wd o.dst.toNat l tagI32
    (f (v.srcN h wa (bit o.mod 13) o.sa l) (v.srcN h wb (bit o.mod 14) o.sb l) (v.srcN h wc (bit o.mod 15) o.sc l))) s

/-- A 32-bit register result computed from SA and IMM32 of an FI word, tagged I32. -/
def immOp (i : Instr) (h : Head) (o : FI) (f : W32 → W32 → W32) (s : State) : Out :=
  alu i h (fun v l => putReg h.u o.dst.toNat l tagI32 (f (v.src h false o.sa l) o.imm)) s

/-- W64 of a word (R192). -/
def wide (o : F3) : Bool := bit o.mod 0

/-- A sum or difference, saturated as SAT and UNS say, of `n` bits (R194). -/
def satArith (w sat uns : Bool) (x : W64) (exact : Int) : W64 :=
  let n := if w then 64 else 32
  if !sat then x else if uns then BitVec.ofInt 64 (satU exact n) else BitVec.ofInt 64 (satS exact n)

/-- `iadd` on operands of 32 or 64 bits (R194). -/
def addVal (w sat uns : Bool) (a b : W64) : W64 := satArith w sat uns (a + b) (intOf w uns a + intOf w uns b)
/-- `isub` (R194). -/
def subVal (w sat uns : Bool) (a b : W64) : W64 := satArith w sat uns (a - b) (intOf w uns a - intOf w uns b)
/-- `imulhi` (R194). -/
def mulhiVal (uns : Bool) (a b : W64) : W64 := (BitVec.ofInt 64 (intOf false uns a * intOf false uns b)) >>> 32
/-- `imad` (R194). -/
def madVal (w uns : Bool) (a b c : W64) : W64 :=
  if w then BitVec.ofInt 64 (intOf false uns a * intOf false uns b) + c else a * b + c
/-- `imin` (R194). -/
def minVal (w uns : Bool) (a b : W64) : W64 := if intOf w uns a ≤ intOf w uns b then a else b
/-- `imax` (R194). -/
def maxVal (w uns : Bool) (a b : W64) : W64 := if intOf w uns b ≤ intOf w uns a then a else b
/-- `iabs` (R194). -/
def absVal (sat : Bool) (a : W32) : W32 :=
  if a = 0x80000000#32 then (if sat then 0x7FFFFFFF#32 else a) else if bit a 31 then -a else a
/-- `ineg` (R194). -/
def negVal (sat : Bool) (a : W32) : W32 := if sat && decide (a = 0x80000000#32) then 0x7FFFFFFF#32 else -a
/-- `shl` (R195). -/
def shlVal (a b : W32) : W32 := if 32 ≤ b.toNat then 0 else a <<< b.toNat
/-- `shr` (R195). -/
def shrVal (a b : W32) : W32 := if 32 ≤ b.toNat then 0 else a >>> b.toNat
/-- `sar` (R195). -/
def sarVal (a b : W32) : W32 := a.sshiftRight (min b.toNat 32)
/-- `rot` (R195). -/
def rotVal (a b : W32) : W32 := a.rotateLeft (b.toNat % 32)
/-- `popc` (R195). -/
def popcVal (a : W32) : W32 := BitVec.ofNat 32 ((laneNums.filter (fun k => bit a k)).length)
/-- `clz` (R195). -/
def clzVal (a : W32) : W32 := BitVec.ofNat 32 (32 - bitLen a.toNat)
/-- `brev` (R195). -/
def brevVal (a : W32) : W32 := maskOf (fun k => bit a (31 - k))
/-- The position of a field descriptor (R196). -/
def bfPos (f : W32) : Nat := min (fldN f 0 8) 32
/-- The length of a field descriptor (R196). -/
def bfLen (f : W32) : Nat := min (fldN f 8 8) (32 - bfPos f)
/-- `bfx` (R196). -/
def bfxVal (uns : Bool) (a f : W32) : W32 :=
  let l := bfLen f
  if l = 0 then 0
  else if uns then (a >>> bfPos f) &&& BitVec.ofNat 32 (2 ^ l - 1)
  else (((a >>> bfPos f) <<< (32 - l))).sshiftRight (32 - l)
/-- `bfi` (R196). -/
def bfiVal (a b f : W32) : W32 :=
  let m := BitVec.ofNat 32 ((2 ^ bfLen f - 1) <<< bfPos f)
  (a &&& ~~~ m) ||| ((b <<< bfPos f) &&& m)

/-- `nop` (R194). -/
def execNop (h : Head) (o : F3) (s : State) : Out := issue (.nop h o) h.s .all noRight (fun s _ => .ok s) s
/-- `mov` (R194). -/
def execMov (h : Head) (o : F3) (s : State) : Out :=
  intOp (.mov h o) h o (wide o) (wide o) false false (fun a _ _ => a) s
/-- `movi` (R194). -/
def execMovi (h : Head) (o : FI) (s : State) : Out :=
  alu (.movi h o) h (fun _ l => putReg h.u o.dst.toNat l tagI32 o.imm) s
/-- `iadd` (R194). -/
def execIadd (h : Head) (o : F3) (s : State) : Out :=
  intOp (.iadd h o) h o (wide o) (wide o) (wide o) false (fun a b _ => addVal (wide o) (bit o.mod 1) (bit o.mod 2) a b) s
/-- `iaddi` (R194). -/
def execIaddi (h : Head) (o : FI) (s : State) : Out := immOp (.iaddi h o) h o (· + ·) s
/-- `isub` (R194). -/
def execIsub (h : Head) (o : F3) (s : State) : Out :=
  intOp (.isub h o) h o (wide o) (wide o) (wide o) false (fun a b _ => subVal (wide o) (bit o.mod 1) (bit o.mod 2) a b) s
/-- `imul` (R194). -/
def execImul (h : Head) (o : F3) (s : State) : Out :=
  intOp (.imul h o) h o false false false false (fun a b _ => a * b) s
/-- `imulhi` (R194). -/
def execImulhi (h : Head) (o : F3) (s : State) : Out :=
  intOp (.imulhi h o) h o false false false false (fun a b _ => mulhiVal (bit o.mod 2) a b) s
/-- `imad` (R194). -/
def execImad (h : Head) (o : F3) (s : State) : Out :=
  intOp (.imad h o) h o (wide o) false false (wide o) (fun a b c => madVal (wide o) (bit o.mod 2) a b c) s
/-- `imin` (R194). -/
def execImin (h : Head) (o : F3) (s : State) : Out :=
  intOp (.imin h o) h o (wide o) (wide o) (wide o) false (fun a b _ => minVal (wide o) (bit o.mod 2) a b) s
/-- `imax` (R194). -/
def execImax (h : Head) (o : F3) (s : State) : Out :=
  intOp (.imax h o) h o (wide o) (wide o) (wide o) false (fun a b _ => maxVal (wide o) (bit o.mod 2) a b) s

/-- A 32-bit result of one or two 32-bit sources. -/
def op32 (i : Instr) (h : Head) (o : F3) (f : W32 → W32 → W32) (s : State) : Out :=
  intOp i h o false false false false (fun a b _ => (f (lo32 a) (lo32 b)).zeroExtend 64) s

/-- `iabs` (R194). -/
def execIabs (h : Head) (o : F3) (s : State) : Out := op32 (.iabs h o) h o (fun a _ => absVal (bit o.mod 1) a) s
/-- `ineg` (R194). -/
def execIneg (h : Head) (o : F3) (s : State) : Out := op32 (.ineg h o) h o (fun a _ => negVal (bit o.mod 1) a) s
/-- `and` (R195). -/
def execAnd (h : Head) (o : F3) (s : State) : Out := op32 (.and h o) h o (· &&& ·) s
/-- `or` (R195). -/
def execOr (h : Head) (o : F3) (s : State) : Out := op32 (.or h o) h o (· ||| ·) s
/-- `xor` (R195). -/
def execXor (h : Head) (o : F3) (s : State) : Out := op32 (.xor h o) h o (· ^^^ ·) s
/-- `not` (R195). -/
def execNot (h : Head) (o : F3) (s : State) : Out := op32 (.not h o) h o (fun a _ => ~~~ a) s
/-- `andi` (R195). -/
def execAndi (h : Head) (o : FI) (s : State) : Out := immOp (.andi h o) h o (· &&& ·) s
/-- `ori` (R195). -/
def execOri (h : Head) (o : FI) (s : State) : Out := immOp (.ori h o) h o (· ||| ·) s
/-- `xori` (R195). -/
def execXori (h : Head) (o : FI) (s : State) : Out := immOp (.xori h o) h o (· ^^^ ·) s
/-- `shl` (R195). -/
def execShl (h : Head) (o : F3) (s : State) : Out := op32 (.shl h o) h o shlVal s
/-- `shr` (R195). -/
def execShr (h : Head) (o : F3) (s : State) : Out := op32 (.shr h o) h o shrVal s
/-- `sar` (R195). -/
def execSar (h : Head) (o : F3) (s : State) : Out := op32 (.sar h o) h o sarVal s
/-- `shli` (R195). -/
def execShli (h : Head) (o : FI) (s : State) : Out := immOp (.shli h o) h o shlVal s
/-- `shri` (R195). -/
def execShri (h : Head) (o : FI) (s : State) : Out := immOp (.shri h o) h o shrVal s
/-- `sari` (R195). -/
def execSari (h : Head) (o : FI) (s : State) : Out := immOp (.sari h o) h o sarVal s
/-- `rot` (R195). -/
def execRot (h : Head) (o : F3) (s : State) : Out := op32 (.rot h o) h o rotVal s
/-- `bfx` (R196). -/
def execBfx (h : Head) (o : F3) (s : State) : Out := op32 (.bfx h o) h o (bfxVal (bit o.mod 2)) s
/-- `bfi` (R196). -/
def execBfi (h : Head) (o : F3) (s : State) : Out :=
  intOp (.bfi h o) h o false false false false (fun a b c => (bfiVal (lo32 a) (lo32 b) (lo32 c)).zeroExtend 64) s
/-- `popc` (R195). -/
def execPopc (h : Head) (o : F3) (s : State) : Out := op32 (.popc h o) h o (fun a _ => popcVal a) s
/-- `clz` (R195). -/
def execClz (h : Head) (o : F3) (s : State) : Out := op32 (.clz h o) h o (fun a _ => clzVal a) s
/-- `brev` (R195). -/
def execBrev (h : Head) (o : F3) (s : State) : Out := op32 (.brev h o) h o (fun a _ => brevVal a) s

/-- `sel` (R197). -/
def execSel (h : Head) (o : F3) (s : State) : Out :=
  alu (.sel h o) h (fun v l =>
    let c := v.prd h (fldN o.sc 0 3) l != bit o.sc 3
    putN h.u (wide o) o.dst.toNat l tagI32
      (if c then v.srcN h (wide o) (bit o.mod 13) o.sa l else v.srcN h (wide o) (bit o.mod 14) o.sb l)) s

/-- `icmp` (R198). -/
def execIcmp (h : Head) (o : F3) (s : State) : Out :=
  alu (.icmp h o) h (fun v l =>
    let rd (x : W64) : Int := intOf (wide o) (bit o.mod 2) x
    let t := condInt (sel o) (rd (v.srcN h (wide o) (bit o.mod 13) o.sa l)) (rd (v.srcN h (wide o) (bit o.mod 14) o.sb l))
    putPrd h.u o.dst.toNat l (combine (comb o) t (v.prd h (fldN o.sc 0 3) l != bit o.sc 3))) s

/-- `icmpi` (R199). -/
def execIcmpi (h : Head) (o : FI) (s : State) : Out :=
  alu (.icmpi h o) h (fun v l =>
    let rd (x : W32) : Int := if bit o.dst 3 then x.toNat else x.toInt
    putPrd h.u (fldN o.dst 0 3) l (condInt (fldN o.dst 4 3) (rd (v.src h false o.sa l)) (rd o.imm))) s

/-- `plog` (R200). -/
def execPlog (h : Head) (o : F3) (s : State) : Out :=
  alu (.plog h o) h (fun v l =>
    putPrd h.u o.dst.toNat l
      (plogOp (sel o) (v.prd h o.sa.toNat l != bit o.mod 3) (v.prd h o.sb.toNat l != bit o.mod 8))) s

/-- The index of an address (R201, R257): none, sign- or zero-extended. -/
def idxVal (v : View) (h : Head) (o : FM) (l : Nat) : W64 :=
  if o.idx = 0xFF#8 then 0
  else if bit o.xsc 0 then (v.src h false o.idx l).zeroExtend 64 else (v.src h false o.idx l).signExtend 64

/-- `lea` (R201). -/
def execLea (h : Head) (o : FM) (s : State) : Out :=
  alu (.lea h o) h (fun v l =>
    putPair h.u o.dst.toNat l tagI32
      (v.src64 h false o.base l + (idxVal v h o l <<< o.wid.toNat) + (o.off.signExtend 64 <<< o.wid.toNat))) s

end Sys2Proof.Machine
end

