-- ==== Sys2Proof/Machine/Memory.lean ====
section
/-! DEFINITION. Accesses to memory and the scratchpad: addresses, the judgement of the lanes, held accesses, atomics, and
the words of R256 (R257–R273, R403–R414). -/

namespace Sys2Proof.Machine

/-- The effective address of an FM access of `2 ^ WID` bytes (R257). -/
def effAddr (v : View) (h : Head) (o : FM) (l : Nat) : W64 :=
  let i := idxVal v h o l
  let i := if bit o.xsc 1 then i else i <<< o.wid.toNat
  v.src64 h false o.base l + i + (o.off.signExtend 64 <<< o.wid.toNat)

/-- An access word: what each lane does, its bytes and registers, and its ordering. -/
structure MemOp where
  kind : AccKind
  acc : Acc
  w : Nat
  wid : Nat
  data : Nat → List Byte
  dst : Option Nat
  tag : BitVec 4
  aop : Nat
  aty : Nat
  u : Bool
  rel : Bool
  acq : Bool

/-- The registers of a group of `n` registers, as bytes (R258). -/
def regBytes (v : View) (u : Bool) (reg n l : Nat) : List Byte :=
  (List.range n).flatMap (fun j =>
    toBytes (if u then v.g.base.uni (reg + j) else (v.g.base.vec (reg + j) l).bits).toNat 4)

/-- Loaded bytes as registers, a narrow value zero-extended (R258). -/
def bytesRegs (bs : List Byte) : List W32 :=
  (List.range (cdiv bs.length 4)).map (fun j => BitVec.ofNat 32 (ofBytes ((bs.drop (4 * j)).take 4)))

/-! ### Atomic operations -/

/-- The new value of a location (R265): AOP and ATY, the value there, the operand, and the second operand of `.cas`. -/
def atomNew (aop aty m d d2 : Nat) : Nat :=
  let n := if aty = 2 then 64 else 32
  let sgn (x : Nat) : Int := if aty = 0 then (BitVec.ofNat 32 x).toInt else x
  match aop with
  | 0 => if aty = 3 then F32.round 0 (FV.add 0 (F32.decode m) (F32.decode d)) 0 else (m + d) % 2 ^ n
  | 1 => if sgn m ≤ sgn d then m else d
  | 2 => if sgn d ≤ sgn m then m else d
  | 3 => m &&& d
  | 4 => m ||| d
  | 5 => m ^^^ d
  | 6 => d
  | 7 => if m = d then d2 else m
  | _ => if d ≤ m then 0 else m + 1

/-- The bytes an atomic leaves at a location that held some bytes. -/
def atomBytes (aop aty : Nat) (old data : List Byte) : List Byte :=
  let w := old.length
  toBytes (atomNew aop aty (ofBytes old) (ofBytes (data.take w)) (ofBytes ((data.drop w).take w))) w

/-- One access to physical memory: the state and the bytes read, or the unit of an uncorrectable error. -/
def memPerform (s : State) (pa : Nat) (kind : AccKind) (w : Nat) (data : List Byte) (aop aty : Nat) :
    Except Nat (State × List Byte) :=
  match kind with
  | .load => (s.physRead pa w).map (fun bs => (s, bs))
  | .store => (s.physWrite pa data).map (fun s => (s, []))
  | .atomic =>
    match s.physRead pa w with
    | .error u => .error u
    | .ok old => (s.physWrite pa (atomBytes aop aty old data)).map (fun s => (s, old))

/-- Take the next choice of the hardware among `n` (log 3). -/
def State.choose (s : State) (n : Nat) : State × Nat :=
  match s.choices with
  | [] => (s, 0)
  | c :: cs => ({ s with choices := cs }, c % n)

/-- The elements of a list in an order the hardware chooses (R266). -/
def State.shuffle {α : Type} (s : State) : Nat → List α → State × List α
  | 0, xs => (s, xs)
  | n + 1, xs =>
    if xs.isEmpty then (s, [])
    else
      let (s, k) := s.choose xs.length
      match xs[k]? with
      | none => (s, xs)
      | some x =>
        let (s, ys) := State.shuffle s n (xs.eraseIdx k)
        (s, x :: ys)

/-! ### The judgement of lanes (R403, R405) -/

/-- A judged lane: its number, address and translation. -/
abbrev Judged := Nat × W64 × Tr

/-- Judge the lanes of an access in ascending order (R403). -/
def judgeAll (s : State) (v : View) (k : Acc) (align : Nat) : List (Nat × W64) → State × List Judged
  | [] => (s, [])
  | (l, va) :: us =>
    let (s, t) := judge s (some v.core) v.g.asid.toNat k va align
    let (s, js) := judgeAll s v k align us
    (s, (l, va, t) :: js)

/-- Where in the order of R403 a lane fails, with its class; the missing page comes last and is no failure. -/
def failRank (va : W64) : Tr → Option (Nat × Nat)
  | .fail c _ _ =>
    if c = clsXLT then some (if fldN va 56 8 ≠ 0 then 1 else 5, c)
    else if c = clsALN then some (2, c) else if c = clsSPV then some (3, c)
    else if c = clsPRM then some (7, c) else some (8, c)
  | .ecc _ _ => some (4, clsECC)
  | .firstTouch => some (6, clsFTP)
  | _ => none

/-- The first class any lane meets and the lanes with it; for a first touch those of the lowest page (R405). -/
def firstFail (js : List Judged) : Option (Nat × List Judged) :=
  let fs := js.filterMap (fun j => (failRank j.2.1 j.2.2).map (fun r => (r, j)))
  match fs with
  | [] => none
  | f :: rest =>
    let r := rest.foldl (fun r x => if x.1.1 < r.1 then x.1 else r) f.1
    let bad := (fs.filter (fun x => decide (x.1.2 = r.2))).map (·.2)
    if r.2 = clsFTP then
      let page := bad.foldl (fun p j => min p (j.2.1.toNat / 65536)) (2 ^ 64)
      some (r.2, bad.filter (fun j => decide (j.2.1.toNat / 65536 = page)))
    else some (r.2, bad)

/-- The fault of a class at the lanes that meet it (R406). -/
def accessReq (v : View) (u : Bool) (cls kind wid : Nat) (bad : List Judged) : Req :=
  let lanes := if u then v.mask else maskOf (fun i => bad.any (fun j => decide (j.1 = i)))
  match bad with
  | [] => { cls, lanes, kind, wid }
  | (_, va, t) :: _ =>
    match t with
    | .fail _ f tier => { cls, lanes, vaddr := va, kind, wid, frame := f, tier }
    | .ecc f unit => { cls, lanes, vaddr := va, kind := 6, wid, frame := f, unit, ukind := 7, kill := true }
    | _ => { cls, lanes, vaddr := va, kind, wid }

/-- The page a judged lane misses (R131), and whether it is a table frame of its walk. -/
def missKey : Tr → Option (Nat × Bool)
  | .missing f t _ => some (f, t)
  | _ => none

/-- Where a judged access lies, as far as its walk reached. -/
def Tr.spot (va : W64) : Tr → Option (Nat × Nat)
  | .mem pa _ _ _ _ _ => some (0, pa)
  | .host ha _ _ _ => some (1, ha)
  | .peer _ ad _ _ _ => some (2, ad)
  | .missing f false _ => some (0, physAddr f (va.toNat % 65536))
  | _ => none

/-- A lane's page is a host page. -/
def Tr.isHost : Tr → Bool
  | .host _ _ _ _ => true
  | _ => false

/-- A lane's page is of kind SO, or its kind is not yet known (R135). -/
def Tr.isSo : Tr → Bool
  | .mem _ _ _ _ _ so => so
  | .host _ _ so _ => so
  | .peer _ _ _ so _ => so
  | .missing _ _ so => so
  | _ => false

/-- The pages of missing lanes, each with its lanes, in order of the lowest lane. -/
def missPages : List Judged → List (Nat × Bool × List (Nat × W64))
  | [] => []
  | (l, va, t) :: js =>
    let rest := missPages js
    match missKey t with
    | none => rest
    | some (f, tb) =>
      match rest.find? (fun p => decide (p.1 = f)) with
      | some p => (f, tb, (l, va) :: p.2.2) :: rest.filter (fun p => decide (p.1 ≠ f))
      | none => (f, tb, [(l, va)]) :: rest

/-- Count the pages that lanes of a word miss, one record a page (R131, R409). -/
def missAll (s : State) (v : View) (u : Bool) (kind wid : Nat) (js : List Judged) : State :=
  (missPages js).foldl (fun s p =>
    let lanes := if u then v.mask else maskOf (fun i => p.2.2.any (fun x => decide (x.1 = i)))
    s.addMissing v.handle v.gi (.frame p.1)
      { v.mkRec clsMSP with
        vaddr := ((p.2.2.head?).map (·.2)).getD 0, kind := if p.2.1 then 6 else kind, wid, lanes, frame := p.1,
        tier := s.tierOf p.1 }) s

/-! ### Performing a word -/

/-- A lane's number in the replay buffer: the uniform form has its own (R131). -/
def heldLane (u : Bool) (l : Nat) : Nat := if u then 32 else l

/-- The held access of a lane, issued as number `seq`. -/
def heldOf (v : View) (m : MemOp) (seq : Nat) (j : Judged) : Held :=
  { lane := heldLane m.u j.1, iaddr := v.pc, kind := m.kind, va := j.2.1, w := m.w, data := m.data j.1, dst := m.dst,
    uniform := m.u, tag := m.tag, aop := m.aop, aty := m.aty, asid := v.g.asid, auth := v.g.auth, mask := v.mask,
    page := (missKey j.2.2).map (fun x => .frame x.1), table := decide ((missKey j.2.2).map (·.2) = some true),
    acq := m.acq || (j.2.2.isSo && decide (m.kind ≠ .store)), so := j.2.2.isSo, spot := j.2.2.spot j.2.1, seq }

/-- A lane's access, to its group's order. -/
def seenOf (v : View) (m : MemOp) (j : Judged) : Seen := (heldOf v m 0 j).seen

/-- An access of a lane is held: its page is missing, or a held access comes before it (R131, R134). -/
def isHeld (v : View) (m : MemOp) (j : Judged) : Bool :=
  (missKey j.2.2).isSome || v.g.held.any (fun a => a.seen.before (seenOf v m j))

/-- An access of a group becomes a held one: its page is missing (R131, R462). -/
def Remote.hold (r : Remote) : Held :=
  { lane := heldLane r.uniform r.lane, iaddr := r.iaddr, kind := r.kind, va := r.va, w := r.w, data := r.data, dst := r.dst
    uniform := r.uniform, tag := r.tag, aop := r.aop, aty := r.aty, asid := r.asid, auth := r.auth, mask := r.mask
    page := some (.host r.pasid r.page), acq := r.acq && decide (r.kind ≠ .store), so := r.acq, spot := some (1, r.addr), frame := r.frame
    seq := r.seq }

/-- A held access takes its place in issue order (R131). -/
def insertHeld (hs : List Held) (a : Held) : List Held :=
  hs.takeWhile (fun x => decide (x.seq ≤ a.seq)) ++ a :: hs.dropWhile (fun x => decide (x.seq ≤ a.seq))

/-- A group with its accesses that await a translation held: what its lanes hold should the host withhold them all (R462). -/
def State.asHeld (s : State) (h gi : Nat) (g : Group) : Group :=
  { g with held := g.held ++ ((s.remotesOf h gi).filter (fun r => r.2.xlat && r.2.host && r.2.fill.isNone)).map (fun r => r.2.hold) }

/-- A lane may hold one more access (R410). -/
def heldRoom (g : Group) (a : Held) : Bool :=
  let mine := g.held.filter (fun x => decide (x.lane = a.lane))
  let size (x : Held) : Nat := if x.kind = .store then x.w else 0
  decide (mine.length < 8) && decide (mine.foldl (fun n x => n + size x) (size a) ≤ 32)

/-- Write the results of lanes into the register group of a word (R258). -/
def putLoads (m : MemOp) (r : Regs) (res : List (Nat × List Byte)) : Regs :=
  match m.dst with
  | none => r
  | some d => res.foldl (fun r x => putRegs m.u d x.1 m.tag (bytesRegs x.2) r) r

/-- Perform the lanes on present pages, in order: the results, and the lanes whose store met an uncorrectable error. -/
def performAll (m : MemOp) : State → List (Nat × Nat) → State × List (Nat × List Byte) × List (Nat × Nat × Nat)
  | s, [] => (s, [], [])
  | s, (l, pa) :: xs =>
    match memPerform s pa m.kind m.w (m.data l) m.aop m.aty with
    | .error u =>
      let (s, rs, es) := performAll m s xs
      (s, rs, (l, pa, u) :: es)
    | .ok (s, bs) =>
      let (s, rs, es) := performAll m s xs
      (s, (l, bs) :: rs, es)

/-- The lanes on present pages of device memory, with their physical addresses. -/
def presentOf (js : List Judged) : List (Nat × Nat) :=
  js.filterMap (fun j => match j.2.2 with | .mem pa _ _ _ _ _ => some (j.1, pa) | _ => none)

/-- A line of memory is written whole by the lanes of a store together: each line goes to its home once, with every lane's bytes
(R119). -/
def wholeLine (w : Nat) (xs : List (Nat × Nat)) (l : Nat) : Bool :=
  (List.range 128).all (fun i => xs.any (fun x => decide (x.2 ≤ 128 * l + i) && decide (128 * l + i < x.2 + w)))

/-- The lines that a store writes whole are replaced, and an error they held is gone (R420). -/
def healLines (s : State) (w : Nat) (xs : List (Nat × Nat)) : State :=
  let lines := ((s.badLines ++ s.l2Bad).filter (fun l => wholeLine w xs l && (s.eccUnit (128 * l) 128 true).isNone)).eraseDups
  lines.foldl State.healLine s

/-- The word reaches memory in its present lanes, leaves through the host or fabric ports in others, and holds the rest
(R131, R420, R422). DESIGN CHOICE: a word that the lanes' room takes beyond R410 only if the host withholds pages that outstanding accesses
of the group await waits for those (R462; log 59). -/
def perform (s : State) (v : View) (m : MemOp) (js : List Judged) : Res :=
  let hold := js.filter (isHeld v m)
  let go := js.filter (fun j => !isHeld v m j)
  let lane (ls : List Nat) : W32 := if m.u then v.mask else maskOf (fun i => ls.contains i)
  let seq := s.fresh
  let all := s.asHeld v.handle v.gi v.g
  if hold.any (fun j => !heldRoom v.g (heldOf v m seq j)) then .stop s
  else if hold.any (fun j => !heldRoom all (heldOf v m seq j)) || go.any (fun j => j.2.2.isHost && !heldRoom all (heldOf v m seq j)) then
    .hold .remote s
  else
    let present := presentOf go
    let broken := if m.kind = .store then [] else present.filterMap (fun x => (s.eccUnit x.2 m.w false).map (fun u => (x.1, x.2, u)))
    match broken with
    | (l, pa, u) :: _ =>
      .raise { cls := clsECC, lanes := lane (broken.map (·.1)),
               vaddr := ((js.find? (fun j => decide (j.1 = l))).map (·.2.1)).getD 0, kind := kindOf m.kind, wid := m.wid,
               frame := pa / 65536, unit := u, ukind := 7, kill := true } s
    | [] =>
      let s := missAll s v m.u (kindOf m.kind) m.wid hold
      let s := s.modGroup v.handle v.gi (fun g => { g with held := g.held ++ hold.map (heldOf v m seq) })
      let (s, order) := if m.kind = .atomic then s.shuffle 32 present else (s, present)
      let s := if m.kind = .store then healLines s m.w present else s
      let (s, res, errs) := performAll m s order
      let s := match errs with
        | [] => s
        | (l, pa, u) :: _ =>
          (s.record { v.mkRec clsECC with
              lanes := lane (errs.map (·.1)), vaddr := ((js.find? (fun j => decide (j.1 = l))).map (·.2.1)).getD 0, kind := 2,
              wid := m.wid, frame := pa / 65536, unit := u, ukind := 7 } (v.g.ownerTo v.b.part?)).1
      let s := (go.filter (fun j => j.2.2.isRemote)).foldl (fun s j =>
        let r := v.remote s v.g.asid j.2.2
        s.sendRemote { r with
          lane := j.1, uniform := m.u, kind := m.kind, va := j.2.1, w := m.w, data := m.data j.1, aop := m.aop, aty := m.aty,
          dst := m.dst, tag := m.tag, wid := m.wid, acq := r.acq || m.acq, seq }) s
      let waiting := (hold ++ go.filter (fun j => j.2.2.isRemote)).map (·.1)
      let wait (r : Regs) : Regs := match m.dst with
        | some d => waiting.foldl (fun r l => r.await m.u d l (cdiv m.w 4) v.pc) r
        | none => r
      .ok (s.modGroup v.handle v.gi (fun g =>
        { g with live := wait (putLoads m g.live res), longRun := g.longRun || m.dst.isSome }))

/-- A store to an SO page is a release (R135): a failed host or peer access is raised at it, and outstanding ones are waited for
(R422). Held ones are no ordering point for it (R411): it is held behind them. -/
def soStore (s : State) (v : View) (k : State → Res) : Res :=
  match v.g.remFail.find? (fun f => !f.ret) with
  | some f => raiseRemote s v f
  | none => if (s.remotesOf v.handle v.gi).isEmpty then k s else .hold .remote s

/-- An access word over its executing lanes and their addresses (R261, R265, R405), in its place in the group's order (R134–R149). -/
def access (s : State) (v : View) (m : MemOp) (us : List (Nat × W64)) : Res :=
  let go (s : State) : Res :=
    let (s, js) := judgeAll s v m.acc m.w us
    match firstFail js with
    | some (cls, bad) => .raise (accessReq v m.u cls m.acc.kind m.wid bad) s
    | none =>
      let send (s : State) : Res :=
        if js.any (fun j => s.remoteBefore v.handle v.gi (seenOf v m j)) then .hold .remote s else perform s v m js
      if decide (m.kind ≠ .load) && js.any (fun j => j.2.2.isSo) then soStore s v send else send s
  if m.rel then orderPoint s v go else go s

/-- The executing lanes of a word with their effective addresses. -/
def addresses (v : View) (h : Head) (o : FM) (us : List Nat) : List (Nat × W64) := us.map (fun l => (l, effAddr v h o l))

/-- An atomic's fields as an address: it takes no index register, AOP and ATY standing in IDX (R179). -/
def unindexed (o : FM) : FM := { o with idx := 0xFF#8 }

/-- ORD of an FM word names a release. -/
def ordRel (o : FM) : Bool := bit o.ord 1
/-- ORD of an FM word names an acquire. -/
def ordAcq (o : FM) : Bool := bit o.ord 0

/-- A load of memory with a tag (R261). -/
def loadOp (h : Head) (o : FM) (tag : BitVec 4) : MemOp :=
  { kind := .load, acc := .load, w := 2 ^ o.wid.toNat, wid := o.wid.toNat, data := fun _ => [], dst := some o.dst.toNat, tag,
    aop := 0, aty := 0, u := h.u, rel := false, acq := ordAcq o }

/-- A store of memory (R261). -/
def storeOp (v : View) (h : Head) (o : FM) : MemOp :=
  let w := 2 ^ o.wid.toNat
  { kind := .store, acc := .store, w, wid := o.wid.toNat, data := fun l => (regBytes v h.u o.dst.toNat (cdiv w 4) l).take w,
    dst := none, tag := 0, aop := 0, aty := 0, u := h.u, rel := ordRel o, acq := false }

/-- An atomic or reduction (R265): a HOST page provides only integer add, exchange and compare-and-swap. -/
def atomicOp (v : View) (h : Head) (o : FM) (ret : Bool) : MemOp :=
  let w := 2 ^ o.wid.toNat
  let n := if aop o = 7 then 2 * (w / 4) else w / 4
  { kind := .atomic, acc := .atomic (decide (aty o ≠ 3) && (decide (aop o = 0) || decide (aop o = 6) || decide (aop o = 7))),
    w, wid := o.wid.toNat, data := fun l => regBytes v h.u o.dst.toNat n l, dst := if ret then some o.dst.toNat else none,
    tag := if aty o = 3 then tagF32 else tagI32, aop := aop o, aty := aty o, u := h.u, rel := ordRel o, acq := ordAcq o }

/-- The executing lanes of a long instruction that are still to be performed (R382, R383): those at or above INDEX, but for an `fput`
that has waited those at or above the lane it has come to, and where forced sealing stops it only those below that lane. The uniform
form is not long. -/
def longUnits (v : View) (h : Head) : List Nat :=
  if h.u then v.units h
  else (v.units h).filter (fun l => decide (v.g.prog.toNat ≤ l) && decide (v.sl.upto ≤ l) && decide (l < v.g.stopAt))

/-- The end of a long instruction: INDEX is cleared once every lane is performed; where forced sealing stops it, INDEX is the lane it
has come to and the word issues again first (R382, R383). -/
def longDone (v : View) (h : Head) (r : Res) : Res :=
  let clear (s : State) : State := s.modGroup v.handle v.gi (fun g => g.setSlot v.d { g.slot v.d with upto := 0 })
  if h.u then r
  else match r with
    | .ok s =>
      if (v.units h).any (fun l => decide (v.g.stopAt ≤ l)) then
        .stop (s.modGroup v.handle v.gi (fun g => { g with prog := BitVec.ofNat 16 v.g.stopAt }))
      else .ok ((clear s).modGroup v.handle v.gi (fun g => { g with prog := 0 }))
    | .raise q s => .raise q (clear s)
    | r => r

/-- The f32 operands of an atomic carry their tag (R265, R377). -/
def atomTags (v : View) (h : Head) (o : FM) (us : List Nat) : List Nat :=
  if aty o = 3 then us.filter (fun l => !v.tagOk h false o.dst.toNat tagF32 l) else []

/-- `ld` (R261). -/
def execLd (h : Head) (o : FM) (s : State) : Out :=
  issue (.ld h o) h.s .notAud noRight (fun s v => access s v (loadOp h o tagI32) (addresses v h o (v.units h))) s
/-- The typed loads (R182, R261). -/
def execLdTyped (h : Head) (tag : BitVec 4) (o : FM) (s : State) : Out :=
  issue (.ldTyped h tag o) h.s .notAud noRight (fun s v => access s v (loadOp h o tag) (addresses v h o (v.units h))) s
/-- `st` (R261). -/
def execSt (h : Head) (o : FM) (s : State) : Out :=
  issue (.st h o) h.s .all noRight (fun s v => access s v (storeOp v h o) (addresses v h o (v.units h))) s
/-- `atom` (R265). -/
def execAtom (h : Head) (o : FM) (s : State) : Out :=
  issue (.atom h o) h.s .notAud noRight (fun s v =>
    let us := longUnits v h
    let bad := atomTags v h o us
    if !bad.isEmpty then .raise { cls := clsTAG, lanes := v.failMask h bad } s
    else longDone v h (access s v (atomicOp v h o true) (addresses v h (unindexed o) us))) s
/-- `red` (R265). -/
def execRed (h : Head) (o : FM) (s : State) : Out :=
  issue (.red h o) h.s .notAud noRight (fun s v =>
    let us := longUnits v h
    let bad := atomTags v h o us
    if !bad.isEmpty then .raise { cls := clsTAG, lanes := v.failMask h bad } s
    else longDone v h (access s v (atomicOp v h o false) (addresses v h (unindexed o) us))) s

/-! ### The scratchpad (R262, R414) -/

/-- How a scratchpad access of a lane fares: a failure, nothing done, or the block offset it reaches. -/
inductive SpLane where
  | fail (rank cls : Nat)
  | idle
  | at_ (off : Nat)

/-- The checks of a scratchpad access (R403, R414). -/
def spJudge (v : View) (w : Nat) (va : W64) : SpLane :=
  let a := va.toNat
  if fldN va 56 8 ≠ 0 then .fail 1 clsXLT
  else if a % w ≠ 0 ∧ bit v.g.spfmask 1 then .fail 2 clsALN
  else
    let a := a - a % w
    if 256 * v.scratchN < a + w then (if bit v.g.spfmask 0 then .fail 3 clsSPV else .idle) else .at_ a

/-- A block's scratchpad bytes. -/
def Block.spBytes (b : Block) (off n : Nat) : List Byte := (List.range n).map (fun i => SMap.get (fun _ => 0) b.scratch (off + i))
/-- Write a block's scratchpad bytes. -/
def Block.spPut (b : Block) (off : Nat) (bs : List Byte) : Block :=
  { b with scratch := (List.range bs.length).foldl (fun m i => SMap.set (fun _ => 0) m (off + i) (bs.getD i 0)) b.scratch }

/-- One lane's scratchpad access: the block and the bytes read. -/
def spPerform (b : Block) (off : Nat) (m : MemOp) (l : Nat) : Block × List Byte :=
  let old := b.spBytes off m.w
  match m.kind with
  | .load => (b, old)
  | .store => (b.spPut off (m.data l), [])
  | .atomic => (b.spPut off (atomBytes m.aop m.aty old (m.data l)), old)

/-- The scratchpad line of an offset holds an uncorrectable error (R420). -/
def State.spBroken (s : State) (core : Nat) (b : Block) (off : Nat) : Bool := (s.core core).spBad.contains ((b.spOff + off) / 128)

/-- The scratchpad lines that a store writes whole are replaced, and an error they held is gone (R420). -/
def healScratch (s : State) (core : Nat) (b : Block) (w : Nat) (xs : List (Nat × Nat)) : State :=
  let c := s.core core
  s.setCore core { c with spBad := c.spBad.filter (fun l => !wholeLine w (xs.map (fun x => (x.1, b.spOff + x.2))) l) }

/-- Perform lanes of a scratchpad word in order. -/
def spPerformAll (m : MemOp) : Block → List (Nat × Nat) → Block × List (Nat × List Byte)
  | b, [] => (b, [])
  | b, (l, off) :: xs =>
    let (b, bs) := spPerform b off m l
    let (b, rs) := spPerformAll m b xs
    (b, (l, bs) :: rs)

/-- A scratchpad word over its executing lanes and their offsets (R262, R265, R414, R420). -/
def spAccess (s : State) (v : View) (m : MemOp) (us : List (Nat × W64)) : Res :=
  let go (s : State) : Res :=
    let js := us.map (fun u => (u.1, u.2, spJudge v m.w u.2))
    let lane (ls : List Nat) : W32 := if m.u then v.mask else maskOf (fun i => ls.contains i)
    let rank (x : SpLane) : Nat := match x with | .fail r _ => r | _ => 9
    let r := js.foldl (fun r j => min r (rank j.2.2)) 9
    let bad := js.filter (fun j => decide (rank j.2.2 = r) && decide (r < 9))
    match bad with
    | (_, va, x) :: _ =>
      let cls := match x with | .fail _ c => c | _ => 0
      .raise { cls, lanes := lane (bad.map (·.1)), vaddr := va, kind := kindOf m.kind, wid := m.wid, sp := true } s
    | [] =>
      let at_ := js.filterMap (fun j => match j.2.2 with | .at_ o => some (j.1, o) | _ => none)
      let s := if m.kind = .store then healScratch s v.core v.b m.w at_ else s
      let idle := js.filterMap (fun j => match j.2.2 with | .idle => some (j.1, List.replicate m.w (0 : Byte)) | _ => none)
      let broken := at_.filter (fun x => s.spBroken v.core v.b x.2)
      let req (k : Nat) : Rec :=
        { v.mkRec clsECC with
          lanes := lane (broken.map (·.1)), vaddr := BitVec.ofNat 64 ((broken.head?.map (·.2)).getD 0), kind := k, wid := m.wid,
          sp := true, unit := 0x100 + v.core, ukind := 7 }
      if !broken.isEmpty && decide (m.kind ≠ .store) then
        .raise { cls := clsECC, lanes := (req 0).lanes, vaddr := (req 0).vaddr, kind := kindOf m.kind, wid := m.wid, sp := true,
                 unit := 0x100 + v.core, ukind := 7, kill := true } s
      else
        let s := if broken.isEmpty then s else (s.record (req 2) (v.g.ownerTo v.b.part?)).1
        let good := at_.filter (fun x => !s.spBroken v.core v.b x.2)
        let (s, order) := if m.kind = .atomic then s.shuffle 32 good else (s, good)
        let res := (spPerformAll m ((AMap.get? s.blocks v.handle).getD v.b) order).2
        let s := s.modBlock v.handle (fun b => (spPerformAll m b order).1)
        .ok (s.modGroup v.handle v.gi (fun g => { g with live := putLoads m g.live (res ++ idle) }))
  if m.rel then orderPoint s v go
  else if us.isEmpty then go s
  else inTurnOf s v (innerSeen m.kind) go

/-- `lds` (R262). -/
def execLds (h : Head) (o : FM) (s : State) : Out :=
  issue (.lds h o) h.s .notAud noRight (fun s v => spAccess s v (loadOp h o tagI32) (addresses v h o (v.units h))) s
/-- The typed scratchpad loads (R182, R262). -/
def execLdsTyped (h : Head) (tag : BitVec 4) (o : FM) (s : State) : Out :=
  issue (.ldsTyped h tag o) h.s .notAud noRight (fun s v => spAccess s v (loadOp h o tag) (addresses v h o (v.units h))) s
/-- `sts` (R262). -/
def execSts (h : Head) (o : FM) (s : State) : Out :=
  issue (.sts h o) h.s .notAud noRight (fun s v => spAccess s v (storeOp v h o) (addresses v h o (v.units h))) s
/-- `atoms` (R265). -/
def execAtoms (h : Head) (o : FM) (s : State) : Out :=
  issue (.atoms h o) h.s .notAud noRight (fun s v =>
    let bad := atomTags v h o (v.units h)
    if !bad.isEmpty then .raise { cls := clsTAG, lanes := v.failMask h bad } s
    else spAccess s v (atomicOp v h o true) (addresses v h (unindexed o) (v.units h))) s

/-! ### Control blocks, fences and prefetch -/

/-- What the lanes of `ldc` come to: those whose line is not there or fails a check, the bytes of the others, those whose line holds an
uncorrectable error with its frame and unit, and whether a line was filled. -/
structure LdcLanes where
  off : List (Nat × W64 × Tr) := []
  got : List (Nat × List Byte) := []
  broken : List (Nat × W64 × Nat × Nat) := []
  filled : Bool := false

/-- Judge the lanes of `ldc` and read their lines (R263, R426). -/
def ldcLanes (s : State) (v : View) (w : Nat) : List (Nat × W64) → State × LdcLanes
  | [] => (s, {})
  | (l, va) :: us =>
    let miss := !(s.core v.core).cbc.any (fun x => decide (x.asid = v.g.asid.toNat ∧ x.line = va.toNat / 64))
    let off (t : Tr) (x : LdcLanes) : LdcLanes := { x with off := (l, va, t) :: x.off }
    let (s, add) : State × (LdcLanes → LdcLanes) :=
      if fldN va 56 8 ≠ 0 then (s, off (.fail clsXLT noFrame noTier))
      else if va.toNat % w ≠ 0 then (s, off (.fail clsALN noFrame noTier))
      else match capture s v.core v.g.asid.toNat va w with
        | (s, .ok bs) => (s, fun x => { x with got := (l, bs) :: x.got })
        | (s, .fail c f t) => (s, off (if c = clsFTP then .firstTouch else .fail c f t))
        | (s, .missing f t) => (s, off (.missing f t true))
        | (s, .ecc f u k) => (s, if k = 6 then off (.ecc f u) else fun x => { x with broken := (l, va, f, u) :: x.broken })
        | (s, .remote t) => (s, off t)
    let (s, x) := ldcLanes s v w us
    let x := add x
    (s, { x with filled := x.filled || miss })

/-- `ldc` (R263, R426). -/
def execLdc (h : Head) (o : FM) (s : State) : Out :=
  issue (.ldc h o) h.s .notAud noRight (fun s v => inTurnOf s v (innerSeen .load) (fun s =>
    let w := 2 ^ o.wid.toNat
    let (s, x) := ldcLanes s v w (addresses v h o (v.units h))
    let js := x.off
    match firstFail js, x.broken with
    | some (cls, bad), _ => .raise (accessReq v h.u cls 5 o.wid.toNat bad) s
    | none, (_, va, f, u) :: _ =>
      .raise { cls := clsECC, lanes := v.failMask h (x.broken.map (·.1)), vaddr := va, kind := 5, wid := o.wid.toNat, frame := f, unit := u
               ukind := 7, kill := true } s
    | none, [] =>
      if js.any (fun j => (missKey j.2.2).isSome) then .stop (missAll s v h.u 5 o.wid.toNat js)
      else match js.find? (fun j => j.2.2.isRemote) with
        | some j =>
          capturedIn s v v.g.asid j.2.1 w (fun s c f t => .raise { cls := c, lanes := v.mask, vaddr := j.2.1, kind := 5, frame := f, tier := t } s)
            (fun s _ => .ok s)
        | none =>
          .ok (s.modGroup v.handle v.gi (fun g =>
            { g with live := putLoads (loadOp h o tagI32) g.live x.got, longRun := g.longRun || x.filled })))) s

/-- `fence` (R267): every earlier access of the group is performed; with acqrel the run's wait is long. -/
def execFence (h : Head) (o : FM) (s : State) : Out :=
  issue (.fence h o) h.s .notAud noRight (fun s v =>
    if !v.go h then .ok s
    else orderPoint s v (fun s =>
      .ok (if ordRel o && ordAcq o then s.modGroup v.handle v.gi (fun g => { g with longRun := true }) else s))) s

/-- `cbinv` (R268): the issuing core's lines and fetched words of the named addresses are gone, and those on their way to it are not kept (R155). -/
def execCbinv (h : Head) (o : FM) (s : State) : Out :=
  issue (.cbinv h o) h.s .notAud noRight (fun s v =>
    let lines := (addresses v h o (v.units h)).map (fun x => x.2.toNat / 64)
    let c := s.core v.core
    let named (asid line : Nat) : Bool := decide (asid = v.g.asid.toNat) && lines.contains line
    let word (r : Remote) : Bool := match r.hw with | some (.fetch n) => s.readsWords v.core n | _ => false
    let drop (r : Remote) : Remote :=
      if (decide (r.fill = some v.core) || word r) && named r.asid.toNat (r.va.toNat / 64) then { r with stale := true } else r
    let s := { s with
      remotes := s.remotes.map (fun (x : Nat × Remote) => (x.1, drop x.2))
      fetched := s.fetched.filter (fun (x : Nat × Nat × List Byte) =>
        !(s.readsWords v.core x.1 && lines.any (fun l => decide (2 ^ 58 * v.g.asid.toNat + l = x.2.1)))) }
    .ok (s.setCore v.core { c with
      cbc := c.cbc.filter (fun l => !named l.asid l.line), words := c.words.filter (fun x => !named x.1 x.2) })) s

/-- `prf` (R269): a translation as a load would make; what fails is dropped. -/
def execPrf (h : Head) (o : FM) (s : State) : Out :=
  issue (.prf h o) h.s .notAud noRight (fun s v => .ok (judgeAll s v .load 1 (addresses v h o (v.units h))).1) s

/-! ### The tag table (R270, R414) -/

/-- The tag table works for the issuing group (R87, R238), as of the start of its run (R249). -/
def View.ttOn (v : View) : Bool := v.g.rs.tten && !v.g.inOperGate

/-- A tag-table word with the table disabled (R414). -/
def ttGuard (v : View) (h : Head) (s : State) (off : State → Res) (k : Unit → Res) : Res :=
  if (v.units h).isEmpty then .ok s
  else if v.ttOn then k ()
  else if bit v.g.spfmask 2 then .raise { cls := clsSPV, lanes := v.failMask h (v.units h), sp := true } s
  else off s

/-- `tlook` (R270): the lowest slot whose entry names the line, as of run start. -/
def execTlook (h : Head) (o : FM) (s : State) : Out :=
  issue (.tlook h o) h.s .notAud noRight (fun s v =>
    let put (f : Nat → W32) : State := v.put s (v.forUnits h (fun l => putReg h.u o.dst.toNat l tagI32 (f l)))
    ttGuard v h s (fun _ => .ok (put (fun _ => 0xFFFFFFFF#32))) (fun _ =>
      .ok (put (fun l =>
        match v.g.rs.tags.find? (fun e => decide (e.2 = (effAddr v h o l).extractLsb' 8 48)) with
        | some e => BitVec.ofNat 32 e.1
        | none => 0xFFFFFFFF#32)))) s

/-- The lanes of `tset` or `tclr` whose slot lies outside the allocation raise SPV, or do nothing (R414). -/
def slotGuard (v : View) (h : Head) (s : State) (slot : Nat → Nat) (k : List Nat → Res) : Res :=
  let bad := (v.units h).filter (fun l => decide (v.scratchN ≤ slot l))
  match bad with
  | [] => k (v.units h)
  | b :: _ =>
    if bit v.g.spfmask 0 then
      .raise { cls := clsSPV, lanes := v.failMask h bad, vaddr := BitVec.ofNat 64 (256 * slot b), sp := true } s
    else k ((v.units h).filter (fun l => !bad.contains l))

/-- `tset` (R270). -/
def execTset (h : Head) (o : FM) (s : State) : Out :=
  issue (.tset h o) h.s .notAud noRight (fun s v =>
    ttGuard v h s .ok (fun _ =>
      let slot (l : Nat) : Nat := (v.src h false o.dst l).toNat
      slotGuard v h s slot (fun us =>
        .ok (s.modBlock v.handle (fun b =>
          { b with tags := us.foldl (fun m l => AMap.put m (slot l) ((effAddr v h o l).extractLsb' 8 48)) b.tags }))))) s

/-- `tclr` (R270). -/
def execTclr (h : Head) (o : F3) (s : State) : Out :=
  issue (.tclr h o) h.s .notAud noRight (fun s v =>
    ttGuard v h s .ok (fun _ =>
      if bit o.mod 0 then .ok (s.modBlock v.handle (fun b => { b with tags := [] }))
      else
        let slot (l : Nat) : Nat := (v.src h (bit o.mod 13) o.sa l).toNat
        slotGuard v h s slot (fun us =>
          .ok (s.modBlock v.handle (fun b => { b with tags := us.foldl (fun m l => AMap.del m (slot l)) b.tags }))))) s

/-! ### Frames and TLBs (R271–R273) -/

/-- The partition whose pool a group's frame words act on. -/
def View.part (v : View) : Nat := (asidPart v.g.asid.toNat).getD 0

/-- A pool, the frame last pushed first (R271). -/
def State.pool (s : State) (p : Nat) : List Nat := AMap.getD s.pools p []
/-- Replace a pool. -/
def State.setPool (s : State) (p : Nat) (l : List Nat) : State := { s with pools := AMap.put s.pools p l }

/-- Pop the top of a pool: the frame's entry keeps KIND and PART, POOL becomes 0 (R271). -/
def State.pop (s : State) (p : Nat) : State × W32 :=
  match s.pool p with
  | [] => (s, 0xFFFFFFFF#32)
  | f :: fs => ((s.setPool p fs).setFt f (setFld (s.ftEntry f) 19 1 0), BitVec.ofNat 32 f)

/-- Pop a frame for each lane in turn. -/
def popAll (s : State) (p : Nat) : List Nat → State × List (Nat × W32)
  | [] => (s, [])
  | l :: ls =>
    let (s, f) := s.pop p
    let (s, rs) := popAll s p ls
    (s, (l, f) :: rs)

/-- `fget` (R271). -/
def execFget (h : Head) (o : F3) (s : State) : Out :=
  issue (.fget h o) h.s .owner noRight (fun s v =>
    let (s, rs) := popAll s v.part (longUnits v h)
    longDone v h (.ok (s.modGroup v.handle v.gi (fun g =>
      { g with live := rs.foldl (fun r x => putReg h.u o.dst.toNat x.1 tagI32 x.2 r) g.live, longRun := true })))) s

/-- Remove TLB entries of every core (R273). -/
def State.tlbDrop (s : State) (t : TlbEnt → Bool) : State :=
  { s with cores := s.cores.map (fun c => (c.1, { c.2 with tlb := c.2.tlb.filter (fun e => !t e) })) }

/-- A TLB entry maps a frame. -/
def TlbEnt.maps (e : TlbEnt) (f : Nat) : Bool :=
  !e.host && !e.peer && decide (e.frame ≤ f) && decide (f < e.frame + if e.lg then 1024 else 1)

/-- The frame that an inbound access names, as its walk stands now. -/
def State.inboundFrame (s : State) (x : Inbound) : Option Nat :=
  (s.leafOf (16 * x.part + x.dom) x.va).bind (fun e =>
    if e.host || e.peer then none else some (e.frame + (if e.lg then x.va.toNat % 2 ^ 26 / 65536 else 0)))

/-- A frame is pinned while an outstanding engine operation or an inbound access of a peer names it (R124, R424): the frames an
operation reaches are those its captured block and its walks name. -/
def State.pinned (s : State) (f : Nat) : Bool :=
  s.ops.any (fun o => o.2.frames.contains f) ||
  s.inbound.any (fun x => decide (x.2 = some (.frame f)) || decide (s.inboundFrame x.1 = some f))

/-- Give a frame a scrub frontier at its first line (R415). -/
def State.startScrub (s : State) (f : Nat) : State := { s with frontiers := AMap.put s.frontiers f {} }

/-- A frontier is free, or the frame already has one (R416). -/
def State.frontierFor (s : State) (f : Nat) : Bool := decide (s.frontiers.length < 4096) || (AMap.get? s.frontiers f).isSome

/-- Return a frame to a partition's pool (R272). -/
def State.fput (s : State) (p f : Nat) : State :=
  let s := s.tlbDrop (fun e => e.maps f)
  let s := s.setFt f (setFld (setFld (s.ftEntry f) 8 1 0) 19 1 1)
  (s.setPool p (f :: s.pool p)).startScrub f

/-- A frame is a popped frame of a partition (R272, R376). -/
def State.popped (s : State) (p f : Nat) : Bool :=
  let e := s.ftEntry f
  decide (f < Config.frames) && decide (ftKind e = 1) && decide (ftPart e = p) && !ftPool e

/-- Return the frames of lanes in turn; a frame that is pinned, marked copy-on-write, or for which no frontier is free, is
waited for, and the word goes on from its lane (R272, R342, R416). -/
def fputAll (v : View) (h : Head) (fr : Nat → Nat) : State → List Nat → Res
  | s, [] => .ok (s.modGroup v.handle v.gi (fun g => { g with longRun := true }))
  | s, l :: ls =>
    if !s.popped v.part (fr l) then fputAll v h fr s ls
    else if s.pinned (fr l) || s.cow.contains (fr l) || !s.frontierFor (fr l) then
      .hold (.frame (fr l)) (if h.u then s else s.modGroup v.handle v.gi (fun g => g.setSlot v.d { g.slot v.d with upto := l }))
    else fputAll v h fr (s.fput v.part (fr l)) ls

/-- `fput` (R272). DESIGN CHOICE: while it waits at a lane, the frames of later lanes may cease to be popped ones; the word, issued again,
raises PRM at such a lane, and the lanes below stay performed (log 19). -/
def execFput (h : Head) (o : F3) (s : State) : Out :=
  issue (.fput h o) h.s .owner noRight (fun s v =>
    let us := longUnits v h
    let fr (l : Nat) : Nat := (v.src h (bit o.mod 13) o.sa l).toNat
    let bad := us.filter (fun l => !s.popped v.part (fr l))
    match bad with
    | b :: _ => .raise { cls := clsPRM, lanes := v.failMask h bad, frame := fr b } s
    | [] =>
      longDone v h (fputAll v h fr s us)) s

/-- The ASIDs `tinv` may name (R273). -/
def tinvAllowed (auth : Nat) (part : Option Nat) (a : Nat) : Bool :=
  if auth = 1 then decide (0x400 ≤ a ∧ a ≤ 0x440) else (asidPart a).isSome && decide (asidPart a = part)

/-- An outstanding host or peer access used a translation of an address in an ASID, or of the whole ASID (R273). -/
def State.inUse (s : State) (a : Nat) (va : W64) (all : Bool) : Bool :=
  s.remotes.any (fun x => decide (x.2.asid.toNat = a) && (all || decide (x.2.va.toNat / 2 ^ 26 = va.toNat / 2 ^ 26)))

/-- `tinv` (R273): entries go in every core once no access that used them is outstanding. It is a release of the group's earlier
stores (R117). -/
def execTinv (h : Head) (o : F3) (s : State) : Out :=
  issue (.tinv h o) h.s .notAud noRight (fun s v =>
    let us := longUnits v h
    let all := bit o.mod 0
    let asid (l : Nat) : Nat := fldN (v.src h (bit o.mod 14) o.sb l) 0 11
    let va (l : Nat) : W64 := v.src64 h (bit o.mod 13) o.sa l
    let bad := us.filter (fun l => !tinvAllowed v.g.auth.toNat (asidPart v.g.asid.toNat) (asid l))
    if !bad.isEmpty then .raise { cls := clsPRM, lanes := v.failMask h bad } s
    else orderPoint s v (fun s => match us.find? (fun l => s.inUse (asid l) (va l) all) with
      | some l => .hold (.unused (asid l) (va l) all) s
      | none =>
        let s := us.foldl (fun s l =>
          s.tlbDrop (fun e => if all then decide (e.asid = asid l) else e.hits (asid l) (va l).toNat)) s
        longDone v h (.ok (s.modGroup v.handle v.gi (fun g => { g with longRun := true }))))) s

end Sys2Proof.Machine
end

