-- ==== Sys2Proof/Machine/Narrow.lean ====
section
/-! DEFINITION. Narrow formats: format registers, their validity, decoding and conversion (R96–R102). -/

namespace Sys2Proof.Machine

/-- E, the exponent width of a format register value (R96). -/
def nfE (f : W32) : Nat := fldN f 0 3
/-- M, the mantissa width. -/
def nfM (f : W32) : Nat := fldN f 3 3
/-- SG, 1 when a sign bit is present. -/
def nfSG (f : W32) : Nat := fldN f 6 1
/-- BIAS. -/
def nfBias (f : W32) : Int := (fld f 8 8).toInt
/-- SPEC. -/
def nfSpec (f : W32) : Nat := fldN f 16 2
/-- SCM. -/
def nfScm (f : W32) : Nat := fldN f 18 2
/-- TSCALE. -/
def nfTscale (f : W32) : Int := (fld f 20 8).toInt
/-- The element width W. -/
def nfW (f : W32) : Nat := nfSG f + nfE f + nfM f

/-- A format register value is valid (R97). -/
def nfValid (f : W32) : Bool :=
  decide (2 ≤ nfW f) && decide (nfW f ≤ 8) && decide (nfSpec f ≠ 3) && decide (nfScm f ≠ 3) && !bit f 7 &&
  decide (fldN f 28 4 = 0) && (decide (nfE f ≠ 0) || decide (nfSpec f = 0)) &&
  (decide (nfSpec f ≠ 2) || (decide (2 ≤ nfE f) && decide (1 ≤ nfM f)))

/-- Elements a register holds (R102). -/
def nfCount (f : W32) : Nat := if nfW f ≤ 4 then 8 else 4
/-- Bits of the unit an element occupies (R102). -/
def nfUnit (f : W32) : Nat := if nfW f ≤ 4 then 4 else 8

/-- The exponent of the scale factor σ (R99): none where the block's code is 0xFF. -/
def nfSigma (f : W32) (x : Nat) : Option Int :=
  match nfScm f with
  | 0 => some 0
  | 1 => some (nfTscale f)
  | _ => if x = 0xFF then none else some ((x : Int) - 127 + nfTscale f)

/-- The value of a code, before scaling (R100). -/
def nfCode (f : W32) (c : Nat) : FV :=
  let w := nfW f
  let c := c % 2 ^ w
  if nfE f = 0 then
    let neg := decide (nfSG f = 1) && decide (2 ^ (w - 1) ≤ c)
    .fin neg (if neg then 2 ^ w - c else c) (-nfBias f)
  else
    let s := decide (nfSG f = 1) && decide (2 ^ (w - 1) ≤ c)
    let e := c / 2 ^ nfM f % 2 ^ nfE f
    let m := c % 2 ^ nfM f
    if nfSpec f = 1 ∧ e = 2 ^ nfE f - 1 ∧ m = 2 ^ nfM f - 1 then .nan
    else if nfSpec f = 2 ∧ e = 2 ^ nfE f - 1 then (if m = 0 then .inf s else .nan)
    else if e = 0 then .fin s m (1 - nfBias f - nfM f)
    else .fin s (2 ^ nfM f + m) (e - nfBias f - nfM f)

/-- The value of a code with the block's scale code (R99, R100). -/
def nfDecode (f : W32) (x c : Nat) : FV :=
  match nfSigma f x with
  | none => .nan
  | some k => (nfCode f c).scale k

/-- The largest finite number formed by the exponent and mantissa fields, read as one unsigned number (R98, R101); for
E = 0 the largest magnitude `q` of the sign. -/
def nfMaxField (f : W32) (neg : Bool) : Nat :=
  if nfE f = 0 then (if nfSG f = 1 ∧ neg = true then 2 ^ nfM f else 2 ^ nfM f - 1)
  else match nfSpec f with
    | 0 => 2 ^ (nfE f + nfM f) - 1
    | 1 => 2 ^ (nfE f + nfM f) - 2
    | _ => 2 ^ (nfE f + nfM f) - 2 ^ nfM f - 1

/-- The NaN code (R101, step 1). -/
def nfNan (f : W32) : Nat := if nfSpec f = 0 then 0 else 2 ^ (nfE f + nfM f) - 1

/-- The code of a sign and a field number, two's complement where E = 0 (R100, R101 step 7). -/
def nfMake (f : W32) (neg : Bool) (n : Nat) : Nat :=
  if nfE f = 0 then (if neg then (2 ^ nfW f - n) % 2 ^ nfW f else n)
  else b2n (neg && decide (nfSG f = 1)) * 2 ^ (nfE f + nfM f) + n

/-- The code a magnitude above the largest finite one of its sign gives (R98). -/
def nfOver (f : W32) (mode : Nat) (neg : Bool) : Nat :=
  if nfSpec f = 2 ∧ mode ≠ 1 then nfMake f neg (2 ^ (nfE f + nfM f) - 2 ^ nfM f) else nfMake f neg (nfMaxField f neg)

/-- Round a magnitude onto the grid (R101 step 5): its field number, which counts the grid points in order and may pass
the largest finite one. A tie goes to the even field number. -/
def nfRound (f : W32) (mode : Nat) (neg : Bool) (m : Nat) (e : Int) (rb : Nat) : Nat :=
  if m = 0 then 0
  else if nfE f = 0 then roundTo mode neg m e (-nfBias f) rb
  else
    let top : Int := (max (nfMaxField f neg / 2 ^ nfM f) 1 : Nat) - nfBias f - nfM f
    let q : Int := min (max ((bitLen m : Int) + e - 1 - nfM f) (1 - nfBias f - nfM f)) top
    let below := ((q + nfBias f + nfM f).toNat - 1) * 2 ^ nfM f
    if q ≤ e then below + m * 2 ^ (e - q).toNat
    else
      let d := (q - e).toNat
      let n := below + m / 2 ^ d
      n + b2n (roundUp mode neg n (m % 2 ^ d) d rb)

/-- Convert a value into a valid format with a block scale code: the code (R101). -/
def nfEncode (f : W32) (mode x : Nat) (v : FV) (rb : Nat) : Nat :=
  match v, nfSigma f x with
  | .nan, _ => nfNan f
  | _, none => nfNan f
  | .inf s, some _ => if nfSG f = 0 ∧ s = true then 0
      else if nfSpec f = 2 then nfMake f s (2 ^ (nfE f + nfM f) - 2 ^ nfM f) else nfMake f s (nfMaxField f s)
  | .fin s m e, some k =>
    if nfSG f = 0 ∧ s = true then 0
    else
      let n := nfRound f mode s m (e - k) rb
      if n > nfMaxField f s then nfOver f mode s else nfMake f s n

/-- EMAX of a format: ⌊log₂ MAXF⌋ with σ = 1 (R223). DESIGN CHOICE: −BIAS where MAXF is 0, which has no logarithm (SG 1, E 1, M 0, SPEC 1;
log 58). -/
def nfEmax (f : W32) : Int :=
  match nfCode f (nfMake f false (nfMaxField f false)) with
  | .fin _ m e => (bitLen m : Int) - 1 + e
  | _ => 0

/-- Pack codes into a register (R102). -/
def nfPack (f : W32) (codes : List Nat) : W32 :=
  BitVec.ofNat 32 (codes.foldr (fun c acc => c + 2 ^ nfUnit f * acc) 0)

/-- The code of element `i` of a register (R102). -/
def nfElem (f : W32) (r : Nat) (i : Nat) : Nat := r / 2 ^ (nfUnit f * i) % 2 ^ nfUnit f % 2 ^ nfW f

end Sys2Proof.Machine
end

