-- ==== Sys2Proof/Machine/Sha.lean ====
section
/-! DEFINITION. SHA-256 (FIPS 180-4), HMAC, and the keys derived with them (R43, R303, R343). -/

namespace Sys2Proof.Machine

/-- The round constants of SHA-256. -/
def shaK : List W32 :=
  [0x428a2f98#32, 0x71374491#32, 0xb5c0fbcf#32, 0xe9b5dba5#32, 0x3956c25b#32, 0x59f111f1#32, 0x923f82a4#32, 0xab1c5ed5#32,
   0xd807aa98#32, 0x12835b01#32, 0x243185be#32, 0x550c7dc3#32, 0x72be5d74#32, 0x80deb1fe#32, 0x9bdc06a7#32, 0xc19bf174#32] ++
  [0xe49b69c1#32, 0xefbe4786#32, 0x0fc19dc6#32, 0x240ca1cc#32, 0x2de92c6f#32, 0x4a7484aa#32, 0x5cb0a9dc#32, 0x76f988da#32,
   0x983e5152#32, 0xa831c66d#32, 0xb00327c8#32, 0xbf597fc7#32, 0xc6e00bf3#32, 0xd5a79147#32, 0x06ca6351#32, 0x14292967#32] ++
  [0x27b70a85#32, 0x2e1b2138#32, 0x4d2c6dfc#32, 0x53380d13#32, 0x650a7354#32, 0x766a0abb#32, 0x81c2c92e#32, 0x92722c85#32,
   0xa2bfe8a1#32, 0xa81a664b#32, 0xc24b8b70#32, 0xc76c51a3#32, 0xd192e819#32, 0xd6990624#32, 0xf40e3585#32, 0x106aa070#32] ++
  [0x19a4c116#32, 0x1e376c08#32, 0x2748774c#32, 0x34b0bcb5#32, 0x391c0cb3#32, 0x4ed8aa4a#32, 0x5b9cca4f#32, 0x682e6ff3#32,
   0x748f82ee#32, 0x78a5636f#32, 0x84c87814#32, 0x8cc70208#32, 0x90befffa#32, 0xa4506ceb#32, 0xbef9a3f7#32, 0xc67178f2#32]

/-- The initial hash value. -/
def shaInit : List W32 :=
  [0x6a09e667#32, 0xbb67ae85#32, 0x3c6ef372#32, 0xa54ff53a#32, 0x510e527f#32, 0x9b05688c#32, 0x1f83d9ab#32, 0x5be0cd19#32]

/-- Rotate right. -/
def rotr (x : W32) (n : Nat) : W32 := x.rotateRight n

/-- A big-endian number as `n` bytes. -/
def toBytesBE (x n : Nat) : List Byte := (toBytes x n).reverse

/-- The big-endian word of four bytes. -/
def wordBE (bs : List Byte) : W32 := BitVec.ofNat 32 (ofBytes (bs.take 4).reverse)

/-- Extend a reversed message schedule by `n` words. -/
def shaExtend : Nat → List W32 → List W32
  | 0, w => w
  | n + 1, w =>
    let a := w.getD 1 0
    let b := w.getD 6 0
    let c := w.getD 14 0
    let d := w.getD 15 0
    let s0 := rotr c 7 ^^^ rotr c 18 ^^^ (c >>> 3)
    let s1 := rotr a 17 ^^^ rotr a 19 ^^^ (a >>> 10)
    shaExtend n ((d + s0 + b + s1) :: w)

/-- One round on the eight working variables. -/
def shaRound (v : List W32) (kw : W32 × W32) : List W32 :=
  match v with
  | [a, b, c, d, e, f, g, h] =>
    let s1 := rotr e 6 ^^^ rotr e 11 ^^^ rotr e 25
    let ch := (e &&& f) ^^^ (~~~ e &&& g)
    let t1 := h + s1 + ch + kw.1 + kw.2
    let s0 := rotr a 2 ^^^ rotr a 13 ^^^ rotr a 22
    let mj := (a &&& b) ^^^ (a &&& c) ^^^ (b &&& c)
    [t1 + (s0 + mj), a, b, c, d + t1, e, f, g]
  | v => v

/-- The words of a 64-byte block. -/
def blockWords (bs : List Byte) : List W32 := (List.range 16).map (fun i => wordBE (bs.drop (4 * i)))

/-- Compress one 64-byte block into the hash value. -/
def shaBlock (h : List W32) (bs : List Byte) : List W32 :=
  let w := (shaExtend 48 (blockWords bs).reverse).reverse
  List.zipWith (· + ·) h ((shaK.zip w).foldl shaRound h)

/-- Compress consecutive 64-byte blocks. -/
def shaBlocks : Nat → List W32 → List Byte → List W32
  | 0, h, _ => h
  | n + 1, h, bs => shaBlocks n (shaBlock h (bs.take 64)) (bs.drop 64)

/-- The padded message. -/
def shaPad (m : List Byte) : List Byte :=
  m ++ [0x80#8] ++ List.replicate ((119 - m.length % 64) % 64) 0 ++ toBytesBE (8 * m.length) 8

/-- SHA-256 of a message. -/
def sha256 (m : List Byte) : List Byte :=
  let p := shaPad m
  (shaBlocks (p.length / 64) shaInit p).flatMap (fun w => toBytesBE w.toNat 4)

/-- HMAC-SHA-256, for a key of at most 64 bytes. -/
def hmac (key m : List Byte) : List Byte :=
  let k := key ++ List.replicate (64 - key.length) 0
  sha256 (k.map (· ^^^ 0x5c#8) ++ sha256 (k.map (· ^^^ 0x36#8) ++ m))

/-- A derived key of 256 bits (R43). -/
def deriveKey (ki label context : List Byte) : List Byte :=
  hmac ki (toBytesBE 1 4 ++ label ++ [0] ++ context ++ toBytesBE 256 4)

/-- The partition key of a partition and generation (R43). DESIGN CHOICE: the module's root key, whose length R43 does not give, has 32
bytes (log 6). -/
def partitionKey (p : Nat) (gen : W32) : List Byte :=
  deriveKey ((List.range 32).map Config.rootKey) [0x70#8, 0x61#8, 0x72#8, 0x74#8] (toBytesBE p 1 ++ toBytesBE gen.toNat 4)

/-- The husk key of a context and serial (R43). -/
def huskKey (pk : List Byte) (handle serial : Nat) : List Byte :=
  deriveKey pk [0x68#8, 0x75#8, 0x73#8, 0x6b#8] (toBytesBE handle 4 ++ toBytesBE serial 4)

/-- The gate spill key of a context and gate depth (R43). -/
def gateKey (pk : List Byte) (handle depth : Nat) : List Byte :=
  deriveKey pk [0x67#8, 0x61#8, 0x74#8, 0x65#8] (toBytesBE handle 4 ++ toBytesBE depth 1)

/-- The checkpoint husk key of a context, serial and cut (R43). -/
def ckptKey (pk : List Byte) (handle serial cut : Nat) : List Byte :=
  deriveKey pk [0x63#8, 0x6b#8, 0x70#8, 0x74#8] (toBytesBE handle 4 ++ toBytesBE serial 4 ++ toBytesBE cut 8)

/-- The scan key of a freeze (R316). -/
def scanKey (pk : List Byte) (gt : Nat) : List Byte :=
  deriveKey pk [0x73#8, 0x63#8, 0x61#8, 0x6e#8] (toBytesBE gt 8)

end Sys2Proof.Machine
end

