-- ==== Sys2Proof/Machine/Aes.lean ====
section
/-! DEFINITION. AES-256 (FIPS 197) in Galois/Counter Mode (NIST SP 800-38D), which seals husks, spill images and scan read-outs
(R46, R237, R316). -/

namespace Sys2Proof.Machine

/-! ### The field of AES -/

/-- Multiply by x in the field of AES. -/
def aesDouble (b : Byte) : Byte := (b <<< 1) ^^^ (if b.msb then 0x1b#8 else 0)

/-- Multiply in the field of AES, by the low `n` bits of the second factor. -/
def aesMul : Nat → Byte → Byte → Byte
  | 0, _, _ => 0
  | n + 1, a, b => (if b.getLsbD 0 then a else 0) ^^^ aesMul n (aesDouble a) (b >>> 1)

/-- The inverse of an element, and 0 for 0: its power 254. -/
def aesInv (a : Byte) : Byte :=
  ((List.range 7).foldl (fun (acc : Byte × Byte) _ =>
    let q := aesMul 8 acc.1 acc.1
    (q, aesMul 8 acc.2 q)) (a, 1)).2

/-- The substitution box, as FIPS 197 defines it. -/
def aesBoxOf (a : Byte) : Byte :=
  let i := aesInv a
  i ^^^ i.rotateLeft 1 ^^^ i.rotateLeft 2 ^^^ i.rotateLeft 3 ^^^ i.rotateLeft 4 ^^^ 0x63#8

/-- The substitution box as a table. -/
def aesBox : List Byte := (List.range 256).map (fun i => aesBoxOf (BitVec.ofNat 8 i))

/-- Substitute a byte. -/
def aesSub (b : Byte) : Byte := aesBox.getD b.toNat 0

/-- The bytes of two lists, added in the field. -/
def xorBytes (a b : List Byte) : List Byte := List.zipWith (· ^^^ ·) a b

/-! ### The cipher -/

/-- Extend a key schedule, the newest word first, by `n` words; `i` numbers the next. -/
def aesExtend : Nat → Nat → Byte → List (List Byte) → List (List Byte)
  | 0, _, _, ws => ws
  | n + 1, i, rcon, ws =>
    let last := ws.getD 0 []
    let mixed : List Byte :=
      if i % 8 = 0 then xorBytes ((last.drop 1 ++ last.take 1).map aesSub) [rcon, 0, 0, 0]
      else if i % 8 = 4 then last.map aesSub else last
    aesExtend n (i + 1) (if i % 8 = 0 then aesDouble rcon else rcon) (xorBytes (ws.getD 7 []) mixed :: ws)

/-- The fifteen round keys of a key of 32 bytes. -/
def aesKeys (key : List Byte) : List (List Byte) :=
  let first := ((List.range 8).map (fun i => (key.drop (4 * i)).take 4)).reverse
  let all := (aesExtend 52 8 1 first).reverse
  (List.range 15).map (fun r => ((all.drop (4 * r)).take 4).flatten)

/-- Shift the rows of a block, held column by column. -/
def aesShift (b : List Byte) : List Byte := (List.range 16).map (fun i => b.getD ((i + 4 * (i % 4)) % 16) 0)

/-- Mix a column. -/
def aesColumn (c : List Byte) : List Byte :=
  let at_ (i : Nat) : Byte := c.getD (i % 4) 0
  (List.range 4).map (fun i => aesDouble (at_ i) ^^^ (aesDouble (at_ (i + 1)) ^^^ at_ (i + 1)) ^^^ at_ (i + 2) ^^^ at_ (i + 3))

/-- Mix the columns of a block. -/
def aesMix (b : List Byte) : List Byte := (List.range 4).flatMap (fun i => aesColumn ((b.drop (4 * i)).take 4))

/-- Encrypt a block under round keys. -/
def aesBlock (keys : List (List Byte)) (b : List Byte) : List Byte :=
  let key (r : Nat) : List Byte := keys.getD r []
  let body := (List.range 13).foldl (fun b r => xorBytes (aesMix (aesShift (b.map aesSub))) (key (r + 1))) (xorBytes b (key 0))
  xorBytes (aesShift (body.map aesSub)) (key 14)

/-! ### The mode -/

/-- A block as a number, its first byte the most significant. -/
def blockBE (bs : List Byte) : BitVec 128 := BitVec.ofNat 128 (ofBytes bs.reverse)

/-- Multiply in the field of GCM, by the `n` leading bits of the first factor. -/
def gcmMul : Nat → BitVec 128 → BitVec 128 → BitVec 128
  | 0, _, _ => 0
  | n + 1, x, v =>
    (if x.msb then v else 0) ^^^ gcmMul n (x <<< 1) ((v >>> 1) ^^^ (if v.getLsbD 0 then 0xE1#128 <<< 120 else 0))

/-- Bytes filled up with zeros to whole blocks. -/
def gcmPad (bs : List Byte) : List Byte := bs ++ List.replicate ((16 - bs.length % 16) % 16) 0

/-- The hash of `n` blocks. -/
def ghash (h : BitVec 128) : Nat → BitVec 128 → List Byte → BitVec 128
  | 0, y, _ => y
  | n + 1, y, bs => ghash h n (gcmMul 128 (y ^^^ blockBE (bs.take 16)) h) (bs.drop 16)

/-- Encrypt or decrypt bytes in counter mode, from a counter on. -/
def gcmCount (keys : List (List Byte)) (iv : List Byte) : Nat → Nat → List Byte → List Byte
  | 0, _, _ => []
  | n + 1, ctr, bs =>
    xorBytes (bs.take 16) (aesBlock keys (iv ++ toBytesBE ctr 4)) ++ gcmCount keys iv n (ctr + 1) (bs.drop 16)

/-- The ciphertext of bytes under a key and an IV of 12 bytes. -/
def gcmCipher (key iv plain : List Byte) : List Byte := gcmCount (aesKeys key) iv (cdiv plain.length 16) 2 plain

/-- The tag of authenticated data and a ciphertext. -/
def gcmTag (key iv aad cipher : List Byte) : List Byte :=
  let keys := aesKeys key
  let h := blockBE (aesBlock keys (List.replicate 16 0))
  let data := gcmPad aad ++ gcmPad cipher ++ toBytesBE (8 * aad.length) 8 ++ toBytesBE (8 * cipher.length) 8
  xorBytes (toBytesBE (ghash h (data.length / 16) 0 data).toNat 16) (aesBlock keys (iv ++ toBytesBE 1 4))

end Sys2Proof.Machine
end

