-- ==== Sys2Proof/Machine/Control.lean ====
section
/-! DEFINITION. Branches, calls, exits, barriers, yielding, traps and steps (R227–R234, R241–R243). -/

namespace Sys2Proof.Machine

/-- The issuing slot continues elsewhere. -/
def jumpTo (s : State) (v : View) (pc : W64) : Res :=
  .jump (s.modGroup v.handle v.gi (fun g => g.advance v.d pc))

/-- A word address plus a signed number of words. -/
def wordTarget (a : W64) {n : Nat} (d : BitVec n) : W64 := a + (d.signExtend 64 <<< 3)

/-- A fault that names the issuing slot's mask (R372). -/
def wordFault (cls : Nat) (v : View) (s : State) : Res := .raise { cls, lanes := v.mask } s

/-- Push paths in turn, as far as none fails. -/
def pushAll (s : State) (v : View) : List (DivEntry × Wait) → State × Option DivFail
  | [] => (s, none)
  | e :: es =>
    match pushEntry s v e.1 e.2 with
    | (s, some f) => (s, some f)
    | (s, none) => pushAll s v es

/-- The divergent row of R61: the top is pushed, then the other slot when it is live; a push that fails leaves the branch
without effect (R386, R387). -/
def diverge (s : State) (v : View) (taken : W32) (target rcv : W64) : Res :=
  let o := v.g.slot (!v.d)
  let pushes : List (DivEntry × Wait) :=
    match v.g.top with
    | none => []
    | some t =>
      if o.live then [(t, .none), ({ pc := o.pc, mask := o.mask, rpc := some t.pc, arr := o.arr }, o.wait)] else [(t, .none)]
  if v.g.divLimit < v.g.depth + pushes.length then divRes s v { cls := clsDIV, va := 0, frame := noFrame, tier := noTier, unit := 0 }
  else
    match pushAll s v pushes with
    | (s, some f) => divRes (s.modGroup v.handle v.gi (fun _ => v.g)) v f
    | (s, none) =>
      .jump (s.modGroup v.handle v.gi (fun g =>
        let g := { g with top := some { pc := rcv, mask := v.mask, rpc := v.g.top.map DivEntry.pc, arr := false } }
        (g.setSlot v.d { live := true, pc := target, mask := taken }).setSlot (!v.d)
          { live := true, pc := v.pc + 8, mask := v.mask &&& ~~~ taken }))

/-- The lanes that take a vector `bra` (R228). -/
def takenLanes (v : View) (h : Head) (o : FB) : W32 :=
  maskOf (fun i => bit v.mask i && v.guardV h.g h.n i && (v.g.base.pred (fldN o.cond 0 3) i != bit o.cond 3))

/-- `bra` (R228). -/
def execBra (h : Head) (o : FB) (s : State) : Out :=
  issue (.bra h o) h.s .all noRight (fun s v =>
    let target := wordTarget v.pc o.tgt
    if h.u then jumpTo s v (if v.go h && (v.g.base.upred (fldN o.cond 0 3) != bit o.cond 3) then target else v.pc + 8)
    else
      let t := takenLanes v h o
      if t = v.mask then jumpTo s v target
      else if t = 0 then jumpTo s v (v.pc + 8)
      else if bit o.cond 4 then wordFault clsUNI v s
      else diverge s v t target (wordTarget v.pc o.rcv)) s

/-- A jump to a target held in a pair (R229): judged for alignment (R376) before agreement (R378). -/
def pairJump (i : Instr) (h : Head) (o : F3) (s : State) : Out :=
  issue i h.s .all noRight (fun s v =>
    let us := v.units h
    let tgt (l : Nat) : W64 := v.src64 h (bit o.mod 13) o.sa l
    let bad := us.filter (fun l => decide ((tgt l).toNat % 8 ≠ 0))
    match us with
    | [] => jumpTo s v (v.pc + 8)
    | u :: _ =>
      match bad with
      | b :: _ => .raise { cls := clsALN, lanes := v.failMask h bad, vaddr := tgt b, kind := 4 } s
      | [] =>
        if !h.u && (decide (v.lanes h ≠ v.mask) || us.any (fun l => decide (tgt l ≠ tgt u))) then wordFault clsUNI v s
        else jumpTo s v (tgt u)) s

/-- `brx` (R229). -/
def execBrx (h : Head) (o : F3) (s : State) : Out := pairJump (.brx h o) h o s
/-- `ret` (R229). -/
def execRet (h : Head) (o : F3) (s : State) : Out := pairJump (.ret h o) h o s

/-- `call` (R230). -/
def execCall (h : Head) (o : FB) (s : State) : Out :=
  issue (.call h o) h.s .all noRight (fun s v =>
    if (v.units h).isEmpty then jumpTo s v (v.pc + 8)
    else if !h.u && decide (v.lanes h ≠ v.mask) then wordFault clsUNI v s
    else
      jumpTo (v.put s (v.forUnits h (fun l => putPair h.u o.cond.toNat l tagI32 (v.pc + 8)))) v (wordTarget v.pc o.tgt)) s

/-- `exit` (R231). -/
def execExit (h : Head) (o : F3) (s : State) : Out :=
  issue (.exit h o) h.s .all noRight (fun s v =>
    if h.u then
      if v.go h then
        .jump (s.modGroup v.handle v.gi (fun g => { g with exited := allLanes, slot0 := {}, slot1 := {}, top := none }))
      else jumpTo s v (v.pc + 8)
    else
      let out := v.lanes h
      .jump (s.modGroup v.handle v.gi (fun g =>
        let g := { g with exited := g.exited ||| out }
        if out = v.mask then g.setSlot v.d {}
        else (g.advance v.d (v.pc + 8)).setSlot v.d { (g.advance v.d (v.pc + 8)).slot v.d with mask := v.mask &&& ~~~ out }))) s

/-- A word that delivers HDL inside a handler (R365), else goes on. -/
def noHandler (s : State) (v : View) (k : Unit → Res) : Res :=
  if v.g.level ≠ 0 then .raise { cls := clsHDL, lanes := v.mask } s else k ()

/-- Past an ordering point every result of the run is there (R57), so a run that a barrier ends writes them with it: the groups that
issue after the barrier see its format registers (R79). -/
def resultsCame (s : State) (v : View) : State := s.modGroup v.handle v.gi (fun g => { g with longRun := false })

/-- `bar` (R232): an ordering point that waits for every group of the block. -/
def execBar (h : Head) (o : F3) (s : State) : Out :=
  issue (.bar h o) h.s .notAud noRight (fun s v =>
    if !v.go h then .ok s
    else noHandler s v (fun _ => orderPoint s v (fun s => .park .bar (resultsCame s v)))) s

/-- `bara` (R233). -/
def execBara (h : Head) (o : FI) (s : State) : Out :=
  issue (.bara h o) h.s .notAud noRight (fun s v =>
    let n := fldN o.imm 0 4
    let count := fldN o.imm 4 5
    if !v.go h then .ok s
    else if (v.b.phase n count).count ≠ count then wordFault clsUNI v s
    else orderPoint s v (fun s => .ok (s.modBlock v.handle (fun b => b.arrive v.gi n count)))) s

/-- `barw` (R233): its slot waits for the phase it arrives in. -/
def execBarw (h : Head) (o : FI) (s : State) : Out :=
  issue (.barw h o) h.s .notAud noRight (fun s v =>
    let n := fldN o.imm 0 4
    let count := fldN o.imm 4 5
    if !v.go h then .ok s
    else noHandler s v (fun _ =>
      if (v.b.phase n count).count ≠ count then wordFault clsUNI v s
      else orderPoint s v (fun s =>
        .park (if count ≤ (v.b.phase n count).arrived + 1 then .passed else .barw n)
          ((resultsCame s v).modBlock v.handle (fun b => b.arrive v.gi n count))))) s

/-- The other slot of a group waits with it until the next time its core looks: a condition that always holds. -/
def Slot.rest (x : Slot) : Slot := if x.wait = .none then { x with wait := .retry (.counter 0 64) } else x

/-- `yld` (R234): a long wait of the group until the core's next choice of active groups. -/
def execYld (h : Head) (o : F3) (s : State) : Out :=
  issue (.yld h o) h.s .notAud noRight (fun s v =>
    if v.go h then .park .passed (s.modGroup v.handle v.gi (fun g => g.setSlot (!v.d) (g.slot (!v.d)).rest)) else .ok s) s

/-- `trap` (R241). -/
def execTrap (h : Head) (o : FI) (s : State) : Out :=
  issue (.trap h o) h.s .notAud noRight (fun s v =>
    if v.go h then .raise { cls := 0, lanes := v.mask, trap := some (fldN o.imm 0 8) } s else .ok s) s

/-- `rte` (R242, R388). -/
def execRte (h : Head) (o : F3) (s : State) : Out :=
  issue (.rte h o) h.s .notAud noRight (fun s v =>
    if !v.go h then .ok s
    else if v.g.level = 0 then wordFault clsENC v s
    else .jump (s.modGroup v.handle v.gi leaveHandler)) s

/-- The launch of a block. -/
def State.launchOf (s : State) (b : Block) : Option Launch := b.launch.bind (fun k => AMap.get? s.launches k)

/-- `step` (R243, R402). -/
def execStep (h : Head) (o : F3) (s : State) : Out :=
  issue (.step h o) h.s .notAud noRight (fun s v =>
    let n := v.g.base.uni o.sa.toNat
    if !v.go h then .ok s
    else noHandler s v (fun _ =>
      match s.launchOf v.b with
      | none => wordFault clsENC v s
      | some l =>
        if !l.stepped || !v.g.gates.isEmpty || decide (n ≠ l.stepno + 1) then wordFault clsENC v s
        else
          let other := v.g.slot (!v.d)
          let clash : Bool := match other.wait with
            | .step m => other.live && decide (m ≠ n)
            | _ => false
          if clash then wordFault clsUNI v s else orderPoint s v (fun s => .park (.step n) s))) s

end Sys2Proof.Machine
end

