-- ==== Sys2Proof/Machine/Gates.lean ====
section
/-! DEFINITION. Gate calls and their returns (R235–R239, R392). -/

namespace Sys2Proof.Machine

/-- A gate entry (R236). -/
structure GateEntry where
  entry : W64
  dom : Nat
  argv : Nat
  args : Nat
  retv : Nat
  rets : Nat
  valid : Bool
  limit : Nat
  minregs : Nat
  tvt : W64

/-- A field of a captured block, as a number. -/
def fieldOf (bs : List Byte) (at_ n : Nat) : Nat := ofBytes ((bs.drop at_).take n)

/-- The gate entry of 32 captured bytes (R236). -/
def GateEntry.ofBytes (bs : List Byte) : GateEntry :=
  { entry := BitVec.ofNat 64 (fieldOf bs 0 8), dom := fieldOf bs 8 1, argv := fieldOf bs 9 1, args := fieldOf bs 10 1,
    retv := fieldOf bs 11 1, rets := fieldOf bs 12 1, valid := fieldOf bs 13 1 % 2 = 1, limit := fieldOf bs 14 2,
    minregs := fieldOf bs 16 1, tvt := BitVec.ofNat 64 (fieldOf bs 24 8) &&& 0x00FFFFFFFFFFFFC0#64 }

/-- The checks of R392 on an entry, but for the spill image. -/
def GateEntry.ok (e : GateEntry) (s : State) (p n regs depth : Nat) : Bool :=
  e.valid && decide (e.entry.toNat % 8 = 0) &&
  (if n < 256 then decide (e.dom ≤ 15) && bit (s.reg p (0x6060 + 2 * e.dom)) 0
   else decide (e.dom ≤ 63) && bit (s.reg 0 (0x5300 + 2 * e.dom)) 0) &&
  decide (e.minregs ≤ regs ∧ e.argv ≤ regs ∧ e.args ≤ 32 ∧ e.argv ≤ 32 ∧ e.retv ≤ e.argv ∧ e.rets ≤ e.args ∧ depth ≠ 4)

/-- The registers a callee starts with: the arguments stay, everything else is zero; handle bindings stay (R237, R238). -/
def calleeRegs (r : Regs) (argv args : Nat) : Regs :=
  { v := r.v.filter (fun kv => decide (kv.1 < 32 * argv)), s := r.s.filter (fun kv => decide (kv.1 < args)), acc := r.acc }

/-- The caller's image of a call at `a` (R237). -/
def gateFrame (g : Group) (d : Bool) (a : W64) (mask : W32) (e : GateEntry) (n gt image : Nat) : GateFrame :=
  { regs := g.live, asid := g.asid, auth := g.auth, tvt := g.tvt, slot0 := g.slot0, slot1 := g.slot1, d, top := g.top,
    depth := g.depth, counters := g.counters, subs := g.subs, argv := e.argv, args := e.args, retv := e.retv, rets := e.rets,
    deadline := if e.limit = 0 then none else some (gt + 4096 * e.limit), noLimit := decide (e.limit = 0), gate := n,
    image, iaddr := a, mask, pushed := g.pushed, hsv1 := g.hsv1, hsv2 := g.hsv2 }

/-- The moments that bound a call without a limit have come (R396): forced sealing of its partition has begun, or a `pmpt` or `seal`
names its context. -/
def State.boundNow (s : State) (p ctx : Nat) : Bool :=
  let sealing (x : Slot) : Bool := decide (x.wait = .retry (.gateOut ctx))
  decide (s.regF p 0x6035 0 2 = 3) || (match AMap.get? s.parts p with | some x => x.pmpt.isSome | none => false) ||
  s.blocks.any (fun b => b.2.groups.any (fun g => sealing g.slot0 || sealing g.slot1))

/-- Entry to the callee (R237); `bound` says that a call without a limit is bounded at once (R396), `image` is the fresh counter of the
call's spill image. -/
def enterGate (g : Group) (d : Bool) (a : W64) (mask : W32) (e : GateEntry) (n p gt : Nat) (bound : Bool) (image : Nat) : Group :=
  let r := calleeRegs g.live e.argv e.args
  let f := gateFrame g d a mask e n gt image
  { g with
    gates := (if bound && f.noLimit && decide (256 ≤ n) then { f with deadline := some gt } else f) :: g.gates, base := r, live := r, counters := {}, subs := {},
    asid := if n < 256 then BitVec.ofNat 11 (16 * p + e.dom) else BitVec.ofNat 11 (0x400 + e.dom),
    auth := if n < 256 then 0 else 1, tvt := e.tvt, slot0 := { live := true, pc := e.entry, mask }, slot1 := {}, top := none,
    depth := 0, pushed := [], cur := false }

/-- The key in a partition's key slot (R43): that of generation 0 until a partition reset rederives it. -/
def State.partKey (s : State) (p : Nat) : List Byte := (AMap.get? s.keys p).getD (partitionKey p 0)

/-- The spill image of a call of a context at a depth, sealed under the gate spill key with AES-256-GCM, its tag first (R43, R237).
DESIGN CHOICE: the cipher, its IV and its place in the image, which the spec does not state (log 12). -/
def spillBytes (s : State) (p h depth image : Nat) : List Byte :=
  let key := gateKey (s.partKey p) h depth
  let iv := (List.range 12).map (Config.spillIv image)
  let c := gcmCipher key iv ((List.range (min (Config.spillLength image) 65520)).map (Config.spillByte image))
  gcmTag key iv [] c ++ c

/-- `gcall` (R237, R392): the entry captured at issue, the spill image written, the callee entered. -/
def execGcall (h : Head) (o : FI) (s : State) : Out :=
  issue (.gcall h o) h.s .owner noRight (fun s v =>
    if !v.go h then .ok s
    else noHandler s v (fun _ => orderPoint s v (fun s =>
      let n := fldN o.imm 0 9
      let p := (asidPart v.g.asid.toNat).getD 0
      let tab := if n < 256 then s.reg64 p 0x6040 else s.reg64 0 0x5400
      let at_ := tab + BitVec.ofNat 64 (32 * (n % 256))
      let refuse (s : State) (va : W64) (kind : Nat) : Res := .raise { cls := clsGTE, lanes := v.mask, vaddr := va, kind } s
      if tab = 0 then refuse s at_ 5
      else
        capturedIn s v (BitVec.ofNat 11 (if n < 256 then 16 * p else 0x400)) at_ 32 (fun s _ _ _ => refuse s at_ 5) (fun s bs =>
          let e := GateEntry.ofBytes bs
          if !e.ok s p n v.regs v.g.gates.length then refuse s at_ 5
          else
            let img := s.reg64 p 0x6044 + BitVec.ofNat 64 (65536 * (4 * (31 * v.core + v.gslot) + v.g.gates.length))
            match vpost s (16 * p) .post img (spillBytes s p v.handle (v.g.gates.length + 1) s.fresh) with
            | (s, some (c, f, _)) =>
              if c = clsMSP then
                .stop (s.addMissing v.handle v.gi (.frame f)
                  { v.mkRec clsMSP with vaddr := img, kind := if s.walkStops (16 * p) img then 6 else 2, frame := f, tier := s.tierOf f })
              else refuse s img 2
            | (s, none) =>
              let image := s.fresh
              let s := s.tick.modBlock v.handle (fun b => commitBlock b v.gi)
              .jump (s.modGroup v.handle v.gi (fun g => enterGate g v.d v.pc v.mask e n p s.gt (s.boundNow p v.handle) image)))))) s

/-- `gret` (R239): waits until the callee's counters are 0, then restores the caller. -/
def execGret (h : Head) (o : F3) (s : State) : Out :=
  issue (.gret h o) h.s .notAud noRight (fun s v =>
    if !v.go h then .ok s
    else if v.g.gates.isEmpty then wordFault clsENC v s
    else orderPoint s v (fun s =>
      if v.g.counters = {} then .jump (endCall (s.modBlock v.handle (fun b => commitBlock b v.gi)) v.handle v.gi none)
      else .hold .drained s)) s

end Sys2Proof.Machine
end

