-- ==== Sys2Proof/Machine/Queues.lean ====
section
/-! DEFINITION. Queue instructions (R244–R247, R379). -/

namespace Sys2Proof.Machine

/-- A queue descriptor (R244): its indices and state at the home, SLOTS, PPROD and PCONS of the captured version. -/
structure Queue where
  resv : Nat
  taken : Nat
  ridx : Nat
  state : Nat
  slots : Nat
  pprod : Nat
  pcons : Nat

/-- The descriptor of the home's bytes and of the captured line (R244). -/
def Queue.ofBytes (home line : List Byte) : Queue :=
  { resv := fieldOf home 0 4, taken := fieldOf home 4 4, ridx := fieldOf home 8 4, state := fieldOf home 14 1,
    slots := fieldOf line 12 2, pprod := fieldOf line 16 1 % 64, pcons := fieldOf line 17 1 % 64 }

/-- A difference of indices (R244). -/
def qdiff (a b : Nat) : Nat := (a + 2 ^ 31 - b) % 2 ^ 31

/-- The descriptor passes the checks of R379 that do not depend on the instruction. -/
def Queue.ok (q : Queue) : Bool :=
  (List.range 12).any (fun k => decide (q.slots = 2 ^ (k + 1))) && decide (q.state ≤ 2) &&
  decide (q.resv < 2 ^ 31 ∧ q.taken < 2 ^ 31 ∧ q.ridx < 2 ^ 31) &&
  decide (qdiff q.taken q.ridx ≤ qdiff q.resv q.ridx) && decide (qdiff q.resv q.ridx ≤ q.slots)

/-- The descriptor's first 32 bytes with new indices and state, and an error's code and time. -/
def Queue.bytes (q : Queue) (home : List Byte) (err : Option (W32 × Nat)) : List Byte :=
  toBytes q.resv 4 ++ toBytes q.taken 4 ++ toBytes q.ridx 4 ++ (home.drop 12).take 2 ++ toBytes q.state 1 ++
  (home.drop 15).take 5 ++
  (match err with
  | some (c, gt) => toBytes c.toNat 4 ++ toBytes gt 8
  | none => (home.drop 20).take 12)

/-- A fault of a queue instruction names its descriptor with KIND 7 (R372). -/
def queueFault (cls : Nat) (v : View) (va : W64) (s : State) (frame tier : Nat) : Res :=
  .raise { cls, lanes := v.mask, vaddr := va, kind := 7, frame, tier } s

/-- QER at a descriptor (R379). -/
def qer (v : View) (va : W64) (s : State) : Res := queueFault clsQER v va s noFrame noTier

/-- The page of a descriptor is mapped with CTL = 1 to device memory (R379). -/
def queueMapped (s : State) (a : Nat) (va : W64) : Bool :=
  match s.leafOf a va with
  | some e => e.ctl && !e.host && !e.peer
  | none => false

/-- A queue instruction reaches its descriptor: the word goes on with its physical address, its page's W, the home's bytes
and the descriptor. A page that is not mapped at all is not mapped with CTL = 1; that is judged at step 7, before alignment and a missing
page (R371, R379; log 18). -/
def withQueue (s : State) (v : View) (va : W64) (k : State → Nat → Bool → List Byte → Queue → Res) : Res :=
  match judge s (some v.core) v.g.asid.toNat .block va 64 with
  | (s, .fail c f t) => if c = clsALN ∧ queueMapped s v.g.asid.toNat va then queueFault c v va s f t else qer v va s
  | (s, .firstTouch) => qer v va s
  | (s, .host _ _ _ _) => qer v va s
  | (s, .peer _ _ _ _ _) => qer v va s
  | (s, .missing f table _) =>
    if !table && !queueMapped s v.g.asid.toNat va then qer v va s
    else .stop (s.addMissing v.handle v.gi (.frame f)
      { v.mkRec clsMSP with vaddr := va, kind := if table then 6 else 7, frame := f, tier := s.tierOf f })
  | (s, .ecc f u) =>
    .raise { cls := clsECC, lanes := v.mask, vaddr := va, kind := 6, frame := f, unit := u, ukind := 7, kill := true } s
  | (s, .mem pa w _ ctl _ _) =>
    if !ctl then qer v va s
    else match s.physRead pa 64 with
      | .error u =>
        .raise { cls := clsECC, lanes := v.mask, vaddr := va, kind := 7, frame := pa / 65536, unit := u, ukind := 7, kill := true } s
      | .ok home =>
        capturedIn s v v.g.asid va 64 (fun s c f t => queueFault c v va s f t) (fun s line =>
          let q := Queue.ofBytes home line
          if q.ok then k s pa w home q else qer v va s)

/-- The descriptor changes, in one step at its home (R244); in a frame marked copy-on-write the word waits for the frame's copy (R342). -/
def putQueue (s : State) (v : View) (va : W64) (pa : Nat) (w : Bool) (bs : List Byte) (k : State → Res) : Res :=
  if !w then queueFault clsPRM v va s (pa / 65536) (s.tierOf (pa / 65536))
  else if s.cow.contains (pa / 65536) then
    .stop (s.addMissing v.handle v.gi (.frame (pa / 65536))
      { v.mkRec clsMSP with vaddr := va, kind := 7, frame := pa / 65536, tier := s.tierOf (pa / 65536) })
  else match s.physWrite pa bs with
    | .ok s => k s
    | .error u =>
      .raise { cls := clsECC, lanes := v.mask, vaddr := va, kind := 7, frame := pa / 65536, unit := u, ukind := 7, kill := true } s

/-- The results of a queue instruction come from L2: the run's wait is long (R66). -/
def View.longPut (v : View) (s : State) (r : Regs) : State :=
  s.modGroup v.handle v.gi (fun g => { g with live := r, longRun := true })

/-- `qput` and `qget` (R245): `put` says which. -/
def queueIndex (i : Instr) (h : Head) (o : FM) (put : Bool) (s : State) : Out :=
  issue i h.s .notAud noRight (fun s v =>
    if !v.go h then .ok s
    else inTurnOf s v (innerSeen .atomic) (fun s =>
      let va := v.src64 h false o.base 0
      withQueue s v va (fun s pa w home q =>
        if asidPart v.g.asid.toNat ≠ some (if put then q.pprod else q.pcons) then qer v va s
        else
          let ready := decide (q.state = 0) &&
            (if put then decide (qdiff q.resv q.ridx < q.slots) else decide (q.taken ≠ q.resv))
          if ready then
            let old := if put then q.resv else q.taken
            let q := if put then { q with resv := (q.resv + 1) % 2 ^ 31 } else { q with taken := (q.taken + 1) % 2 ^ 31 }
            putQueue s v va pa w (q.bytes home none) (fun s =>
              .ok (v.longPut s (v.g.live.setUni o.dst.toNat (BitVec.ofNat 32 old))))
          else if bit o.xsc 0 then .ok (v.longPut s (v.g.live.setUni o.dst.toNat 0x80000000#32))
          else .hold (.queue pa home) s))) s

/-- `qput` (R245). -/
def execQput (h : Head) (o : FM) (s : State) : Out := queueIndex (.qput h o) h o true s
/-- `qget` (R245). -/
def execQget (h : Head) (o : FM) (s : State) : Out := queueIndex (.qget h o) h o false s

/-- A `qctl` operation (R246): who may issue it, and its effect on the descriptor: none when it must wait. -/
def queueControl (i : Instr) (h : Head) (o : F3) (both : Bool)
    (f : Queue → W32 → Nat → Option (Except Unit (Queue × Option (W32 × Nat)))) (s : State) : Out :=
  issue i h.s .notAud noRight (fun s v =>
    if !v.go h then .ok s
    else orderPoint s v (fun s =>
      let va := v.src64 h false o.sa 0
      withQueue s v va (fun s pa w home q =>
        let me := asidPart v.g.asid.toNat
        if me ≠ some q.pcons ∧ (!both ∨ me ≠ some q.pprod) then qer v va s
        else
          let done (s : State) (q : Queue) : Res :=
            .ok (v.longPut s (v.g.live.setUni o.dst.toNat (BitVec.ofNat 32 (q.state % 4))))
          match f q (v.src h false o.sb 0) s.gt with
          | none => .hold (.queue pa home) s
          | some (.error ()) => qer v va s
          | some (.ok (q', err)) =>
            if q'.bytes home err = home.take 32 then done s q'
            else putQueue s v va pa w (q'.bytes home err) (fun s => done s q')))) s

/-- `qctl.done` (R246): an index behind RIDX is performed at once; one ahead waits for its turn. -/
def execQctlDone (h : Head) (o : F3) (s : State) : Out :=
  queueControl (.qctlDone h o) h o false (fun q b _ =>
    let i := b.toNat % 2 ^ 31
    if 2 ^ 30 ≤ qdiff i q.ridx then some (.ok (q, none))
    else if q.ridx = i then some (.ok ({ q with ridx := (i + 1) % 2 ^ 31 }, none))
    else none) s
/-- `qctl.err` (R246). -/
def execQctlErr (h : Head) (o : F3) (s : State) : Out :=
  queueControl (.qctlErr h o) h o true (fun q b gt => some (.ok ({ q with state := 1 }, some (b, gt)))) s
/-- `qctl.run` (R246). -/
def execQctlRun (h : Head) (o : F3) (s : State) : Out :=
  queueControl (.qctlRun h o) h o false (fun q _ _ => some (.ok (if q.state = 1 then { q with state := 0 } else q, none))) s
/-- `qctl.setr` (R246, R379). -/
def execQctlSetr (h : Head) (o : F3) (s : State) : Out :=
  queueControl (.qctlSetr h o) h o false (fun q b _ =>
    let i := b.toNat % 2 ^ 31
    if q.state ≠ 1 ∨ qdiff q.resv q.ridx < qdiff i q.ridx then some (.error ())
    else some (.ok ({ q with ridx := i, taken := i }, none))) s
/-- `qctl.stat` (R246). -/
def execQctlStat (h : Head) (o : F3) (s : State) : Out :=
  queueControl (.qctlStat h o) h o true (fun q _ _ => some (.ok (q, none))) s

end Sys2Proof.Machine
end

