-- ==== Sys2Proof/Machine/Engines.lean ====
section
/-! DEFINITION. The words that hand work to the engines and wait for it (R275–R291, R376–R380), and accumulator tiles. -/

namespace Sys2Proof.Machine

/-- The counter of a class: 0 `cpy`, 1 `mma`, 2 `gth`, 3 `col` (R277). -/
def Counters.get (c : Counters) (cls : Nat) : Nat :=
  match cls with
  | 0 => c.cpy
  | 1 => c.mma
  | 2 => c.gth
  | _ => c.col
/-- Replace the counter of a class. -/
def Counters.set (c : Counters) (cls x : Nat) : Counters :=
  match cls with
  | 0 => { c with cpy := x }
  | 1 => { c with mma := x }
  | 2 => { c with gth := x }
  | _ => { c with col := x }

/-- The frames that the pages of an address range map to in an ASID. -/
def rangeFrames (s : State) (a : Nat) (va : W64) (len : Nat) : List Nat :=
  let first := va.toNat / 65536
  if len = 0 then [] else (List.range ((va.toNat + (len - 1)) / 65536 - first + 1)).filterMap (fun i =>
    match (translate s none a (65536 * (first + i)) .load).2 with
    | .mem pa _ _ _ _ _ => some (pa / 65536)
    | .missing f false _ => some f
    | _ => none)

/-- The resident block of a partition whose scratchpad allocation holds a range of cluster scratchpad addresses (R121,
R289, R403): its handle and the block offset. -/
def State.spHome (s : State) (cluster : Nat) (part : Option Nat) (addr len : Nat) : Option (Nat × Nat) :=
  let core := 4 * cluster + addr / 2 ^ 18
  let off := addr % 2 ^ 18
  if 2 ^ 20 ≤ addr then none
  else (s.blocks.find? (fun hb =>
      decide (hb.2.place = .core core) && decide (hb.2.part? = part) && decide (hb.2.spOff ≤ off) &&
      decide (off + len ≤ hb.2.spOff + 256 * hb.2.scratchN))).map (fun hb => (hb.1, off - hb.2.spOff))

/-! ### Submission -/

/-- A counted submission of a group takes effect (R276). -/
def State.submit (s : State) (v : View) (op : EngOp) : State :=
  let s := s.modGroup v.handle v.gi (fun g =>
    { g with
      counters := g.counters.set op.cls (g.counters.get op.cls + 1)
      subs := g.subs.set op.cls (g.subs.get op.cls + 1) })
  { s with ops := AMap.put s.ops s.nextOp { op with seq := v.g.subs.get op.cls }, nextOp := s.nextOp + 1 }

/-- The operation a word submits: inside an operator-gate call it may name no scratchpad (R238). -/
def View.engOp (v : View) (cls : Nat) (kind : OpKind) (va : W64) (block : List Byte) (frames : List Nat) : EngOp :=
  { owner := .group v.handle v.gi v.g.gates.length, cls, kind, asid := v.g.asid, auth := v.g.auth, part := v.b.part?,
    cluster := v.cluster, iaddr := v.pc, va, mask := v.mask, block, sp := !v.g.inOperGate, frames }

/-- The counter is below 63, and the reservation table has `k` entries to offer (R276, R397). -/
def roomFor (s : State) (c : Counters) (cluster cls k : Nat) : Bool :=
  decide (c.get cls < 63) &&
  (decide (k = 0) || ((s.cluster cluster).placing.isEmpty && decide ((s.cluster cluster).reqs.length + k ≤ 32)))

/-- A submission waits for its order and its room (R276, R411). -/
def submission (s : State) (v : View) (cls k : Nat) (go : State → Res) : Res :=
  orderPoint s v (fun s => if roomFor s v.g.counters v.cluster cls k then go s else .hold (.room cls k) s)

/-! ### Matrix operations (R281–R288) -/

/-- n k-blocks of a matrix word. -/
def kBlocks (o : F3) : Nat := fldN o.mod 0 6 + 1
/-- BTY of a matrix word. -/
def bType (o : F3) : Nat := fldN o.mod 8 2
/-- K of an operand (R105): by its tag or BTY and its format. -/
def kOf (wide16 : Bool) (f : W32) : Nat := if wide16 then 16 else if nfW f ≤ 4 then 64 else 32
/-- A tag names a 16-bit format. -/
def tag16 (t : BitVec 4) : Bool := decide (t = 2) || decide (t = 3)
/-- A tag names a narrow format. -/
def tagN (t : BitVec 4) : Bool := decide (4 ≤ t.toNat) && decide (t.toNat ≤ 11)

/-- The quarters that take part (R282). -/
def quarters (m : W32) : List Nat := [0, 1, 2, 3].filter (fun q => decide (fldN m (8 * q) 8 ≠ 0))

/-- A quarter's A operand: the rows and scales it reads, its tag and format value, from its latch or from registers. -/
def quarterA (v : View) (o : F3) (m : W32) (q : Nat) : Latch :=
  match AMap.get? v.g.latches q with
  | some l => l
  | none =>
    let n := kBlocks o
    let t := (v.g.base.vec o.sa.toNat (lowLane m)).tag
    let f := if tagN t then v.fm (t.toNat - 4) else 0
    let lane (i : Nat) : Bool := bit m (8 * q + i)
    let ns := if tagN t && decide (nfScm f = 2) then n * (kOf false f / 32) else 0
    { sa := o.sa.toNat, n, atag := t, afmt := f,
      rows := (List.range 8).map (fun i => if lane i then regBytes v false o.sa.toNat (8 * n) (8 * q + i) else []),
      scales := (List.range 8).map (fun i =>
        if lane i then (regBytes v false (o.sa.toNat + 8 * n) (cdiv ns 4) (8 * q + i)).take ns else []) }

/-- The A registers of the quarters without a latch do not all carry one tag (R377). -/
def mixedTags (v : View) (o : F3) (m : W32) : Bool :=
  let lanes := (lanesOf m).filter (fun l => (AMap.get? v.g.latches (l / 8)).isNone)
  match lanes with
  | [] => false
  | l0 :: _ =>
    let t := (v.g.base.vec o.sa.toNat l0).tag
    lanes.any (fun l => (List.range (8 * kBlocks o)).any (fun k => decide ((v.g.base.vec (o.sa.toNat + k) l).tag ≠ t)))

/-- A quarter's A operand for a word: the tag is that of the lowest lane that reads registers. -/
def wordA (v : View) (o : F3) (m : W32) (q : Nat) : Latch :=
  quarterA v o (maskOf (fun i => bit m i && (decide (i / 8 = q) || (AMap.get? v.g.latches (i / 8)).isNone))) q

/-- A tag or class check of R377 fails. -/
def matrixTagBad (v : View) (o : F3) (m : W32) : Bool :=
  let bf := v.fm o.sc.toNat
  let bOk := decide (bType o ≠ 0) || nfValid bf
  mixedTags v o m || !bOk ||
  (quarters m).any (fun q =>
    let a := wordA v o m q
    !(tag16 a.atag || (tagN a.atag && nfValid a.afmt)) ||
    decide (kOf (tag16 a.atag) a.afmt ≠ kOf (decide (bType o ≠ 0)) bf))

/-- Scale registers of A pass REGS (R281). -/
def scaleRegsBad (v : View) (o : F3) (m : W32) : Bool :=
  (quarters m).any (fun q =>
    (AMap.get? v.g.latches q).isNone &&
    (let a := wordA v o m q
     tagN a.atag && decide (nfScm a.afmt = 2) &&
     decide (v.regs < o.sa.toNat + 8 * kBlocks o + cdiv (kBlocks o * (kOf false a.afmt / 32)) 4)))

/-- A latched quarter is named with another SA or n (R376). -/
def latchBad (v : View) (o : F3) (m : W32) : Bool :=
  (quarters m).any (fun q =>
    match AMap.get? v.g.latches q with
    | some l => decide (l.sa ≠ o.sa.toNat) || decide (l.n ≠ kBlocks o)
    | none => false)

/-- Bytes of B in the scratchpad: its k-blocks and, under SCM 2, its scales (R281). -/
def bBytes (o : F3) (f : W32) : Nat :=
  let n := kBlocks o
  if bType o = 0 ∧ nfScm f = 2 then 1024 * n + 64 * (n - 1) + kOf false f else 1024 * n

/-- A B operand: where it lies. -/
structure BSpec where
  scratch : Bool
  addr : W64
  kstride : Int
  cstride : Int
  scales : W64

/-- Rows of a latch that were never read hold no stated value (R283, log 2). -/
def latchRow (fresh : Nat) (len : Nat) (r : List Byte) : List Byte :=
  if r.isEmpty then (List.range len).map (fun i => BitVec.ofNat 8 (Config.freeValue (fresh + i))) else r

/-- The quarter requests of a word and the latches it leaves (R282, R283). -/
def postQuarters (s : State) (v : View) (o : F3) (m : W32) (tile : Nat) (b : BSpec) (tree : Option (Nat × Nat)) : State :=
  let reuse := bit o.mod 6
  let reqs := (quarters m).map (fun q =>
    let a := wordA v o m q
    let rows : BitVec 8 := m.extractLsb' (8 * q) 8
    let used (l : List (List Byte)) (len : Nat) : List (List Byte) :=
      (List.range 8).map (fun i => if bit rows i then latchRow s.fresh len (l.getD i []) else [])
    { op := s.nextOp, handle := v.handle, gi := v.gi, q, tile, n := kBlocks o, next := 0, rows,
      a := used a.rows (32 * kBlocks o),
      ascales := if tagN a.atag && decide (nfScm a.afmt = 2) then used a.scales (kBlocks o * (kOf false a.afmt / 32)) else [],
      atag := a.atag, afmt := a.afmt, bty := bType o, bfmt := if bType o = 0 then v.fm o.sc.toNat else 0, scratch := b.scratch,
      baddr := b.addr, kstride := b.kstride, cstride := b.cstride, bscales := b.scales, asid := v.g.asid, part := v.b.part?,
      iaddr := v.pc, tree : MReq })
  let c := s.cluster v.cluster
  let s := (s.setCluster v.cluster { c with reqs := c.reqs ++ reqs }).tick
  s.modGroup v.handle v.gi (fun g =>
    { g with latches := (quarters m).foldl (fun ls q => if reuse then AMap.put ls q (wordA v o m q) else AMap.del ls q) g.latches })

/-- The checks and the effect common to the matrix words (R371, R376, R377): `pre` are checks of step 4 of the word's own,
`mid` leads to its B operand, `spv` its check of step 9. -/
def matrixOp (i : Instr) (h : Head) (o : F3) (pre : View → Option Req)
    (mid : State → View → (State → Nat → Nat → Nat → Res) → (State → BSpec → Res) → Res) (spv : State → View → BSpec → Bool)
    (frames : State → View → BSpec → List Nat) (tree : View → Option (Nat × Nat)) (va : View → W64) (s : State) : Out :=
  issue i h.s .notAud noRight (fun s v =>
    let m := v.lanes h
    let enc : Res := .raise { cls := clsENC, lanes := m } s
    if m = 0 then .ok s
    else match AMap.get? v.g.base.acc o.dst.toNat with
    | none => enc
    | some tile =>
      match pre v with
      | some q => .raise { q with lanes := m } s
      | none =>
        if latchBad v o m || scaleRegsBad v o m then enc
        else
          let tag (s : State) : Res := .raise { cls := clsTAG, lanes := m } s
          mid s v
            (fun s c f t => if matrixTagBad v o m then tag s
              else .raise { cls := c, lanes := v.mask, vaddr := va v, kind := 5, frame := f, tier := t } s)
            (fun s b =>
              if matrixTagBad v o m then tag s
              else if !spv s v b then .raise { cls := clsSPV, lanes := m, vaddr := b.addr, kind := 5, sp := true } s
              else submission s v 1 (quarters m).length (fun s =>
                let s := postQuarters s v o m tile b (tree v)
                .ok (s.submit v (v.engOp 1 .mat (va v) [] (frames s v b)))))) s

/-- B of `mma` and `mmt`: the address in a uniform register. -/
def scratchB (v : View) (o : F3) : BSpec :=
  let x := v.g.base.uni o.sb.toNat
  { scratch := true, addr := x.zeroExtend 64, kstride := 1024, cstride := 32,
    scales := x.zeroExtend 64 + BitVec.ofNat 64 (1024 * kBlocks o) }

/-- B's address is a multiple of 1,024 (R376). -/
def scratchAlign (o : F3) (v : View) : Option Req :=
  let x := v.g.base.uni o.sb.toNat
  if x.toNat % 1024 ≠ 0 then some { cls := clsALN, vaddr := x.zeroExtend 64, kind := 5, sp := true } else none

/-- B and its scales lie in one resident block's allocation (R403). -/
def scratchIn (o : F3) (s : State) (v : View) (b : BSpec) : Bool :=
  (s.spHome v.cluster v.b.part? b.addr.toNat (bBytes o (v.fm o.sc.toNat))).isSome

/-- `mma` (R281, R282). -/
def execMma (h : Head) (o : F3) (s : State) : Out :=
  matrixOp (.mma h o) h o (scratchAlign o) (fun s v _ k => k s (scratchB v o)) (scratchIn o) (fun _ _ _ => []) (fun _ => none)
    (fun v => (scratchB v o).addr) s

/-- `mmt` (R288). -/
def execMmt (h : Head) (o : F3) (s : State) : Out :=
  matrixOp (.mmt h o) h o
    (fun v => match scratchAlign o v with
      | some q => some q
      | none => if fldN (v.g.base.uni (o.sb.toNat + 1)) 16 16 ≠ 0 then some { cls := clsENC } else none)
    (fun s v _ k => k s (scratchB v o)) (scratchIn o) (fun _ _ _ => [])
    (fun v => some (fldN (v.g.base.uni (o.sb.toNat + 1)) 0 8, fldN (v.g.base.uni (o.sb.toNat + 1)) 8 8))
    (fun v => (scratchB v o).addr) s

/-- The address of column `c` of k-block `j` (R281, R285). -/
def columnAddr (base : W64) (kstride cstride : Int) (j c : Nat) : W64 := base + BitVec.ofInt 64 (kstride * j + cstride * c)

/-- The signed 32-bit field of a block at a byte. -/
def fieldS (bs : List Byte) (at_ : Nat) : Int := (BitVec.ofNat 32 (fieldOf bs at_ 4)).toInt
/-- A 64-bit field of a block. -/
def fieldA (bs : List Byte) (at_ : Nat) : W64 := BitVec.ofNat 64 (fieldOf bs at_ 8)

/-- The bytes of a block from one on are all 0. -/
def zeroFrom (bs : List Byte) (at_ : Nat) : Bool := (bs.drop at_).all (fun b => decide (b = 0))

/-- `mmam` (R285). -/
def execMmam (h : Head) (o : F3) (s : State) : Out :=
  let va (v : View) : W64 := pair (v.g.base.uni o.sb.toNat) (v.g.base.uni (o.sb.toNat + 1))
  matrixOp (.mmam h o) h o
    (fun v => match s.launchOf v.b with
      | some l => if !l.restart then some { cls := clsENC }
          else if (va v).toNat % 32 ≠ 0 then some { cls := clsALN, vaddr := va v, kind := 5 } else none
      | none => some { cls := clsENC })
    (fun s v fail k => capturedIn s v v.g.asid (va v) 32 fail (fun s bs =>
      let scm2 := decide (bType o = 0) && decide (nfScm (v.fm o.sc.toNat) = 2)
      if fieldS bs 8 % 32 ≠ 0 ∨ fieldS bs 12 % 32 ≠ 0 ∨ (scm2 = decide (fieldA bs 16 = 0)) ∨ 3 < fieldOf bs 24 1 ∨ !zeroFrom bs 25 then
        .raise { cls := clsCBK, lanes := v.mask, vaddr := va v, kind := 5 } s
      else k s { scratch := false, addr := fieldA bs 0, kstride := fieldS bs 8, cstride := fieldS bs 12, scales := fieldA bs 16 }))
    (fun _ _ _ => true)
    (fun s v b => (List.range (kBlocks o)).flatMap (fun j =>
      (List.range 32).flatMap (fun c => rangeFrames s v.g.asid.toNat (columnAddr b.addr b.kstride b.cstride j c) 32) ++
      (if b.scales = 0 then [] else
        rangeFrames s v.g.asid.toNat (b.scales + BitVec.ofNat 64 (64 * j)) (kOf false (v.fm o.sc.toNat)))))
    (fun _ => none) va s

/-! ### Tiles (R279, R280) -/

/-- A matrix request of a group on a tile is outstanding: in the reservation table, or as a continuation. -/
def State.tileBusy (s : State) (h gi tile cluster : Nat) : Bool :=
  let mine (r : MReq) : Bool := decide (r.handle = h) && decide (r.gi = gi) && decide (r.tile = tile)
  (s.cluster cluster).reqs.any mine || (match AMap.get? s.blocks h with | some b => b.conts.any mine | none => false)

/-- A word on a bound tile, once the group's earlier operations on it are applied (R276). -/
def onTile (s : State) (v : View) (h : Head) (k : Nat) (go : State → Nat → Res) : Res :=
  if (v.units h).isEmpty then .ok s
  else match AMap.get? v.g.base.acc k with
    | none => .raise { cls := clsENC, lanes := if h.u then v.mask else v.lanes h } s
    | some t => if s.tileBusy v.handle v.gi t v.cluster then .hold (.tile t) s else go s t

/-- `aalloc` (R279, R376). -/
def execAalloc (h : Head) (o : F3) (s : State) : Out :=
  issue (.aalloc h o) h.s .notAud noRight (fun s v =>
    let t := (v.g.base.uni o.sa.toNat).toNat
    if !v.go h then .ok s
    else if v.b.groups.length * v.accs ≤ t then wordFault clsENC v s
    else .ok (v.put s { v.g.live with acc := AMap.put v.g.live.acc o.dst.toNat t })) s

/-- `afree` (R279): without effect on a handle that is not bound (R376). -/
def execAfree (h : Head) (o : F3) (s : State) : Out :=
  issue (.afree h o) h.s .notAud noRight (fun s v =>
    if !v.go h then .ok s else .ok (v.put s { v.g.live with acc := AMap.del v.g.live.acc o.dst.toNat })) s

/-- An element of a block's tile. -/
def Block.elem (b : Block) (t r c : Nat) : BitVec 48 := SMap.get (fun _ => 0) b.tiles (1024 * t + 32 * r + c)
/-- Write an element of a block's tile. -/
def Block.setElem (b : Block) (t r c : Nat) (x : BitVec 48) : Block :=
  { b with tiles := SMap.set (fun _ => 0) b.tiles (1024 * t + 32 * r + c) x }

/-- `azero` (R279). -/
def execAzero (h : Head) (o : F3) (s : State) : Out :=
  issue (.azero h o) h.s .notAud noRight (fun s v =>
    onTile s v h o.dst.toNat (fun s t =>
      .ok (s.modBlock v.handle (fun b => { b with tiles := b.tiles.filter (fun kv => decide (kv.1 / 1024 ≠ t)) })))) s

/-- The row of a lane (R280). -/
def tileRow (v : View) (h : Head) (o : F3) (l : Nat) : Nat := (v.src h (bit o.mod 14) o.sb l).toNat % 32

/-- `ald` (R280). -/
def execAld (h : Head) (o : F3) (s : State) : Out :=
  issue (.ald h o) h.s .notAud noRight (fun s v =>
    onTile s v h o.sa.toNat (fun s t =>
      let raw := bit o.mod 8
      let put (l : Nat) (r : Regs) : Regs :=
        (List.range (tileCols o)).foldl (fun r c =>
          let x := v.b.elem t (tileRow v h o l) (fldN o.mod 0 5 + c)
          if raw then
            putReg false (o.dst.toNat + 2 * c + 1) l tagF48L (BitVec.ofNat 32 (x.toNat % 2 ^ 16 * 2 ^ 16))
              (putReg false (o.dst.toNat + 2 * c) l tagF48H (x.extractLsb' 16 32) r)
          else putReg false (o.dst.toNat + c) l tagF32 (BitVec.ofNat 32 (F32.round (fldN o.mod 10 3) (F48.decode x.toNat) 0)) r) r
      .ok (v.longPut s (v.forUnits h put)))) s

/-- `aput` (R280, R377). -/
def execAput (h : Head) (o : F3) (s : State) : Out :=
  issue (.aput h o) h.s .notAud noRight (fun s v =>
    let raw := bit o.mod 8
    let tagsOk (l : Nat) : Bool := (List.range (tileRegs o)).all (fun k =>
      decide ((v.g.base.vec (o.sa.toNat + k) l).tag = if !raw then tagF32 else if k % 2 = 0 then tagF48H else tagF48L))
    let bad := (v.units h).filter (fun l => !tagsOk l)
    if (v.units h).isEmpty then .ok s
    else if (AMap.get? v.g.base.acc o.dst.toNat).isNone then .raise { cls := clsENC, lanes := v.lanes h } s
    else if !bad.isEmpty then .raise { cls := clsTAG, lanes := v.failMask h bad } s
    else onTile s v h o.dst.toNat (fun s t =>
      let val (l c : Nat) : BitVec 48 :=
        if raw then
          BitVec.ofNat 48 ((v.g.base.vec (o.sa.toNat + 2 * c) l).bits.toNat * 2 ^ 16 +
            (v.g.base.vec (o.sa.toNat + 2 * c + 1) l).bits.toNat / 2 ^ 16)
        else BitVec.ofNat 48 (F48.round 0 (F32.decode (v.g.base.vec (o.sa.toNat + c) l).bits.toNat) 0)
      .ok (s.modBlock v.handle (fun b =>
        (v.units h).foldl (fun b l => (List.range (tileCols o)).foldl (fun b c =>
          b.setElem t (tileRow v h o l) (fldN o.mod 0 5 + c) (val l c)) b) b)))) s

/-! ### Copies, gathers, collectives and `tmld` (R287–R291) -/

/-- A uniform pair operand as an address. -/
def View.pairAddr (v : View) (x : BitVec 8) : W64 := pair (v.g.base.uni x.toNat) (v.g.base.uni (x.toNat + 1))

/-- Capture an array line by line (R426), then go on with its bytes. -/
def capturedLines (s : State) (v : View) (at_ : W64) : Nat → W64 → Nat → List Byte → (State → List Byte → Res) → Res
  | 0, _, _, acc, k => k s acc
  | fuel + 1, va, n, acc, k =>
    if n = 0 then k s acc
    else
      let m := min n (64 - va.toNat % 64)
      capturedIn s v v.g.asid va m
        (fun s c f t => .raise { cls := c, lanes := v.mask, vaddr := at_, kind := 5, frame := f, tier := t } s)
        (fun s bs => capturedLines s v at_ fuel (va + BitVec.ofNat 64 m) (n - m) (acc ++ bs) k)

/-- `tmld` (R287, R376): the parent array is a control block, captured line by line at issue (R426). -/
def execTmld (h : Head) (o : F3) (s : State) : Out :=
  issue (.tmld h o) h.s .notAud noRight (fun s v =>
    let n := (v.g.base.uni o.sb.toNat).toNat
    let va := v.pairAddr o.sa
    if !v.go h then .ok s
    else if n = 0 ∨ 256 < n then wordFault clsENC v s
    else capturedLines s v va 6 va n [] (fun s bs =>
      submission s v 1 0 (fun s => .ok (s.submit v (v.engOp 1 (.tmld n) va bs (rangeFrames s v.g.asid.toNat va n)))))) s

/-- The fields of a copy descriptor are in range (R289). -/
def copyOk (bs : List Byte) : Bool :=
  decide (1 ≤ fieldOf bs 16 4 ∧ fieldOf bs 16 4 ≤ 2 ^ 24) && decide (1 ≤ fieldOf bs 20 4 ∧ fieldOf bs 20 4 ≤ 65535) &&
  decide (fieldOf bs 32 1 ≤ 3) && decide (3 ≤ fieldOf bs 33 1 ∧ fieldOf bs 33 1 ≤ 5) && decide (fieldOf bs 34 1 ≤ 3) && zeroFrom bs 35

/-- The fields of a gather descriptor are in range (R290). -/
def gatherOk (bs : List Byte) : Bool :=
  decide (1 ≤ fieldOf bs 24 4 ∧ fieldOf bs 24 4 ≤ 2 ^ 24) && decide (2 ≤ fieldOf bs 32 1 ∧ fieldOf bs 32 1 ≤ 12) &&
  decide (fieldOf bs 33 1 ≤ 7) && decide (3 ≤ fieldOf bs 34 1 ∧ fieldOf bs 34 1 ≤ 5) && decide (fieldOf bs 35 1 ≤ 3) && zeroFrom bs 36 &&
  decide (fieldOf bs 0 8 % 4 = 0) && decide (fieldOf bs 8 8 % 4 = 0) && decide (fieldOf bs 16 8 % 4 = 0) && decide (fieldS bs 28 % 4 = 0)

/-- One side of a transfer: a scratchpad range or a range of virtual addresses. -/
abbrev Side := Bool × W64

/-- The moves of a copy: source, destination and length, in order (R289). -/
def copyMoves (bs : List Byte) : List (Side × Side × Nat) :=
  let ssp : Bool := decide (fieldOf bs 32 1 % 2 = 1)
  let dsp : Bool := decide (fieldOf bs 32 1 / 2 % 2 = 1)
  (List.range (fieldOf bs 20 4)).map (fun (r : Nat) =>
    ((ssp, fieldA bs 0 + BitVec.ofInt 64 ((r : Int) * fieldS bs 24)),
     (dsp, fieldA bs 8 + BitVec.ofInt 64 ((r : Int) * fieldS bs 28)), fieldOf bs 16 4))

/-- The move of element `e` of a gather or scatter, by its index (R290). -/
def gatherMove (bs : List Byte) (scatter : Bool) (e : Nat) (index : W32) : Side × Side × Nat :=
  let flags : BitVec 8 := BitVec.ofNat 8 (fieldOf bs 33 1)
  let size := 2 ^ fieldOf bs 32 1
  let i : Int := if bit flags 0 then index.toNat else index.toInt
  let t : Side := (bit flags 2, fieldA bs 0 + BitVec.ofInt 64 (i * fieldS bs 28))
  let d : Side := (bit flags 1, fieldA bs 16 + BitVec.ofNat 64 (e * size))
  if scatter then (d, t, size) else (t, d, size)

/-- The moves of a gather or scatter whose indices are known, in order. -/
def gatherMoves (bs : List Byte) (scatter : Bool) (index : Nat → Option W32) : List (Side × Side × Nat) :=
  (List.range (fieldOf bs 24 4)).filterMap (fun e => (index e).map (gatherMove bs scatter e))

/-- The index words of a gather, as the module's memory holds them now, in a cold frame too; those of a page of the host or a peer are
known once they are read. -/
def gatherIndex (s : State) (a : Nat) (bs : List Byte) (e : Nat) : Option W32 :=
  let va := fieldA bs 8 + BitVec.ofNat 64 (4 * e)
  let word (pa : Nat) : W32 := BitVec.ofNat 32 (ofBytes (s.bytes pa 4))
  match (judge s none a .load va 1).2 with
  | .mem pa _ _ _ _ _ => some (word pa)
  | .missing f false _ => some (word (physAddr f (va.toNat % 65536)))
  | _ => none

/-- The frames that the memory sides of moves name. -/
def moveFrames (s : State) (a : Nat) (ms : List (Side × Side × Nat)) : List Nat :=
  ms.flatMap (fun m =>
    (if m.1.1 then [] else rangeFrames s a m.1.2 m.2.2) ++ (if m.2.1.1 then [] else rangeFrames s a m.2.1.2 m.2.2))

/-- A submission through a 64-byte descriptor named by a uniform pair (R276, R376): its alignment, its capture, the check
of its fields, then the operation. -/
def descriptorOp (i : Instr) (h : Head) (o : F3) (cls : Nat) (ok : List Byte → Bool)
    (more : State → View → List Byte → (State → List Byte → Res) → Res) (mk : State → View → List Byte → OpKind × List Nat) (s : State) : Out :=
  issue i h.s .notAud noRight (fun s v =>
    let va := v.pairAddr o.sa
    if !v.go h then .ok s
    else if va.toNat % 64 ≠ 0 then .raise { cls := clsALN, lanes := v.mask, vaddr := va, kind := 5 } s
    else captured s v va 64 (fun s bs =>
      if !ok bs then .raise { cls := clsCBK, lanes := v.mask, vaddr := va, kind := 5 } s
      else more s v bs (fun s bs =>
        submission s v cls 0 (fun s =>
          let (kind, frames) := mk s v bs
          .ok (s.submit v (v.engOp cls kind va bs frames)))))) s

/-- `cpy` (R289). -/
def execCpy (h : Head) (o : F3) (s : State) : Out :=
  descriptorOp (.cpy h o) h o 0 copyOk (fun s _ bs k => k s bs)
    (fun s v bs => (.copy, moveFrames s v.g.asid.toNat (copyMoves bs))) s

/-- The frames a gather or scatter in an ASID names, by its indices as memory holds them now. -/
def gatherFrames (s : State) (a : Nat) (bs : List Byte) (scatter : Bool) : List Nat :=
  rangeFrames s a (fieldA bs 8) (4 * fieldOf bs 24 4) ++ moveFrames s a (gatherMoves bs scatter (gatherIndex s a bs))

/-- `gth` (R290). -/
def execGth (h : Head) (o : F3) (s : State) : Out :=
  descriptorOp (.gth h o) h o 2 gatherOk (fun s _ bs k => k s bs) (fun s v bs => (.gather, gatherFrames s v.g.asid.toNat bs false)) s
/-- `sct` (R290). -/
def execSct (h : Head) (o : F3) (s : State) : Out :=
  descriptorOp (.sct h o) h o 2 gatherOk (fun s _ bs k => k s bs) (fun s v bs => (.scatter, gatherFrames s v.g.asid.toNat bs true)) s

/-- NMEM of a job descriptor (R291). -/
def jobNmem (bs : List Byte) : Nat := fieldOf bs 32 2
/-- RANK of a job descriptor. -/
def jobRank (bs : List Byte) : Nat := fieldOf bs 34 2

/-- COUNT of a job descriptor. -/
def jobCount (bs : List Byte) : Nat := fieldOf bs 24 4
/-- Elements SRC holds (R291). -/
def jobSrc (bs : List Byte) : Nat :=
  match fieldOf bs 0 1 with
  | 1 | 4 => jobNmem bs * jobCount bs
  | 3 => if jobRank bs = fieldOf bs 36 2 then jobCount bs else 0
  | _ => jobCount bs
/-- Elements DST receives (R291). -/
def jobDst (bs : List Byte) : Nat := match fieldOf bs 0 1 with | 2 | 4 => jobNmem bs * jobCount bs | _ => jobCount bs
/-- Chunks of a block: Cb of R292. -/
def jobCb (bs : List Byte) : Nat := cdiv (jobCount bs) (fieldOf bs 28 4)
/-- Chunks of this module's DST: MD of R292. -/
def jobChunks (bs : List Byte) : Nat := match fieldOf bs 0 1 with | 2 | 4 => jobNmem bs * jobCb bs | _ => jobCb bs

/-- The fields of a job descriptor are in range, but for its members (R291, R376). -/
def jobOk (bs : List Byte) : Bool :=
  let op := fieldOf bs 0 1
  let chunk := fieldOf bs 28 4
  decide (op ≤ 4) && (if op ≤ 1 then decide (fieldOf bs 1 1 ≤ 2) else decide (fieldOf bs 1 1 = 0)) &&
  decide (4 ≤ fieldOf bs 2 1 ∧ fieldOf bs 2 1 ≤ 5) && decide (fieldOf bs 3 1 = 0) &&
  decide (chunk % 32 = 0 ∧ 32 ≤ chunk ∧ chunk ≤ 1048576) && decide (2 ≤ jobNmem bs ∧ jobNmem bs ≤ 4096) &&
  decide (jobRank bs < jobNmem bs) &&
  (if op = 3 then decide (fieldOf bs 36 2 < jobNmem bs) else decide (fieldOf bs 36 2 = 0)) &&
  decide (fieldOf bs 38 2 = 0) && decide (fieldOf bs 40 8 % 8 = 0) && decide (fieldOf bs 48 8 % 8 = 0) && zeroFrom bs 56

/-- `coll` (R291, R376): the descriptor, then MEMBERS, whose entry RANK names this module. -/
def execColl (h : Head) (o : F3) (s : State) : Out :=
  descriptorOp (.coll h o) h o 3 jobOk
    (fun s v bs k =>
      capturedLines s v (v.pairAddr o.sa) 514 (fieldA bs 40) (8 * jobNmem bs) [] (fun s ms =>
        let bad := (List.range (jobNmem bs)).any (fun i => decide (64 ≤ fieldOf ms (8 * i + 4) 1) || decide (fieldOf ms (8 * i + 5) 3 ≠ 0))
        if bad ∨ fieldOf ms (8 * jobRank bs) 4 ≠ (s.reg 0 0x5080).toNat then
          .raise { cls := clsCBK, lanes := v.mask, vaddr := v.pairAddr o.sa, kind := 5 } s
        else k s (bs ++ ms)))
    (fun s v bs => (.coll (fieldOf bs 4 4),
      rangeFrames s v.g.asid.toNat (fieldA bs 8) (4 * jobSrc bs) ++ rangeFrames s v.g.asid.toNat (fieldA bs 16) (4 * jobDst bs) ++
      rangeFrames s v.g.asid.toNat (fieldA bs 48) (8 * cdiv (jobChunks bs) 64))) s

/-! ### Waiting (R277, R278, R380) -/

/-- The first failure that a `waitc` counts complete: at its depth, with at least `n` younger submissions (R380). -/
def dueFailure (g : Group) (cls n : Nat) : Option OpFailure :=
  g.failures.find? (fun f => decide (f.opcls = cls) && decide (f.depth = g.gates.length) && decide (f.seq + 1 + n ≤ g.subs.get cls))

/-- `waitc` (R277, R380): it waits for its counter, and delivers failures after submission one at a time. -/
def execWaitc (h : Head) (o : FI) (s : State) : Out :=
  issue (.waitc h o) h.s .notAud noRight (fun s v =>
    let n := fldN o.imm 0 6
    let cls := fldN o.imm 8 2
    if !v.go h then .ok s
    else if n < v.g.counters.get cls then .hold (.counter cls n) s
    else match dueFailure v.g cls n with
      | none => .ok s
      | some f =>
        .raise { cls := f.cls, lanes := f.mask, vaddr := f.vaddr, kind := 5, frame := f.frame, tier := f.tier, iaddr := some f.iaddr
                 sp := decide (f.cls = clsSPV) }
          (s.modGroup v.handle v.gi (fun g => { g with failures := g.failures.filter (fun x => decide (x ≠ f)) }))) s

/-- `cntr` (R278). -/
def execCntr (h : Head) (o : F3) (s : State) : Out :=
  issue (.cntr h o) h.s .notAud noRight (fun s v =>
    let c := v.g.counters
    if !v.go h then .ok s
    else .ok (v.put s (v.g.live.setUni o.dst.toNat
      (BitVec.ofNat 32 (c.cpy + 2 ^ 8 * c.mma + 2 ^ 16 * c.gth + 2 ^ 24 * c.col))))) s

end Sys2Proof.Machine
end

