-- ==== Sys2Proof/Machine/Frames.lean ====
section
/-! DEFINITION. Commands on frames: the operator's frame commands but PRESET, the owner's, tier moves, eviction, token-queue
descriptors, and the scrubber (R35–R38, R124, R304, R415–R421). -/

namespace Sys2Proof.Machine

/-! ### Missing pages that resolve (R131) -/

/-- The registers of a ring (R295): instance and first number. -/
def ringBase (r : Nat) : Nat × Nat :=
  if r < 1024 then (r / 16, 0x6100 + 8 * (r % 16)) else (0, 0x5500 + 8 * (r % 16))
/-- The partition of a ring; none for an operator ring. -/
def ringPart (r : Nat) : Option Nat := if r < 1024 then some (r / 16) else none
/-- A ring's state beyond its registers. -/
def State.ring (s : State) (r : Nat) : Ring := AMap.getD s.rings r {}
/-- Replace a ring. -/
def State.setRing (s : State) (r : Nat) (x : Ring) : State := { s with rings := AMap.put s.rings r x }
/-- STATE of a ring: 0 RUN, 1 ERROR, 2 PARKED (R295). -/
def State.ringState (s : State) (r : Nat) : Nat := s.regF (ringBase r).1 ((ringBase r).2 + 2) 6 2
/-- Set STATE of a ring. -/
def State.setRingState (s : State) (r x : Nat) : State := s.setRegF (ringBase r).1 ((ringBase r).2 + 2) 6 2 x

/-- The rotation of a partition: ROT while MEM = 1 (R331). -/
def State.rotOf (s : State) (p : Nat) : Option Nat :=
  if s.regF p 0x6034 4 1 = 1 then some (s.regF p 0x6034 0 4) else none
/-- A partition holds a rotation (R331). -/
def State.holds (s : State) (p : Nat) : Bool := (List.range 16).any (fun r => decide ((s.rot r).holder = some p))

/-- A ring may fetch as far as its partition goes: an operator ring always, a partition's while it holds its rotation
(R337, R430, R434). -/
def State.ringIn (s : State) (r : Nat) : Bool := match ringPart r with | none => true | some p => s.holds p

/-- A missing page of a ring resolves (R430, R434). -/
def ringResolve (s : State) (r : Nat) (k : PageKey) : State :=
  let x := s.ring r
  if x.missing.contains k then
    let m := x.missing.filter (fun y => decide (y ≠ k))
    let s := (s.setRing r { x with missing := m }).setRegF (ringBase r).1 ((ringBase r).2 + 5) 0 8 m.length
    if m.isEmpty && s.ringIn r && decide (s.ringState r = 2) then s.setRingState r 0 else s
  else s

/-- The inbound accesses held on a page are tried again, in their order (R323, R424). -/
def State.inboundAgain (s : State) (k : PageKey) : State :=
  { s with inbound := s.inbound.map (fun x => if x.2 = some k then (x.1, none) else x) }

/-- The hardware fields of a launch's task record, STEPNO, NEXT and DONE, are written (R53). A write that misses a frame waits for it
(R342), with one MSP record; one that fails another check is not made (DESIGN CHOICE: the spec says nothing of these writes; log 58). -/
def writeRecord (s : State) (lid : Nat) : State :=
  match AMap.get? s.launches lid with
  | none => s
  | some l =>
    let va := l.recVa + 52
    let set (s : State) (x : Option Nat) : State := { s with launches := AMap.modify s.launches lid (fun l => { l with unwritten := x }) }
    match vpost s l.asid (.done lid) va (toBytes l.stepno.toNat 4 ++ toBytes l.next 4 ++ toBytes l.done 4) with
    | (s, none) => set s none
    | (s, some (cls, f, _)) =>
      if cls ≠ clsMSP then set s none
      else if l.unwritten = some f then s
      else
        (set s (some f)).record
          { cls := clsMSP, vaddr := va, kind := if s.walkStops l.asid va then 6 else 2, part := l.part, frame := f, tier := s.tierOf f }
          (if l.part.isSome then .queue else .oper) |>.1

/-- Change a launch, and its task record with it. -/
def State.modLaunch (s : State) (lid : Nat) (f : Launch → Launch) : State :=
  writeRecord { s with launches := AMap.modify s.launches lid f } lid

/-- The task records whose writes wait for a page are written. -/
def writeWaiting (s : State) (k : PageKey) : State :=
  (s.launches.filter (fun l => decide (l.2.unwritten.map PageKey.frame = some k))).foldl (fun s l => writeRecord s l.1) s

/-- A missing page resolves for everything that waits for it (R131, R413, R398, R424, R430). -/
def State.resolvePage (s : State) (k : PageKey) : State :=
  let s := writeWaiting s k
  let s := s.rings.foldl (fun s r => ringResolve s r.1 k) s
  let s := s.inboundAgain k
  { s with
    blocks := s.blocks.map (fun b => (b.1, { b.2 with
      missing := b.2.missing.filter (fun y => decide (y ≠ k)), redo := if b.2.redo = .page (some k) then .page none else b.2.redo }))
    ops := s.ops.map (fun o => (o.1, { o.2 with waits := o.2.waits.filter (fun y => decide (y ≠ k)) }))
    launches := s.launches.map (fun l =>
      (l.1, { l.2 with
        again := l.2.again ++ (l.2.onPage.filter (fun x => decide (x.2 = k))).map (fun x => [x.1])
        onPage := l.2.onPage.filter (fun x => decide (x.2 ≠ k)) })) }

/-! ### Scrubbing (R415, R416) -/

/-- A frame leaves its owner for the scrubber: its frontier begins anew, it takes a free one, or it joins the queue. -/
def State.queueScrub (s : State) (f : Nat) : State :=
  if s.frontierFor f then s.startScrub f else { s with scrubQ := s.scrubQ ++ [f] }

/-- A frame in KIND 3 keeps its frontier or takes a free one ahead of the queue. -/
def State.takeFrontier (s : State) (f : Nat) : State :=
  if (AMap.get? s.frontiers f).isSome then s else { s.startScrub f with scrubQ := s.scrubQ.filter (fun x => decide (x ≠ f)) }

/-- The frontier of a frame ends: a frame in KIND 3 becomes free (R37, R415). -/
def State.endScrub (s : State) (f : Nat) : State :=
  let s := { s with frontiers := AMap.del s.frontiers f }
  if ftKind (s.ftEntry f) = 3 then s.setFt f (setFld (s.ftEntry f) 0 2 0) else s

/-- Zero the line at a frame's frontier, unless a write has zeroed it, and advance. -/
def State.scrubOne (s : State) (f : Nat) : State :=
  match AMap.get? s.frontiers f with
  | none => s
  | some fr =>
    let s := if fr.done.contains fr.next then s
      else
        let s := { s with mem := memPut s.mem (physAddr f (128 * fr.next)) (List.replicate 128 0) }
        s.healLine (512 * f + fr.next)
    let s := { s with
      frontiers := AMap.put s.frontiers f { next := fr.next + 1, done := fr.done.filter (fun l => decide (l ≠ fr.next)) } }
    if fr.next + 1 = 512 then s.endScrub f else s

/-- Complete a frame's scrub, line by line. -/
def State.scrubAll (s : State) (f : Nat) : Nat → State
  | 0 => s
  | n + 1 => if (AMap.get? s.frontiers f).isSome then State.scrubAll (s.scrubOne f) f n else s

/-! ### The operator's frame commands (R37) -/

/-- How a frame command fares. -/
inductive FtRes where
  /-- Performed. -/
  | done (s : State)
  /-- Its requirement is not met. -/
  | bad
  /-- It waits with BUSY = 1. -/
  | wait

/-- Requirement and effect of a frame command other than PRESET on frame `f` (R37, R416, R418). -/
def ftDo (s : State) (opc pa pb : Nat) (opm : Bool) (f : Nat) : FtRes :=
  let e := s.ftEntry f
  let k := ftKind e
  let free (x : W64) (g : State → State) : FtRes :=
    if k = 0 then .done (g (s.setFt f x))
    else if k ≠ 3 then .bad
    else if s.frontierFor f then .done (g ((s.takeFrontier f).setFt f x)) else .wait
  let release (e : W64) : FtRes :=
    if s.pinned f then .wait
    else .done ((s.setFt f (setFld (setFld (setFld (setFld e 0 2 3) 9 1 0) 20 1 0) 21 1 0)).queueScrub f)
  match opc with
  | 1 => free (ftMake 1 pa false false false false false 0 true false false) (fun s => s.setPool pa (f :: s.pool pa))
  | 2 =>
    if k = 1 ∧ ftPool e then
      let p := ftPart e
      .done ((s.setPool p ((s.pool p).filter (fun x => decide (x ≠ f)))).setFt f
        (setFld (setFld e 19 1 0) 0 2 (if (AMap.get? s.frontiers f).isSome then 3 else 0)))
    else .bad
  | 3 => free (ftMake 2 0 false false false false false 0 false false false) id
  | 4 => if k = 2 then release e else .bad
  | 5 =>
    if k = 2 ∧ !ftWin e then
      .done (s.setFt f (setFld (setFld (setFld (setFld (setFld (setFld e 9 1 1) 2 6 pa) 13 6 (if opm then pa else pb)) 10 1 (b2n opm))
        11 1 0) 12 1 0))
    else .bad
  | 6 => if k = 2 ∧ ftWin e then release (setFld (setFld e 11 1 0) 12 1 0) else .bad
  | 7 => if k = 2 ∧ !ftWin e then .done (s.setFt f (setFld e 20 1 1)) else .bad
  | 9 => if k = 2 ∧ !ftWin e ∧ !ftAub e then .done (s.setFt f (setFld e 21 1 1)) else .bad
  | _ => .bad

/-- The status code of a core's last command (R418). -/
def State.ftStatus (s : State) (core code : Nat) : State := s.setRegF core 0x2086 0 3 code

/-- A core's frame command: performed, refused, or waiting with BUSY = 1. -/
def ftRun (s : State) (core opc pa pb : Nat) (opm : Bool) (f : Nat) : State :=
  if Config.frames ≤ f then s.ftStatus core 2
  else match ftDo s opc pa pb opm f with
    | .done s => s.ftStatus core 0
    | .bad => s.ftStatus core 1
    | .wait =>
      { s.setRegF core 0x2080 31 1 1 with
        ftWaits := s.ftWaits ++ [{ core, opc := opc + 16 * pa + 1024 * pb + 65536 * b2n opm, pa, frame := f }] }

/-! ### Tier moves (R124) -/

/-- The code of a location in LOC. -/
def locCode : Loc → Nat
  | .hbm => 0
  | .cxl _ => 1
  | .cold _ => 2
/-- The CXL port of a location. -/
def locPort : Loc → Option Nat
  | .hbm => none
  | .cxl p => some p
  | .cold p => some p

/-- A frame a tier command may name (R124). -/
def tierOk (s : State) (f : Nat) : Bool :=
  (decide (ftKind (s.ftEntry f) = 1) && !ftPool (s.ftEntry f)) || decide (ftKind (s.ftEntry f) = 2)

/-- An operation or an inbound access waits for a missing frame, or for a table frame of its walk (R413, R424). -/
def State.frameAwaited (s : State) (f : Nat) : Bool :=
  s.ops.any (fun o => o.2.waits.contains (.frame f)) || s.inbound.any (fun x => decide (x.2 = some (.frame f)))

/-- What pins a frame holds a move of it (R124), unless the frame is in CXL cold and an operation waits for it: that operation
cannot complete but by the very move that brings the frame in (R413). DEDUCED: log 56. -/
def State.moveHeld (s : State) (f : Nat) : Bool := s.pinned f && !(s.isCold f && s.frameAwaited f)

/-- A move of the frame is copying: it is in progress and nothing holds it. -/
def State.moving (s : State) (f : Nat) : Bool := s.moves.any (fun m => decide (m.frame = f)) && !s.moveHeld f

/-- The register of a tier command takes what a command ended with (R124): LOC, PIN and BUSY 0. -/
def State.tierReport (s : State) (core f : Nat) : State :=
  let s := s.setRegF core 0x2082 3 2 (if s.moving f then 3 else locCode (s.locOf f))
  (s.setRegF core 0x2082 5 1 (b2n (s.pinned f))).setRegF core 0x2082 31 1 0

/-- The tier command a code names for a destination: 1 HBM, 2 CXL direct, 3 CXL cold. -/
def tierDest (f opc : Nat) : Loc := if opc = 1 then .hbm else if opc = 2 then .cxl (f % 8) else .cold (f % 8)

/-- A core's tier command (R124, R418). -/
def tierRun (s : State) (core opc f : Nat) : State :=
  if Config.frames ≤ f then s.ftStatus core 2
  else if !tierOk s f then (s.tierReport core f).ftStatus core 1
  else if opc = 4 then (s.tierReport core f).ftStatus core 0
  else
    { s.setRegF core 0x2082 31 1 1 with moves := s.moves ++ [{ frame := f, dest := tierDest f opc, core, evict := false }] }

/-- A line of a frame holds an uncorrectable error that a read would meet (R420). -/
def State.frameBad (s : State) (f : Nat) : Bool :=
  (s.badLines ++ s.l2Bad).any (fun l => decide (l / 512 = f) && !s.unscrubbed f (l % 512))

/-- The register of the command a move belongs to reports its end. -/
def moveReport (s : State) (m : Move) (code : Nat) : State :=
  let s := s.ftStatus m.core code
  if m.evict then (s.setRegF m.core 0x2087 31 1 0).setReg m.core 0x2088 (if code = 0 then BitVec.ofNat 32 m.frame else 0xFFFFFFFF#32)
  else s.tierReport m.core m.frame

/-- A move ends (R124, R415, R420, R421): the scrub of the frame is completed, its bytes are copied, and every TLB entry that
maps it goes; a cold frame brought in resolves its page. A destination tier that already holds its full capacity takes the frame all
the same (DESIGN CHOICE: R124 and R418 state no outcome; log 58). -/
def moveDo (s : State) (m : Move) : State :=
  let f := m.frame
  let src := s.locOf f
  let s := { s with moves := s.moves.filter (fun x => decide (x ≠ m)) }
  let down (l : Loc) : Bool := match locPort l with | some p => !s.portUp p | none => false
  if !tierOk s f then moveReport s m 1
  else if src = m.dest then moveReport s m 0
  else if down src || down m.dest then moveReport s m 4
  else if s.frameBad f then
    let e := s.ftEntry f
    let part := if ftKind e = 1 then some (ftPart e) else none
    let line := (s.badLines ++ s.l2Bad).find? (fun l => decide (l / 512 = f) && !s.unscrubbed f (l % 512))
    let unit := (line.bind (fun l => s.eccUnit (128 * l) 128 false)).getD 0
    moveReport (s.record { cls := clsECC, part, frame := f, tier := s.tierOf f, unit, ukind := 7 } .queue).1 m 4
  else
    let s := s.scrubAll f 512
    let s := (s.setLoc f m.dest).tlbDrop (fun e => e.maps f)
    let s := moveReport s m 0
    match src, m.dest with
    | .cold _, .hbm => s.resolvePage (.frame f)
    | .cold _, .cxl _ => s.resolvePage (.frame f)
    | _, _ => s

/-! ### Eviction (R419) -/

/-- The candidates of an eviction, in the order of the search: a frame whose own move still waits for PIN = 0 is in HBM, and one. -/
def evCandidates (s : State) (part : Nat) (opf : Bool) : List Nat :=
  let ok (fe : Nat × W64) : Bool :=
    decide (s.locOf fe.1 = .hbm) && !s.moving fe.1 &&
    (if opf then decide (ftKind fe.2 = 2) else decide (ftKind fe.2 = 1) && decide (ftPart fe.2 = part) && !ftPool fe.2)
  let fs := (s.fot.filter ok).map (·.1)
  fs.filter (fun f => decide (s.lastEvicted < f)) ++ fs.filter (fun f => decide (f ≤ s.lastEvicted))

/-- A search of `evcmd`: a candidate is chosen and moved, or the search waits, or there is none. -/
def evRun (s : State) (core part : Nat) (opf cold : Bool) : State :=
  let cs := evCandidates s part opf
  match cs.find? (fun f => !s.pinned f) with
  | some f =>
    { s.setRegF core 0x2087 31 1 1 with
      moves := s.moves ++ [{ frame := f, dest := if cold then .cold (f % 8) else .cxl (f % 8), core, evict := true }]
      lastEvicted := f }
  | none =>
    if cs.isEmpty then ((s.setRegF core 0x2087 31 1 0).setReg core 0x2088 0xFFFFFFFF#32).ftStatus core 3
    else { s.setRegF core 0x2087 31 1 1 with evWaits := s.evWaits ++ [{ core, part, opf, cold }] }

/-- Frame commands and searches that waited are tried again (R416, R418, R419); then queued frames take free frontiers. -/
def State.retryFrames (s : State) : State :=
  let ws := s.ftWaits
  let s := ws.foldl (fun s w =>
    ftRun (s.setRegF w.core 0x2080 31 1 0) w.core (w.opc % 16) w.pa (w.opc / 1024 % 64) (decide (w.opc / 65536 = 1)) w.frame)
    { s with ftWaits := [] }
  let es := s.evWaits
  let s := es.foldl (fun s w => evRun s w.core w.part w.opf w.cold) { s with evWaits := [] }
  match s.scrubQ with
  | [] => s
  | f :: fs => if s.frontiers.length < 4096 then { s.startScrub f with scrubQ := fs } else s

/-! ### Token-queue descriptors (R304) -/

/-- The 64 bytes of a fresh queue descriptor (R244). -/
def queueBytes (slots pprod pcons : Nat) : List Byte :=
  List.replicate 12 0 ++ toBytes slots 2 ++ [0, 0] ++ toBytes pprod 1 ++ toBytes pcons 1 ++ List.replicate 46 0

/-- A core's `tqcmd` (R304, R418). -/
def tqRun (s : State) (core off slots f : Nat) : State :=
  let e := s.ftEntry f
  if Config.frames ≤ f then s.ftStatus core 2
  else if ftKind e ≠ 2 ∨ !ftWin e ∨ !(List.range 12).any (fun k => decide (slots = 2 ^ (k + 1))) then s.ftStatus core 1
  else match s.physWrite (physAddr f (64 * off)) (queueBytes slots (ftPart e) (ftPb e)) with
    | .error u => ((s.record { cls := clsECC, kind := 2, frame := f, tier := s.tierOf f, unit := u, ukind := 7 } .oper).1).ftStatus core 4
    | .ok s => { s with tokenQueues := (f, off) :: s.tokenQueues.filter (fun x => decide (x ≠ (f, off))) }.ftStatus core 0

/-! ### The owner's frame commands (R38) -/

/-- A partition's `pfcmd` (R38, R418): 1 ARM, 2 DISARM, 3 CTLMARK. -/
def pfRun (s : State) (p opc f : Nat) : State :=
  let e := s.ftEntry f
  let code (s : State) (c : Nat) : State := s.setRegF p 0x6022 0 2 c
  let win := decide (ftKind e = 2) && ftWin e && (decide (ftPart e = p) || decide (ftPb e = p))
  let armBit := if ftPart e = p then 11 else 12
  if Config.frames ≤ f then code s 2
  else if opc = 3 then
    if ftKind e = 1 ∧ ftPart e = p ∧ !ftPool e then code ((s.setFt f (setFld e 8 1 1)).tlbDrop (fun t => t.maps f)) 0 else code s 1
  else if win then code ((s.setFt f (setFld e armBit 1 (if opc = 1 then 1 else 0))).tlbDrop (fun t => t.maps f)) 0
  else code s 1

end Sys2Proof.Machine
end

