-- ==== Sys2Proof/Machine/Contexts.lean ====
section
/-! DEFINITION. Contexts and cores: the resources of R69, a context's leaving and entering a core with its divergence areas
and continuations (R60, R69, R286, R387, R397), and the discarding of contexts. -/

namespace Sys2Proof.Machine

/-! ### Resources (R69) -/

/-- What a block needs of a core and its cluster: group slots, registers a lane, bytes of scratchpad, tiles and resident-block places. -/
structure Need where
  slots : Nat
  regs : Nat
  bytes : Nat
  tiles : Nat
  places : Nat := 1

/-- Needs by GROUPS, REGS, SCRATCH and ACCS (R69). -/
def needOf (groups regs scratch accs : Nat) : Need :=
  { slots := groups, regs := groups * regs, bytes := 1024 * cdiv scratch 4, tiles := groups * accs }
/-- The needs of a launch's blocks. -/
def Launch.need (l : Launch) : Need := needOf l.groups l.regs l.scratch l.accs
/-- The needs of a context. -/
def Block.need (b : Block) : Need := needOf b.groups.length b.regsN b.scratchN b.accs

/-- A group's resources are released: it has exited and its outstanding counters are 0 (R70). -/
def Group.released (g : Group) : Bool := decide (g.exited = allLanes) && decide (g.counters = {}) && g.gates.isEmpty

/-- The tenant blocks resident on a core. -/
def tenantsOn (s : State) (core : Nat) : List (Nat × Block) :=
  s.blocks.filter (fun hb => decide (hb.2.place = .core core) && (match hb.2.owner with | .launch _ => true | _ => false))

/-- The group slots in use on a core (R70). -/
def slotsUsed (s : State) (core : Nat) : List Nat :=
  (tenantsOn s core).flatMap (fun hb =>
    (List.range hb.2.groups.length).filterMap (fun gi =>
      match hb.2.groups[gi]? with
      | some g => if g.released then none else some (hb.2.gslots.getD gi 0)
      | none => none))

/-- The register allocation in use on a core. -/
def regsUsed (s : State) (core : Nat) : Nat :=
  (tenantsOn s core).foldl (fun n hb => n + hb.2.regsN * (hb.2.groups.filter (fun g => !g.released)).length) 0

/-- The scratchpad runs in use on a core: offset and bytes. -/
def runsUsed (s : State) (core : Nat) : List (Nat × Nat) := (tenantsOn s core).map (fun hb => (hb.2.spOff, hb.2.need.bytes))

/-- The tiles in use in a cluster. -/
def tilesUsed (s : State) (cluster : Nat) : List Nat :=
  [0, 1, 2, 3].flatMap (fun k => (tenantsOn s (4 * cluster + k)).flatMap (fun hb => hb.2.phys))

/-- The lowest free scratchpad run of some bytes, at a multiple of 1,024. -/
def freeRun (used : List (Nat × Nat)) (n : Nat) : Option Nat :=
  (List.range 257).findSome? (fun k =>
    let o := 1024 * k
    if o + n ≤ 262144 ∧ (used.all (fun r => decide (n = 0) || decide (r.2 = 0) || decide (o + n ≤ r.1) || decide (r.1 + r.2 ≤ o))) then some o
    else none)

/-- Runs for a list of needs, each the lowest free one; none when one does not fit. -/
def runsFor (used : List (Nat × Nat)) : List Need → Option (List (Nat × Nat))
  | [] => some used
  | n :: ns =>
    match freeRun used n.bytes with
    | some o => runsFor ((o, n.bytes) :: used) ns
    | none => none

/-- A resource summed over needs. -/
def sumOf (f : Need → Nat) (ns : List Need) : Nat := ns.foldl (fun a m => a + f m) 0
/-- The needs among some with their cores that lie on one core. -/
def needsOn (core : Nat) (extra : List (Nat × Need)) : List Need := (extra.filter (fun e => decide (e.1 = core))).map (·.2)
/-- The needs among some with their cores that lie on one cluster. -/
def needsNear (core : Nat) (extra : List (Nat × Need)) : List Need := (extra.filter (fun e => decide (e.1 / 4 = core / 4))).map (·.2)

/-- A need fits a core beside what is resident there and beside other needs reserved on cores of its cluster (R69, R72). -/
def fitsWith (s : State) (core : Nat) (n : Need) (extra : List (Nat × Need)) : Bool :=
  let here := needsOn core extra
  decide ((tenantsOn s core).length + sumOf Need.places here + n.places ≤ 16) &&
  decide ((slotsUsed s core).length + sumOf Need.slots here + n.slots ≤ 31) &&
  decide (regsUsed s core + sumOf Need.regs here + n.regs ≤ 4096) &&
  (runsFor (runsUsed s core) (here ++ [n])).isSome &&
  decide ((tilesUsed s (core / 4)).length + sumOf Need.tiles (needsNear core extra) + n.tiles ≤ 64)

/-- The lowest numbers below a bound that a list does not hold. -/
def lowest (bound n : Nat) (used : List Nat) : List Nat := ((List.range bound).filter (fun k => !used.contains k)).take n

/-! ### Where blocks may run (R69, R75, R338) -/

/-- The die of a core (R18). -/
def dieOf (core : Nat) : Nat := core / 96

/-- The dies on which a launch's partition holds clusters; for an operator launch those with clusters held by none. -/
def heldDies (s : State) (part : Option Nat) : List Nat :=
  (List.range Config.dies).filter (fun d => (List.range 24).any (fun i => decide (s.clusterPart (24 * d + i) = part)))

/-- The die set the rule of R338 builds. -/
def dieRule (s : State) (l : Launch) : List Nat := (heldDies s l.part).take l.maxdie

/-- The die set of a launch: as it stands, or before its first block as R75 chooses. -/
def launchDies (s : State) (l : Launch) : List Nat := if l.chosen then l.dies else dieRule s l

/-- A core belongs to a launch's clusters and dies. -/
def eligible (s : State) (l : Launch) (core : Nat) : Bool :=
  decide (s.clusterPart (core / 4) = l.part) && (launchDies s l).contains (dieOf core)

/-- The cores of a launch's clusters and dies, in ascending number. -/
def eligibleCores (s : State) (l : Launch) : List Nat :=
  (((List.range Config.dies).filter (launchDies s l).contains).flatMap (fun d => (List.range 96).map (fun i => 96 * d + i))).filter (fun c => eligible s l c)

/-- What a reservation holds (R72). -/
def Spot.need (p : Spot) (l : Launch) : Need :=
  { slots := p.slots, regs := p.regs, bytes := if p.run then l.need.bytes else 0, tiles := p.tiles, places := b2n p.place }
/-- A block's place is reserved: everything it needs on one core. -/
def Spot.full (p : Spot) (l : Launch) : Bool :=
  decide (p.slots = l.need.slots) && decide (p.regs = l.need.regs) && decide (p.tiles = l.need.tiles) && p.run && p.place
/-- The whole place of a block on a core. -/
def wholeOf (l : Launch) (index core : Nat) : Spot :=
  { index, core, slots := l.need.slots, regs := l.need.regs, tiles := l.need.tiles, run := true, place := true }

/-- What gangs have reserved on the clusters they may still use, but for one launch's block: for all its cores, or for one. -/
def reservedBut (s : State) (lid index : Nat) (core : Option Nat) : List (Nat × Need) :=
  s.launches.flatMap (fun l =>
    match l.2.gang with
    | none => []
    | some g => (g.spots.filter (fun p => eligible s l.2 p.core &&
        !(decide (l.1 = lid) && decide (p.index = index) && (match core with | some c => decide (p.core = c) | none => true)))).map
        (fun p => (p.core, p.need l.2)))

/-- Free group slots of a core, beside needs that are to lie there. -/
def freeSlots (s : State) (extra : List (Nat × Need)) (core : Nat) : Nat :=
  31 - ((slotsUsed s core).length + sumOf Need.slots (needsOn core extra))

/-- The better of two cores: the one with more free group slots, the lower at a tie (R69). -/
def betterCore (s : State) (extra : List (Nat × Need)) (best : Option Nat) (core : Nat) : Option Nat :=
  match best with
  | none => some core
  | some b => if freeSlots s extra b < freeSlots s extra core then some core else some b

/-- The core the scheduler takes for a need (R69), beside what gangs have reserved. -/
def chooseCore (s : State) (l : Launch) (n : Need) (extra : List (Nat × Need)) : Option Nat :=
  ((eligibleCores s l).filter (fun c => fitsWith s c n extra)).foldl (betterCore s extra) none

/-! ### Leaving a core -/

/-- Entries of a group's divergence area in memory: below the innermost call they lie in spill images (R60, R237). -/
def Group.areaDepth (g : Group) : Nat := match g.gates.getLast? with | some f => f.depth | none => g.depth
/-- The ASID of a group outside its calls. -/
def Group.homeAsid (g : Group) : BitVec 11 := match g.gates.getLast? with | some f => f.asid | none => g.asid

/-- The state as though no frame were in CXL cold: the hardware's own reading of a context. -/
def State.warm (s : State) : State :=
  { s with loc := s.loc.map (fun x => (x.1, match x.2 with | .cold p => .cxl p | l => l)) }

/-- The bytes of a group's divergence area, or the failure of a read (R387). -/
def areaRead (s : State) (g : Group) : Nat → Except (Nat × Nat × Nat × W64) (List Byte)
  | 0 => .ok []
  | n + 1 =>
    match areaRead s g n with
    | .error e => .error e
    | .ok bs =>
      let va := g.divBase + BitVec.ofNat 64 (16 * n)
      match (areaGet s.warm g g.homeAsid.toNat va n).2 with
      | .ok x => .ok (bs ++ x)
      | .error (c, f, u) => .error (c, f, u, va)

/-- A group takes the entries of its divergence area with it (R82); a read that fails kills it as a pop's does (R387). Entries whose copy
to the area of its present place was not done are still with it (R60). -/
def saveArea (s : State) (h gi : Nat) : State :=
  match s.group? h gi with
  | none => s
  | some g =>
    if !g.area.isEmpty then s else
    match areaRead s g g.areaDepth with
    | .ok bs => s.modGroup h gi (fun g => { g with area := bs })
    | .error (c, f, u, va) =>
      let r : Rec :=
        { s.recOf h gi c with
          kill := true, iaddr := g.slot0.pc, vaddr := va, kind := if s.warm.walkStops g.homeAsid.toNat va then 6 else 1
          lanes := g.slot0.mask ||| g.slot1.mask, frame := f, unit := u, ukind := if c = clsECC then 7 else 0
          tier := s.failTier g.homeAsid.toNat .load va }
      killGroup (s.record r (g.ownerTo ((AMap.get? s.blocks h).bind Block.part?))).1 h gi

/-- A matrix request becomes a continuation (R286): a B address in the block's own allocation is kept as its offset there
(R397). -/
def contOf (b : Block) (r : MReq) : MReq :=
  if !r.scratch then r
  else
    let base := 2 ^ 18 * b.spPos + b.spOff
    let a := r.baddr.toNat
    if base ≤ a ∧ a + 1024 * r.n ≤ base + 256 * b.scratchN then
      { r with own := true, baddr := BitVec.ofNat 64 (a - base), bscales := BitVec.ofNat 64 (r.bscales.toNat - base) }
    else { r with own := false }

/-! ### Entering a core -/

/-- Write a group's divergence area on its new core and slot (R60); a missing page is counted, an error in a line that
an entry is written into is reported (R420), another failure kills the group (R387). -/
def areaWrite (s : State) (h gi : Nat) (g : Group) (k : Nat) (bs : List Byte) : State :=
  match go (cdiv bs.length 16) 0 s with
  | (s, true) => s.modGroup h gi (fun g => { g with area := [] })
  | (s, false) => s
where
  /-- The entries from one on, oldest first, and whether all of them were written. -/
  go : Nat → Nat → State → State × Bool
    | 0, _, s => (s, true)
    | n + 1, i, s =>
      let va := g.divBase + BitVec.ofNat 64 (16 * (k + i))
      match areaPut s h gi g.homeAsid.toNat va (k + i) ((bs.drop (16 * i)).take 16) with
      | (s, none) => go n (i + 1) s
      | (s, some (c, f, u)) =>
        let r : Rec :=
          { s.recOf h gi c with
            iaddr := g.slot0.pc, vaddr := va, kind := if s.walkStops g.homeAsid.toNat va then 6 else 2, lanes := g.slot0.mask ||| g.slot1.mask
            frame := f, unit := u, ukind := if c = clsECC then 7 else 0, tier := s.failTier g.homeAsid.toNat .store va }
        if c = clsMSP then
          ((go n (i + 1) ((s.modGroup h gi (fun g => { g with stopped := true })).addMissing h gi (.frame f) r)).1, false)
        else if r.kind = 2 ∧ c = clsECC then go n (i + 1) (s.record r (g.ownerTo ((AMap.get? s.blocks h).bind Block.part?))).1
        else (killGroup (s.record { r with kill := true } (g.ownerTo ((AMap.get? s.blocks h).bind Block.part?))).1 h gi, false)

/-- The hardware copies a group's spill images to those of its new core and slot with its divergence area (R60, R237); a write
that fails ends as a write of the area does (R387). -/
def spillWrite (s : State) (h gi core slot : Nat) : State :=
  let depth := match s.group? h gi with | some g => g.gates.length | none => 0
  (List.range depth).foldl (fun s k =>
    match s.group? h gi with
    | none => s
    | some g =>
      if g.exited = allLanes then s
      else
        let p := (asidPart g.homeAsid.toNat).getD 0
        let img := s.reg64 p 0x6044 + BitVec.ofNat 64 (65536 * (4 * (31 * core + slot) + k))
        let image := match g.gates.reverse[k]? with | some f => f.image | none => 0
        match vpost s (16 * p) .post img (spillBytes s p h (k + 1) image) with
        | (s, none) => s
        | (s, some (c, f, u)) =>
          let r : Rec :=
            { s.recOf h gi c with
              iaddr := g.slot0.pc, vaddr := img, kind := if s.walkStops (16 * p) img then 6 else 2
              lanes := g.slot0.mask ||| g.slot1.mask, frame := f, unit := u, ukind := if c = clsECC then 7 else 0
              tier := s.failTier (16 * p) .store img }
          if c = clsMSP then (s.modGroup h gi (fun g => { g with stopped := true })).addMissing h gi (.frame f) r
          else if r.kind = 2 ∧ c = clsECC then (s.record r (g.ownerTo ((AMap.get? s.blocks h).bind Block.part?))).1
          else killGroup (s.record { r with kill := true } (g.ownerTo ((AMap.get? s.blocks h).bind Block.part?))).1 h gi) s

/-- The address of a group's divergence area (R60). -/
def areaBase (base : W64) (limit core slot : Nat) : W64 := base + BitVec.ofNat 64 (16 * limit * (31 * core + slot))

/-- The reader that fetches host and peer lines for an engine operation. -/
def opReader (id : Nat) : Nat := 2 ^ 40 + id

/-- A submission of a group was found to fail (R380): its failure, told apart by class and order. -/
def opFail (o : EngOp) (depth cls : Nat) (va : W64) (frame tier : Nat) : OpFailure :=
  { opcls := o.cls, seq := o.seq, depth, cls, iaddr := o.iaddr, vaddr := va, mask := o.mask, frame, tier }

/-- Note a failure of an operation, the first that is found; `unit` names what holds an uncorrectable error, and KIND is 6 for one met in a
walk (R407). -/
def State.failOp (s : State) (id cls frame tier unit : Nat) (kind : Nat := 5) : State :=
  { s with ops := AMap.modify s.ops id (fun o =>
      if o.fail.isSome then o
      else { o with fail := some { opFail o (match o.owner with | .group _ _ d => d | _ => 0) cls o.va frame tier with unit, kind } }) }

/-- The engine accepts a context's continuations in their order (R397): those whose B lay in the allocation are rebased, one
whose B lay in another scratchpad range retires without a pass, with class CBK. -/
def acceptConts (s : State) (h core : Nat) : State :=
  match AMap.get? s.blocks h with
  | none => s
  | some b =>
    let base := 2 ^ 18 * (core % 4) + b.spOff
    let keep := b.conts.filter (fun r => !r.scratch || r.own)
    let drop := b.conts.filter (fun r => r.scratch && !r.own)
    let fix (r : MReq) : MReq :=
      if r.own then
        { r with own := false, baddr := BitVec.ofNat 64 (base + r.baddr.toNat), bscales := BitVec.ofNat 64 (base + r.bscales.toNat) }
      else r
    let s := drop.foldl (fun s r => s.failOp r.op clsCBK noFrame noTier 0) s
    let s := keep.foldl (fun s r => { s with ops := AMap.modify s.ops r.op (fun o => { o with cluster := core / 4 }) }) s
    let c := s.cluster (core / 4)
    let s := s.setCluster (core / 4) { c with reqs := c.reqs ++ keep.map fix, placing := c.placing.filter (fun x => decide (x ≠ h)) }
    s.modBlock h (fun b => { b with conts := [] })

/-- A `place` still waits to place a context (R397). -/
def State.awaited (s : State) (h : Nat) : Bool :=
  s.blocks.any (fun x => x.2.groups.any (fun g => decide (g.placing = some h) && decide (g.exited ≠ allLanes)))

/-- The reservation table of a cluster serves the contexts that wait to be placed, in their order, as far as its free entries go: the
continuations of a resident one are accepted; one that no `place` waits for any more gives its turn up (R397). -/
def serveFor : Nat → State → Nat → State
  | 0, s, _ => s
  | n + 1, s, cluster =>
    match (s.cluster cluster).placing with
    | [] => s
    | h :: _ =>
      let drop : State := s.setCluster cluster { s.cluster cluster with placing := (s.cluster cluster).placing.drop 1 }
      match AMap.get? s.blocks h with
      | some b =>
        match b.place with
        | .core core =>
          if 32 < (s.cluster cluster).reqs.length + b.conts.length then s
          else serveFor n (if core / 4 = cluster then acceptConts s h core else drop) cluster
        | _ => if s.awaited h then s else serveFor n drop cluster
      | none => serveFor n drop cluster

/-- The contexts that wait for entries of a cluster's reservation table are served. -/
def serveWaiting (s : State) (cluster : Nat) : State := serveFor (s.cluster cluster).placing.length s cluster

/-- A context leaves its core for a place: its divergence areas are saved, its matrix requests become continuations, and its
resources are free (R131, R286). -/
def leaveCore (s : State) (h : Nat) (dest : Place) : State :=
  match AMap.get? s.blocks h with
  | none => s
  | some b =>
    match b.place with
    | .core core =>
      let s := (List.range b.groups.length).foldl (fun s gi => saveArea s h gi) s
      let c := s.cluster (core / 4)
      let mine := c.reqs.filter (fun r => decide (r.handle = h))
      let s := s.setCluster (core / 4) { c with reqs := c.reqs.filter (fun r => decide (r.handle ≠ h)), placing := c.placing.filter (fun x => decide (x ≠ h)) }
      let s := s.modBlock h (fun b =>
        { b with
          place := dest, gslots := [], phys := [], conts := b.conts ++ mine.map (contOf b)
          groups := b.groups.map (fun g => { g with active := false }) })
      promote (serveWaiting s (core / 4)) core
    | _ => s.modBlock h (fun b => { b with place := dest })

/-- A context takes its place on a core (R60, R69, R397): the lowest free slots, run and tiles, its divergence areas, and its
continuations, which may have to wait. -/
def enterCore (s : State) (h core : Nat) : State :=
  match AMap.get? s.blocks h with
  | none => s
  | some b =>
    let slots := lowest 31 b.groups.length (slotsUsed s core)
    let off := (freeRun (runsUsed s core) b.need.bytes).getD 0
    let tiles := lowest 64 (b.groups.length * b.accs) (tilesUsed s (core / 4))
    let base : W64 := match s.launchOf b with | some l => l.divBase | none => 0
    let now := s.ccount (core / 4)
    let s := s.modBlock h (fun b =>
      { b with
        place := .core core, stopping := false, gslots := slots, spOff := off, spPos := core % 4, phys := tiles
        groups := (List.range b.groups.length).filterMap (fun gi =>
          (b.groups[gi]?).map (fun g =>
            { g with divBase := areaBase base g.divLimit core (slots.getD gi 0), active := false, age := now, stopped := false })) })
    let moved (gi : Nat) (g : Group) : Bool :=
      match b.groups[gi]? with | some old => decide (old.divBase ≠ g.divBase) | none => false
    let s := (List.range b.groups.length).foldl (fun s gi =>
      match s.group? h gi with
      | some g =>
        let s := areaWrite s h gi g 0 g.area
        if moved gi g then spillWrite s h gi core (slots.getD gi 0) else s
      | none => s) s
    let c := s.cluster (core / 4)
    let s := if b.conts.isEmpty then s else s.setCluster (core / 4) { c with placing := if c.placing.contains h then c.placing else c.placing ++ [h] }
    promote (serveWaiting s (core / 4)) core

/-! ### Discarding -/

/-- Every reservation table serves the contexts that wait for it. -/
def serveAll (s : State) : State := s.clusters.foldl (fun s c => if c.2.placing.isEmpty then s else serveWaiting s c.1) s

/-- The engine operations of a context are cancelled: its matrix requests leave the table and nothing of it completes. -/
def cancelOps (s : State) (h : Nat) : State :=
  let mine (o : EngOp) : Bool := match o.owner with | .group x _ _ => decide (x = h) | _ => false
  serveAll { s with
    ops := s.ops.filter (fun o => !mine o.2)
    clusters := s.clusters.map (fun c =>
      (c.1, { c.2 with reqs := c.2.reqs.filter (fun r => decide (r.handle ≠ h)), placing := c.2.placing.filter (fun x => decide (x ≠ h)) })) }

/-- A context is gone: its block, its operations, its accesses and its husks (R44, R345, R449). -/
def dropContext (s : State) (h : Nat) : State :=
  let core := (AMap.get? s.blocks h).bind Block.core?
  let s := (cancelOps s h).loseRemotes (fun r => decide (r.handle = h))
  let s := { s with
    blocks := AMap.del s.blocks h
    husks := s.husks.map (fun k => if k.handle = h ∧ k.kind = 0 then { k with placeable := false } else k)
    parts := s.parts.map (fun p => (p.1, { p.2 with
      awaiting := p.2.awaiting.filter (fun x => decide (x ≠ h)), later := p.2.later.filter (fun x => decide (x ≠ h)) })) }
  match core with
  | some c => promote s c
  | none => s

end Sys2Proof.Machine
end

