-- ==== Sys2Proof/Machine/Replay.lean ====
section
/-! DEFINITION. The replay of held accesses when a context is placed (R131, R132, R412, R463). -/

namespace Sys2Proof.Machine

/-- What a held access does, for the checks of R403. -/
def Held.acc (a : Held) : Acc :=
  match a.kind with
  | .load => .load
  | .store => .store
  | .atomic => .atomic (decide (a.aty ≠ 3) && (decide (a.aop = 0) || decide (a.aop = 6) || decide (a.aop = 7)))

/-- The lanes of a held access. -/
def Held.lanes (a : Held) : W32 := if a.uniform then a.mask else 1#32 <<< a.lane
/-- WID of a held access. -/
def Held.wid (a : Held) : Nat := bitLen a.w - 1

/-- The record of a held access. -/
def Held.record (a : Held) (s : State) (h gi cls : Nat) : Rec :=
  { s.recOf h gi cls with
    iaddr := a.iaddr, vaddr := a.va, kind := kindOf a.kind, wid := a.wid, lanes := a.lanes }

/-- The record of a group that no handler takes goes to its owner. -/
def State.recordOf (s : State) (h gi : Nat) (r : Rec) : State :=
  match s.group? h gi with
  | some g => (s.record r (g.ownerTo ((AMap.get? s.blocks h).bind Block.part?))).1
  | none => s

/-- A result of an earlier word arrives (R57, R132): in the run's results, and in the registers themselves when the run has
ended. -/
def Group.putResult (g : Group) (u : Bool) (reg lane : Nat) (tag : BitVec 4) (iaddr : W64) (bs : List Byte) : Group :=
  let live := Regs.putLate u reg lane tag iaddr (bytesRegs bs) g.live
  { g with live, base := if g.inRun then g.base else live }

/-- A failure joins those of the same word, class and kind at its handler level: one record names their lanes, and the access of
the lowest. -/
def joinFailure (f : RemoteFailure) (fs : List RemoteFailure) : List RemoteFailure :=
  let same (x : RemoteFailure) : Bool :=
    decide (x.cls = f.cls) && decide (x.iaddr = f.iaddr) && decide (x.kind = f.kind) && decide (x.level = f.level)
  if fs.any same then
    fs.map (fun x =>
      if same x then { (if lowLane x.lanes ≤ lowLane f.lanes then x else f) with lanes := x.lanes ||| f.lanes } else x)
  else fs ++ [f]

/-- A held access is discarded for a class other than a missing page (R412): the group is to enter its handler at its first
word, once for the lanes of one word that fail alike; a call that ended leaves only the record. -/
def discard (s : State) (h gi : Nat) (a : Held) (cls frame tier : Nat) : State :=
  match s.group? h gi with
  | none => s
  | some g =>
    if g.asid = a.asid then
      s.modGroup h gi (fun g =>
        { g with
          pend := joinFailure { cls, iaddr := a.iaddr, vaddr := a.va, lanes := a.lanes, kind := kindOf a.kind, wid := a.wid, tier, frame
                                level := g.level } g.pend })
    else s.recordOf h gi { a.record s h gi cls with frame, tier }

/-- Replay one held access: performed, on its way to the host or a peer, discarded, or missing again, with the frame, whether it is a
table frame, and whether the page is SO or of a kind not yet known. -/
def replayOne (s : State) (h gi core : Nat) (a : Held) : State × Option (Nat × Bool × Bool) :=
  if a.rem then (discard s h gi a clsREM a.frame 2, none)
  else
    let (s, t) := judge s (some core) a.asid.toNat a.acc a.va a.w
    match t with
    | .missing f tb so => (s, some (f, tb, so))
    | .fail c f tier => (discard s h gi a c f tier, none)
    | .firstTouch => (discard s h gi a clsFTP noFrame noTier, none)
    | .ecc f u =>
      let r : Rec := { a.record s h gi clsECC with kill := true, kind := 6, frame := f, tier := s.tierOf f, unit := u, ukind := 7 }
      (killGroup (s.recordOf h gi r) h gi, none)
    | .mem pa _ _ _ _ _ =>
      match memPerform s pa a.kind a.w a.data a.aop a.aty with
      | .ok (s, bs) =>
        (match a.dst with
        | some d => s.modGroup h gi (fun g => g.putResult a.uniform d a.lane a.tag a.iaddr bs)
        | none => s, none)
      | .error u =>
        let f := pa / 65536
        let r : Rec :=
          { a.record s h gi clsECC with kill := decide (a.kind ≠ .store), frame := f, tier := s.tierOf f, unit := u, ukind := 7 }
        let s := s.recordOf h gi r
        (if a.kind = .store then s else killGroup s h gi, none)
    | t =>
      let base : Remote :=
        { handle := h, gi, lane := a.lane, uniform := a.uniform, kind := a.kind, va := a.va, w := a.w, data := a.data, aop := a.aop,
          aty := a.aty, dst := a.dst, tag := a.tag, iaddr := a.iaddr, mask := a.mask, wid := a.wid, host := true, addr := 0, frame := 0,
          tgt := 0, pasid := 0, page := 0, asid := a.asid, auth := a.auth, acq := false, xlat := false, fill := none, seq := a.seq, due := 0 }
      match t with
      | .host ha f so _ =>
        (s.sendRemote { base with addr := ha, frame := f, acq := so || a.acq, pasid := s.pasidOf a.asid.toNat, page := ha / 4096 }, none)
      | .peer tgt ad f so _ => (s.sendRemote { base with host := false, addr := ad, frame := f, tgt, acq := so || a.acq }, none)
      | _ => (s, none)

/-- A held access that misses a page again. -/
def Held.again (a : Held) (m : Nat × Bool × Bool) : Held :=
  { a with
    page := some (.frame m.1), table := m.2.1, so := m.2.2, acq := a.acq || (m.2.2 && decide (a.kind ≠ .store))
    spot := if m.2.1 then none else some (0, physAddr m.1 (a.va.toNat % 65536)) }

/-- Replay a group's held accesses in issue order; an access behind one that stays held, or that is on its way to the host or a peer,
stays held too (R132, R134–R149). -/
def replayAll (h gi core : Nat) : State → List Held → List (Held × Option (Nat × Bool)) → State × List (Held × Option (Nat × Bool))
  | s, [], kept => (s, kept)
  | s, a :: as, kept =>
    let release : Bool := a.so && decide (a.kind ≠ .load) && !(s.remotesOf h gi).isEmpty
    if kept.any (fun k => k.1.seen.before a.seen) || s.remoteBefore h gi a.seen || release then
      replayAll h gi core s as (kept ++ [({ a with page := none }, none)])
    else
      match replayOne s h gi core a with
      | (s, some m) => replayAll h gi core s as (kept ++ [(a.again m, some (m.1, m.2.1))])
      | (s, none) => replayAll h gi core s as kept

/-- The pages that kept accesses miss are counted, one record a page with the lanes held on it (R409). -/
def countKept (h gi : Nat) (kept : List (Held × Option (Nat × Bool))) (s : State) : State :=
  kept.foldl (fun s k =>
    match k.2 with
    | none => s
    | some (f, tb) =>
      let on := kept.filter (fun x => decide (x.2.map (·.1) = some f))
      let low := on.foldl (fun b x => if x.1.lane < b.lane then x.1 else b) k.1
      s.addMissing h gi (.frame f)
        { low.record s h gi clsMSP with
          kind := if tb then 6 else kindOf low.kind, lanes := on.foldl (fun m x => m ||| x.1.lanes) 0, frame := f, tier := s.tierOf f }) s

/-- Replay a group, then settle what waited for its divergence area (R132, R387, R412). -/
def replayGroup (s : State) (h gi core : Nat) : State :=
  match s.group? h gi with
  | none => s
  | some g =>
    let (s, kept) := replayAll h gi core (s.modGroup h gi (fun g => { g with held := [] })) g.held []
    let alive := match s.group? h gi with | some g => decide (g.exited ≠ allLanes) | none => false
    let s := if alive then countKept h gi kept (s.modGroup h gi (fun g => { g with held := kept.map (·.1) })) else s
    match s.group? h gi with
    | none => s
    | some g => if g.inRun || g.ending || !g.area.isEmpty then s else settle settleFuel s h gi

/-- A group of a block issues again only when the block misses no page and the group awaits no host or peer. -/
def freeGroups (s : State) (h : Nat) : State :=
  match AMap.get? s.blocks h with
  | none => s
  | some b =>
    (List.range b.groups.length).foldl (fun s gi =>
      s.modGroup h gi (fun g => { g with stopped := !b.missing.isEmpty || !(s.remotesOf h gi).isEmpty })) s

/-- A context is placed on a core, and its held accesses are replayed before any of its words issues (R132, R412). -/
def placeOn (s : State) (h core : Nat) : State :=
  let s := enterCore s h core
  match AMap.get? s.blocks h with
  | none => s
  | some b =>
    promote (freeGroups ((List.range b.groups.length).foldl (fun s gi => replayGroup s h gi core) s) h) core

end Sys2Proof.Machine
end

