-- ==== Sys2Proof/Machine/Husks.lean ====
section
/-! DEFINITION. Husks: their bytes, sealing and placing (R46, R47, R240, R253, R254, R396, R397, R449), with the words `seal`
and `place`. -/

namespace Sys2Proof.Machine

/-! ### Bytes -/

/-- The header of a husk but for its tag (R46). -/
def Husk.header (k : Husk) : List Byte :=
  toBytes 1 4 ++ toBytes k.part 1 ++ toBytes k.kind 1 ++ [0, 0] ++ toBytes k.handle 4 ++ toBytes k.serial 4 ++ toBytes k.gt 8 ++
  toBytes k.len 4 ++ toBytes k.gen.toNat 4 ++ toBytes k.handle 4 ++ toBytes k.serial 4 ++ List.replicate 8 0

/-- The IV of a husk (R46). -/
def Husk.iv (k : Husk) : List Byte := toBytes k.handle 4 ++ toBytes k.serial 4 ++ List.replicate 4 0

/-- The key a husk is sealed under (R43): the husk key, or the checkpoint husk key. DESIGN CHOICE: a context of no partition goes by
the key of partition code 0xFF (log 12). -/
def State.sealKey (s : State) (k : Husk) : List Byte :=
  if k.kind = 0 then huskKey (s.partKey k.part) k.handle k.serial else ckptKey (s.partKey k.part) k.handle k.serial k.gt

/-- The bytes of a husk (R46): its header with the GCM tag, and its body as AES-256-GCM ciphertext. DEDUCED: the authenticated data are
bytes 0–47 of the header, all but the tag (log 12). -/
def State.huskBytes (s : State) (k : Husk) : List Byte :=
  let key := s.sealKey k
  let body := gcmCipher key k.iv ((List.range k.len).map (Config.huskByte k.handle k.serial k.kind k.gt))
  k.header ++ gcmTag key k.iv k.header body ++ body

/-- Bytes pass as a husk (R46, R254): the header is the husk's, and the tag is that of the header and the body. -/
def State.huskOpens (s : State) (k : Husk) (bs : List Byte) : Bool :=
  decide (bs.take 48 = k.header) && decide ((bs.drop 48).take 16 = gcmTag (s.sealKey k) k.iv k.header (bs.drop 64))

/-- A husk's length, and the length as the next 64-byte aligned husk counts it. -/
def Husk.total (k : Husk) : Nat := 64 + k.len
/-- The space a husk takes in an area. -/
def Husk.space (k : Husk) : Nat := 64 * cdiv k.total 64

/-- The partition code of a husk: 0xFF for a context of an operator launch. -/
def Block.partCode (b : Block) : Nat := b.part?.getD 0xFF
/-- The generation a husk carries. -/
def State.genOf (s : State) (part : Option Nat) : W32 := match part with | some p => s.reg p 0x6010 | none => 0

/-- The husk of a context sealed now: KIND 0 takes the next serial, KIND 1 the present one (R46, R341). -/
def huskOf (s : State) (h : Nat) (b : Block) (kind gt : Nat) : Husk :=
  let serial := if kind = 0 then b.serial + 1 else b.serial
  { part := b.partCode, handle := h, serial, kind, gt, len := min (Config.huskLength h serial) 1572800, gen := s.genOf b.part?
    placeable := decide (kind = 0) }

/-- Write bytes at virtual addresses, page by page (R253). -/
def writeLong (use : HwUse) (asid : Nat) : Nat → State → W64 → List Byte → State × Option WriteFail
  | 0, s, _, _ => (s, none)
  | fuel + 1, s, va, bs =>
    if bs.isEmpty then (s, none)
    else
      let n := 65536 - va.toNat % 65536
      match vpost s asid use va (bs.take n) with
      | (s, some (cls, frame, unit)) => (s, some { cls, frame, tier := s.failTier asid .store va, unit, va })
      | (s, none) => writeLong use asid fuel s (va + BitVec.ofNat 64 n) (bs.drop n)

/-- A bound on the pages of a husk, of a frame or of a manifest. -/
def longFuel : Nat := 65536

/-! ### Sealing -/

/-- What the hardware keeps of a partition. -/
def State.part (s : State) (p : Nat) : Part := AMap.getD s.parts p {}
/-- Replace it. -/
def State.setPart (s : State) (p : Nat) (x : Part) : State := { s with parts := AMap.put s.parts p x }
/-- `rotstat`.STATE: 0 out, 1 holding, 2 draining, 3 forced sealing (R331). -/
def State.turnState (s : State) (p : Nat) : Nat := s.regF p 0x6035 0 2

/-- A scratchpad range of a transfer lies in an allocation. -/
def sideIn (cluster base len : Nat) (o : EngOp) (x : Side) : Bool :=
  x.1 && decide (o.cluster = cluster) && decide (base ≤ x.2.toNat ∧ x.2.toNat < base + len)

/-- The moves of an operation's descriptor. -/
def EngOp.sides (s : State) (o : EngOp) : List (Side × Side × Nat) :=
  match o.kind with
  | .copy => copyMoves o.block
  | .gather => gatherMoves o.block false (gatherIndex s o.asid.toNat o.block)
  | .scatter => gatherMoves o.block true (gatherIndex s o.asid.toNat o.block)
  | _ => []

/-- An outstanding copy, gather or scatter names scratchpad of a context's allocation (R131). -/
def State.spInUse (s : State) (b : Block) : Bool :=
  match b.core? with
  | none => false
  | some core =>
    s.ops.any (fun o => !o.2.done && (o.2.sides s).any (fun m =>
      sideIn (core / 4) (2 ^ 18 * b.spPos + b.spOff) b.need.bytes o.2 m.1 ||
      sideIn (core / 4) (2 ^ 18 * b.spPos + b.spOff) b.need.bytes o.2 m.2.1))

/-- Nothing keeps a context on its core: no group is inside an operator-gate call (R240), no host or peer access of it is
outstanding, and no transfer uses its scratchpad. -/
def State.sealable (s : State) (h : Nat) : Bool :=
  match AMap.get? s.blocks h with
  | none => false
  | some b => !b.groups.any Group.inOperGate && !s.remotes.any (fun x => decide (x.2.handle = h)) && !s.spInUse b

/-- A context that is to be sealed is stopped: its groups outside operator-gate calls issue no further word (R240, R253, R255). DESIGN
CHOICE: one whose sealing is given up (its group ended) stays stopped until it is sealed (log 20). -/
def State.stopContext (s : State) (h : Nat) : State := s.modBlock h (fun b => { b with stopping := true })

/-- A `seal`, `pmpt` or forced sealing names a context: the operator-gate calls without a limit get their deadline (R396). -/
def State.boundGates (s : State) (h : Nat) : State :=
  let now := s.gt
  s.modBlock h (fun b =>
    { b with groups := b.groups.map (fun g =>
        { g with gates := g.gates.map (fun f =>
            if 256 ≤ f.gate ∧ f.noLimit ∧ f.deadline.isNone then { f with deadline := some now } else f) }) })

/-- A context has a placeable husk. -/
def State.placeable (s : State) (h : Nat) : Bool := s.husks.any (fun k => decide (k.handle = h) && k.placeable)

/-- An `fput` that forced sealing finds waiting stops at the lane it has come to (R382). -/
def Group.stopLong (g : Group) : Group :=
  let stop (d : Bool) (g : Group) : Group :=
    let x := g.slot d
    if x.upto = 0 then g else ({ g with prog := BitVec.ofNat 16 x.upto }).setSlot d { x with upto := 0 }
  stop true (stop false g)

/-- How far a sealing has come. -/
inductive Sealing where
  /-- The husk is written. -/
  | done (k : Husk)
  /-- Bytes of it are on their way to the host or a peer. -/
  | away
  /-- It cannot be written. -/
  | failed (e : WriteFail)

/-- Bytes of a husk of a context are on their way to the host or a peer. -/
def State.huskAway (s : State) (h : Nat) : Bool := s.remotes.any (fun x => decide (x.2.hw = some (.husk h)))

/-- A husk of a context is written whole (R253): the context leaves its core, its serial advances and its older husks are stale. -/
def sealed (s : State) (h : Nat) (k : Husk) (dest : Place) : State :=
  let s := leaveCore s h dest
  let s := s.modBlock h (fun b =>
    { b with serial := k.serial, halted := false, huskOut := none, huskFail := none, groups := b.groups.map Group.stopLong })
  { s with husks := k :: s.husks.map (fun x => if x.handle = h then { x with placeable := false } else x) }

/-- A husk that cannot be written leaves its context stopped, its serial unchanged (R448, R449). -/
def sealFailed (s : State) (h : Nat) : State := s.modBlock h (fun b => { b with halted := true, huskOut := none, huskFail := none })

/-- Seal a context into a husk at an address (R253). What goes to the host or a peer is awaited: the context stays as it is until the last
byte is acknowledged, and an access that fails fails the sealing (R448, R449). -/
def sealAt (s : State) (h asid : Nat) (va : W64) (dest : Place) : State × Sealing :=
  match AMap.get? s.blocks h with
  | none => (s, .failed { cls := 0, frame := noFrame, tier := noTier, unit := 0, va })
  | some b =>
    if s.huskAway h then (s, .away)
    else match b.huskOut, b.huskFail with
      | some (gt, a, at_), fail =>
        if a = asid ∧ at_ = va then
          match fail with
          | some e => (sealFailed s h, .failed e)
          | none => let k := huskOf s h b 0 gt; (sealed s h k dest, .done k)
        else write s b
      | none, _ => write s b
where
  /-- The husk's bytes are written. -/
  write (s : State) (b : Block) : State × Sealing :=
    let k := huskOf s h b 0 s.gt
    match writeLong (.husk h) asid longFuel s va (s.huskBytes k) with
    | (s, some e) => (sealFailed s h, .failed e)
    | (s, none) =>
      if s.huskAway h then
        (s.modBlock h (fun b => { b with stopping := true, huskOut := some (k.gt, asid, va), huskFail := none }), .away)
      else (sealed s h k dest, .done k)

/-- The outcome of a word whose long write failed: it stops at a missing page, else the class is raised (R376, R449). -/
def writeFailed (s : State) (v : View) (e : WriteFail) (kind : Nat) : Res :=
  if e.cls = clsMSP then
    .stop (s.addMissing v.handle v.gi (e.page.getD (.frame e.frame))
      { v.mkRec clsMSP with vaddr := e.va, kind, frame := e.frame, tier := e.tier })
  else
    .raise { cls := e.cls, lanes := v.mask, vaddr := e.va, kind, frame := e.frame, tier := e.tier, unit := e.unit
             ukind := if e.cls = clsECC then 7 else 0, kill := decide (e.cls = clsECC) } s

/-- The reader number of a group. -/
def groupReader (h gi : Nat) : Nat := 4096 + 32 * h + gi

/-- The outcome of a word whose fetch did not end with bytes. -/
def fetchFailed (s : State) (v : View) (e : Fetch) : Res :=
  match e with
  | .ok _ => .ok s
  | .wait => .hold (.fetch (groupReader v.handle v.gi)) s
  | .fail cls frame tier unit va => writeFailed (s.fetchDone (groupReader v.handle v.gi)) v { cls, frame, tier, unit, va } 5
  | .missing f table va =>
    .stop (s.addMissing v.handle v.gi (.frame f)
      { v.mkRec clsMSP with vaddr := va, kind := if table then 6 else 5, frame := f, tier := s.tierOf f })

/-- A handle names a context. -/
def State.isContext (s : State) (h : Nat) : Bool :=
  match AMap.get? s.blocks h with
  | some b => match b.owner with | .launch _ => true | _ => false
  | none => false

/-- A context sealed by `seal` while its partition's turn ends counts among those the turn's end has sealed, and is placed with them
(R334, R336, R346); under `pmpt` only `place` places what is sealed. -/
def sealPlace (s : State) (ctx : Nat) (va : W64) : State × Place :=
  match (AMap.get? s.blocks ctx).bind (fun b => if b.core?.isSome then b.part? else none) with
  | none => (s, .sealed)
  | some p =>
    if s.turnState p < 2 ∨ (s.part p).pmpt.isSome then (s, .sealed)
    else (s.setPart p { s.part p with awaiting := (s.part p).awaiting ++ [ctx] }, .husk va)

/-- `seal` (R253, R376, R449). -/
def execSeal (h : Head) (o : F3) (s : State) : Out :=
  issue (.seal h o) h.s .oper noRight (fun s v =>
    let va := v.pairAddr o.sa
    let ctx := (v.g.base.uni o.sb.toNat).toNat
    let ret (s : State) (n : Nat) : Res := .ok (s.modGroup v.handle v.gi (fun g =>
      { g with live := g.live.setUni o.dst.toNat (BitVec.ofNat 32 n), longRun := true }))
    if !v.go h then .ok s
    else if va.toNat % 64 ≠ 0 then .raise { cls := clsALN, lanes := v.mask, vaddr := va, kind := 5 } s
    else if !s.isContext ctx || s.placeable ctx then ret s 0
    else if !s.sealable ctx then .hold (.gateOut ctx) ((s.boundGates ctx).stopContext ctx)
    else
      let (t, dest) := sealPlace s ctx va
      match sealAt s ctx v.g.asid.toNat va dest with
      | (s, .failed e) => writeFailed s v e 2
      | (s, .away) => .hold (.husked ctx) s
      | (s, .done k) => ret { s with parts := t.parts } k.total) s

/-! ### Placing -/

/-- A core can take a context (R69, R254, R339): its cluster is the partition's, its die may join the launch's set, and its
resources suffice beside what is reserved for gangs (R72). -/
def canPlace (s : State) (b : Block) (core : Nat) : Bool :=
  decide (core < Config.cores) && decide (s.clusterPart (core / 4) = b.part?) &&
  (match s.launchOf b with
  | some l => l.dies.contains (dieOf core) || decide (l.dies.length < l.maxdie)
  | none => true) &&
  fitsWith s core b.need (reservedBut s s.nextLaunch 0 none)

/-- The die of a placement joins the launch's set (R339). -/
def joinDie (s : State) (b : Block) (core : Nat) : State :=
  match b.launch with
  | none => s
  | some l => { s with launches := AMap.modify s.launches l (fun l =>
      if l.dies.contains (dieOf core) then l else { l with dies := (List.range Config.dies).filter (fun d => l.dies.contains d || decide (d = dieOf core)) }) }

/-- The husks of a context are consumed: it runs again. -/
def State.consume (s : State) (h : Nat) : State :=
  { s with
    husks := s.husks.map (fun k => if k.handle = h then { k with placeable := false } else k)
    parts := s.parts.map (fun p => (p.1, { p.2 with
      awaiting := p.2.awaiting.filter (fun x => decide (x ≠ h)), later := p.2.later.filter (fun x => decide (x ≠ h)) })) }

/-- The status of a `place` whose husk's header reads as `hd` (R254): 0, with the context, when it may be placed. The tag
is checked only for the husk that the header names. -/
def placeStatus (s : State) (reader asid : Nat) (va : W64) (core : Nat) (hd : List Byte) : State × Except Fetch (Nat × Nat) :=
  let named (k : Husk) : Bool :=
    k.placeable && decide (k.kind = 0) && decide (k.kind = (fieldOf hd 5 1)) && decide (k.handle = fieldOf hd 8 4) &&
    decide (k.serial = fieldOf hd 12 4) && decide (k.gen.toNat = fieldOf hd 28 4)
  match s.husks.find? named with
  | none => (s, .ok (1, 0))
  | some k =>
    if hd.take 48 ≠ k.header then (s, .ok (2, 0))
    else match fetchVia reader asid longFuel s va k.total with
      | (s, .ok bs) =>
        if !s.huskOpens k bs then (s, .ok (2, 0))
        else match AMap.get? s.blocks k.handle with
          | none => (s, .ok (1, 0))
          | some b =>
            if !canPlace s b core then (s, .ok (3, 0))
            else if !b.missing.isEmpty then (s, .ok (4, 0))
            else (s, .ok (0, k.handle))
      | (s, e) => (s, .error e)

/-- The reservation table of a core's cluster can take a context's continuations, ahead of every later submission (R397). -/
def contsFit (s : State) (h core : Nat) : Bool :=
  let c := s.cluster (core / 4)
  match AMap.get? s.blocks h with
  | some b => b.conts.isEmpty || ((c.placing.isEmpty || decide (c.placing.head? = some h)) && decide (c.reqs.length + b.conts.length ≤ 32))
  | none => true

/-- A context waits for entries of a cluster's reservation table (R397). -/
def reserveFor (s : State) (h core : Nat) : State :=
  let c := s.cluster (core / 4)
  if c.placing.contains h then s else s.setCluster (core / 4) { c with placing := c.placing ++ [h] }

/-- A `place` that ends waits no more for entries of a reservation table (R397). -/
def endPlacing (s : State) (v : View) : State :=
  if v.g.placing.isNone then s else serveAll (s.modGroup v.handle v.gi (fun g => { g with placing := none }))

/-- `place` (R254, R339, R397, R449). -/
def execPlace (h : Head) (o : F3) (s : State) : Out :=
  issue (.place h o) h.s .oper noRight (fun s v =>
    let va := v.pairAddr o.sa
    let core := (v.g.base.uni o.sb.toNat).toNat
    let asid := v.g.asid.toNat
    let reader := groupReader v.handle v.gi
    let ret (s : State) (n : Nat) : Res := .ok (((endPlacing s v).fetchDone reader).modGroup v.handle v.gi (fun g =>
      { g with live := g.live.setUni o.dst.toNat (BitVec.ofNat 32 n), longRun := true }))
    let failed (s : State) (e : Fetch) : Res := fetchFailed (match e with | .wait => s | _ => endPlacing s v) v e
    if !v.go h then .ok s
    else if va.toNat % 64 ≠ 0 then .raise { cls := clsALN, lanes := v.mask, vaddr := va, kind := 5 } s
    else match fetchVia reader asid 2 s va 64 with
      | (s, .ok hd) =>
        match placeStatus s reader asid va core hd with
        | (s, .error e) => failed s e
        | (s, .ok (0, ctx)) =>
          match AMap.get? s.blocks ctx with
          | none => ret s 1
          | some b =>
            if contsFit s ctx core then ret (placeOn ((joinDie s b core).consume ctx) ctx core) 0
            else
              let s := s.modGroup v.handle v.gi (fun g => { g with placing := some ctx })
              .hold (.placeRoom core b.conts.length) (reserveFor s ctx core)
        | (s, .ok (n, _)) => ret s n
      | (s, e) => failed s e) s

end Sys2Proof.Machine
end

