-- ==== Sys2Proof/Machine/RingRegs.lean ====
section
/-! DEFINITION. The registers of a command ring and their writes (R295, R429, R431, R432, R434). -/

namespace Sys2Proof.Machine

/-- A register word of a ring. -/
def State.ringReg (s : State) (r k : Nat) : W32 := s.reg (ringBase r).1 ((ringBase r).2 + k)
/-- Write a register word of a ring. -/
def State.setRingReg (s : State) (r k : Nat) (x : W32) : State := s.setReg (ringBase r).1 ((ringBase r).2 + k) x
/-- LOGN (R295). -/
def State.ringLogn (s : State) (r : Nat) : Nat := fldN (s.ringReg r 2) 0 5
/-- EN. -/
def State.ringEn (s : State) (r : Nat) : Bool := bit (s.ringReg r 2) 5
/-- TAIL. -/
def State.ringTail (s : State) (r : Nat) : Nat := fldN (s.ringReg r 3) 0 31
/-- INDEX. -/
def State.ringIndex (s : State) (r : Nat) : Nat := fldN (s.ringReg r 4) 0 31
/-- Write INDEX. -/
def State.setRingIndex (s : State) (r x : Nat) : State := s.setRingReg r 4 (setFld (s.ringReg r 4) 0 31 x)

/-- The ASID a ring's packets are fetched in (R295). -/
def ringAsid (r : Nat) : Nat := match ringPart r with | some p => 16 * p | none => 0x400

/-- A record of a ring, delivered as R (R430, R431, R433). -/
def State.ringRecord (s : State) (r cls : Nat) (va : W64) (kind frame tier unit : Nat) : State :=
  let rc : Rec :=
    { cls, vaddr := va, kind, part := ringPart r, frame, tier, unit
      ukind := if cls = clsECC then 7 else 0 }
  (s.record rc (if (ringPart r).isSome then .queue else .oper)).1

/-- The packets from the fetch point up to TAIL (R297): none where TAIL stands below it. -/
def State.ringLeft (s : State) (r tail : Nat) : Nat := qdiff tail (s.ringIndex r) - qdiff (s.ring r).fetch (s.ringIndex r)

/-- LOGN of a write of `hqctl` lies outside 4–16 (R295). -/
def lognBad (x : W32) : Bool := decide (fldN x 0 5 < 4) || decide (16 < fldN x 0 5)

/-- A command has a cell of its own; its removal leaves nothing behind. -/
def State.dropCmds (s : State) (ids : List Nat) : State := { s with cmds := s.cmds.filter (fun c => !ids.contains c.1) }

/-- INDEX advances over every packet all of whose commands have retired, in index order (R299). -/
def ringAdvance (r : Nat) : Nat → State → State
  | 0, s => s
  | n + 1, s =>
    match (s.ring r).packets with
    | [] => s
    | p :: ps =>
      if p.cmds.all (fun c => match AMap.get? s.cmds c with | some c => c.retired | none => true) then
        let s := (s.dropCmds p.cmds).setRing r { s.ring r with packets := ps }
        ringAdvance r n (s.setRingIndex r ((p.index + 1) % 2 ^ 31))
      else s

/-- Advance as far as the fetched packets allow; while the ring's partition is out, INDEX stays as saved (R434). -/
def State.ringAdvance (s : State) (r : Nat) : State :=
  if s.ringIn r then Sys2Proof.Machine.ringAdvance r (s.ring r).packets.length s else s

/-- A write of TAIL takes effect and is judged (R431), whether or not the ring is enabled; a WAIT of the ring reads its word again (R298).
A bad one ends the fetch under way, whose lines are not kept (R300). -/
def applyTail (s : State) (r : Nat) (x : W32) : State :=
  let s := s.setRingReg r 3 (x &&& 0x7FFFFFFF#32)
  let again (c : Nat × Cmd) : Nat × Cmd := if c.2.ring = r ∧ c.2.type = 5 then (c.1, { c.2 with reread := true }) else c
  let s := { s with cmds := s.cmds.map again }
  if 2 ^ s.ringLogn r < qdiff (s.ringTail r) (s.ringIndex r) then
    let s := s.fetchDone r
    (((s.setRing r { s.ring r with badTail := true }).setRingState r 1).ringRecord r clsQER 0 7 noFrame noTier 0)
  else s.setRing r { s.ring r with badTail := false }

/-- A write of `hqskip` takes effect while the ring is in ERROR and its INDEX is in range (R432, R433). -/
def applySkip (s : State) (r : Nat) (x : W32) : State :=
  let g := s.ring r
  let i := fldN x 0 31
  let n := qdiff i g.fetch
  if !bit x 31 ∨ s.ringState r ≠ 1 ∨ qdiff (s.ringTail r) g.fetch < n then s
  else
    let s := (s.fetchDone r).setRingState r 0
    let skipped (k : Nat) : List Packet := (List.range (n - k)).map (fun j => { index := (g.fetch + k + j) % 2 ^ 31, cmds := [] })
    match g.stuck with
    | none => (s.setRing r { g with packets := g.packets ++ skipped 0, fetch := i }).ringAdvance r
    | some w =>
      if n = 0 then s.setRing r { g with stuck := none, fetch := (g.fetch + 1) % 2 ^ 31 }
      else
        let mine := (g.packets.filter (fun p => p.cmds.contains w)).flatMap (·.cmds)
        let end_ (c : Nat × Cmd) : Nat × Cmd :=
          if mine.contains c.1 && (decide (c.1 = w) || (!c.2.begun && c.2.ticket.isNone)) then (c.1, { c.2 with retired := true }) else c
        let s := { s with cmds := s.cmds.map end_ }
        (s.setRing r { g with stuck := none, packets := g.packets ++ skipped 1, fetch := i }).ringAdvance r

/-- A write of `hqctl` takes effect (R295): with EN = 1 only EN changes; else a LOGN outside 4–16 leaves the register unchanged (R376).
Setting EN starts the ring afresh, with none of the lines it has fetched (R300). DESIGN CHOICE: commands fetched before EN was cleared stay,
start and retire, and hold later ones as earlier commands of the ring do (log 25). -/
def applyCtl (s : State) (r : Nat) (x : W32) : State :=
  if s.ringEn r then s.setRingReg r 2 (setFld (s.ringReg r 2) 5 1 (b2n (bit x 5)))
  else if lognBad x then s
  else
    let s := s.setRingReg r 2 (setFld (setFld (s.ringReg r 2) 0 5 (fldN x 0 5)) 5 1 (b2n (bit x 5)))
    if bit x 5 then
      let s := (((s.fetchDone r).setRingReg r 3 0).setRingIndex r 0).setRingState r 0
      (s.setRing r {}).setRingReg r 5 0
    else s

/-- A write of a word of `hqring` takes effect while EN = 0 (R295). -/
def applyRing (s : State) (r k : Nat) (x : W32) : State :=
  if s.ringEn r then s
  else if k = 0 then s.setRingReg r 0 (x &&& 0xFFFFF000#32) else s.setRingReg r 1 (x &&& 0x00FFFFFF#32)

/-- A write of a ring register word takes effect. -/
def applyRingWord (s : State) (r k : Nat) (x : W32) : State :=
  if k ≤ 1 then applyRing s r k x else if k = 2 then applyCtl s r x else if k = 6 then applySkip s r x else s

/-- A write of a ring register by its owner: kept in the doorbell shadow or queued while the ring's partition is out (R434). -/
def ringWrite (s : State) (r k : Nat) (x : W32) : State :=
  if s.ringIn r then (if k = 3 then applyTail s r x else applyRingWord s r k x)
  else if k = 3 then s.setRing r { s.ring r with shadow := some x }
  else s.setRing r { s.ring r with queued := (s.ring r).queued ++ [(k, x)] }

/-- A ring's partition switches in: the queued writes are applied in order, then the shadowed TAIL (R434). -/
def ringSwitchIn (s : State) (r : Nat) : State :=
  let s := s.ringAdvance r
  let g := s.ring r
  let s := (s.setRing r { g with queued := [], shadow := none }).setRingReg r 4 (setFld (s.ringReg r 4) 31 1 0)
  let s := if s.ringState r = 2 ∧ g.missing.isEmpty then s.setRingState r 0 else s
  let s := g.queued.foldl (fun s q => applyRingWord s r q.1 q.2) s
  match g.shadow with
  | some x => applyTail s r x
  | none => s

/-- A ring's partition switches out (R337): the ring is parked, unless it is in ERROR. -/
def ringSwitchOut (s : State) (r : Nat) : State :=
  let s := s.setRingReg r 4 (setFld (s.ringReg r 4) 31 1 1)
  if s.ringState r = 0 then s.setRingState r 2 else s

/-- The rings of a partition. -/
def ringsOf (p : Nat) : List Nat := (List.range 16).map (fun q => 16 * p + q)

end Sys2Proof.Machine
end

