-- ==== Sys2Proof/Machine/Turns.lean ====
section
/-! DEFINITION. Rotations and turns (R331–R337, R399, R447, R448), and the word `pmpt` (R255). -/

namespace Sys2Proof.Machine

/-- Set `rotstat`.STATE. -/
def State.setTurnState (s : State) (p x : Nat) : State := s.setRegF p 0x6035 0 2 x
/-- `deficit`.DEF (R331). -/
def State.deficit (s : State) (p : Nat) : Int := (s.reg p 0x6036).toInt
/-- Set `deficit`.DEF. -/
def State.setDeficit (s : State) (p : Nat) (x : Int) : State := s.setReg p 0x6036 (BitVec.ofInt 32 x)
/-- A quantum: WEIGHT × 4,096 ticks (R332). -/
def State.quantum (s : State) (p : Nat) : Nat := 4096 * s.regF p 0x6030 0 8
/-- PRIO of a partition (R333). -/
def State.isPrio (s : State) (p : Nat) : Bool := bit (s.reg p 0x6030) 8

/-! ### Work (R332) -/

/-- The contexts of a partition. -/
def State.contextsOf (s : State) (p : Nat) : List (Nat × Block) := s.blocks.filter (fun hb => decide (hb.2.part? = some p))
/-- The contexts of a partition on cores, in ascending handle. -/
def State.residentOf (s : State) (p : Nat) : List (Nat × Block) := (s.contextsOf p).filter (fun hb => hb.2.core?.isSome)

/-- A command waits in a ring as its registers stand, also while a page is missing or the ring is in ERROR. -/
def State.ringWaits (s : State) (r : Nat) : Bool := s.ringEn r && decide (0 < s.ringLeft r (s.ringTail r))

/-- A ring has a command started, or one waiting in it, as its registers stand or as the writes kept for its partition's switch-in will
leave them (R434). -/
def State.ringWork (s : State) (r : Nat) : Bool :=
  s.cmds.any (fun c => decide (c.2.ring = r) && !c.2.retired) || s.ringWaits r ||
  (((s.ring r).shadow.isSome || !(s.ring r).queued.isEmpty) && (ringSwitchIn s r).ringWaits r)

/-- A partition has work (R332). -/
def State.hasWork (s : State) (p : Nat) : Bool :=
  (ringsOf p).any s.ringWork ||
  (s.contextsOf p).any (fun hb => hb.2.missing.isEmpty && (match hb.2.place with | .core _ => true | .out => true | _ => false)) ||
  !(s.part p).awaiting.isEmpty || !(s.part p).later.isEmpty ||
  s.launches.any (fun l => decide (l.2.part = some p) && !l.2.again.isEmpty)

/-! ### Rotations -/

/-- `rotcl` names a cluster for a rotation (R331). -/
def State.rotNames (s : State) (r c : Nat) : Bool := bit (s.reg 0 (0x5B00 + 8 * r + c / 32)) (c % 32)
/-- The clusters of a rotation as the registers stand: those `rotcl` names for no lower rotation, but for those that another rotation
keeps until its turn lets a change take effect (R331). -/
def State.rotclOf (s : State) (r : Nat) : List Nat :=
  (List.range Config.clusters).filter (fun c => s.rotNames r c && !(List.range r).any (fun q => s.rotNames q c) &&
    !(List.range 16).any (fun q => decide (q ≠ r) && (s.rot q).holder.isSome && (s.rot q).cl.contains c))
/-- The partitions `rotsel` makes members of a rotation, but for one still taking its turn in another. -/
def State.rotMembers (s : State) (r : Nat) : List Nat :=
  (List.range Config.partitions).filter (fun p => decide (s.rotOf p = some r) &&
    !(List.range 16).any (fun q => decide (q ≠ r) && decide ((s.rot q).holder = some p)))
/-- The registers differ from what is in effect. -/
def State.rotPending (s : State) (r : Nat) : Bool := decide ((s.rot r).cl ≠ s.rotclOf r ∨ (s.rot r).members ≠ s.rotMembers r)
/-- Written values take effect for the rotations without a turn in progress (R331). -/
def State.refreshRots (s : State) : State :=
  (List.range 16).foldl (fun s r =>
    if (s.rot r).holder.isNone then s.setRot r { s.rot r with cl := s.rotclOf r, members := s.rotMembers r } else s) s

/-! ### Steps and restarts -/

/-- A group has arrived at a step boundary: it has exited, or its live slots wait at `step` (R73). -/
def Group.atStep (g : Group) : Bool :=
  let waits (x : Slot) : Bool := match x.wait with | .step _ => true | _ => false
  decide (g.exited = allLanes) || ((g.slot0.live || g.slot1.live) && (!g.slot0.live || waits g.slot0) && (!g.slot1.live || waits g.slot1))

/-- A group has arrived at a step boundary, and its stores are performed: a group that has exited has arrived once nothing of it is held
or outstanding at the host or a peer (R74, R142). -/
def State.stepArrived (s : State) (h gi : Nat) (g : Group) : Bool := g.atStep && g.held.isEmpty && (s.remotesOf h gi).isEmpty

/-- The contexts of a launch. -/
def State.blocksOf (s : State) (l : Nat) : List (Nat × Block) := s.blocks.filter (fun hb => decide (hb.2.launch = some l))

/-- Blocks of a launch's grid (R50). -/
def Launch.total (l : Launch) : Nat := l.gx * l.gy * l.gz * l.stages

/-- Every block of a STEPPED launch has arrived at a step boundary (R73). -/
def State.allArrived (s : State) (lid : Nat) (l : Launch) : Bool :=
  l.stepped && decide (l.next = l.total) && l.again.isEmpty && l.onPage.isEmpty &&
  (s.blocksOf lid).all (fun hb => (List.range hb.2.groups.length).all (fun gi =>
    match hb.2.groups[gi]? with | some g => s.stepArrived hb.1 gi g | none => true)) &&
  (s.blocksOf lid).any (fun hb => hb.2.groups.any (fun g => decide (g.exited ≠ allLanes)))

/-- The launch index of a block that an `mmam` failure ended (R398): it is restarted, waits for its page, or counts as complete at its
third end. -/
def redoIndex (s : State) (lid : Nat) (b : Block) : State :=
  match AMap.get? s.launches lid with
  | none => s
  | some l =>
    let put (l : Launch) : State := { s with launches := AMap.put s.launches lid l }
    let again (l : Launch) : Launch := { l with again := l.again ++ [[b.lidx]] }
    match b.redo with
    | .no => s
    | .page k =>
      if l.ended then s
      else match k with
        | some k => put { l with onPage := l.onPage ++ [(b.lidx, k)] }
        | none => put (again l)
    | .failed =>
      let ends := AMap.getD l.fails b.lidx 0 + 1
      let l' := { l with fails := AMap.put l.fails b.lidx ends }
      if 3 ≤ ends then (put l').modLaunch lid (fun l => { l with done := l.done + 1 })
      else if l.ended then s else put (again l')

/-- Blocks are ended and their indices kept for restart: those of one gang ended together stay one gang (R71, R334). -/
def endForRestart (s : State) (hs : List Nat) : State :=
  let (bs, late) := (hs.filterMap (fun h => (AMap.get? s.blocks h).map (fun b => (h, b)))).partition (fun x => decide (x.2.redo = .no))
  let s := late.foldl (fun s x => match x.2.launch with | some lid => redoIndex s lid x.2 | none => s) s
  let mates (b : Block) : List Nat :=
    if b.gang.isEmpty then [b.lidx] else (bs.filter (fun x => decide (x.2.launch = b.launch ∧ x.2.gang = b.gang))).map (·.2.lidx)
  let s := bs.foldl (fun s hb =>
    match hb.2.launch with
    | none => s
    | some lid =>
      let m := mates hb.2
      if m.head? = some hb.2.lidx then { s with launches := AMap.modify s.launches lid (fun l => { l with again := l.again ++ [m] }) }
      else s) s
  hs.foldl dropContext s

/-! ### Sealing at a turn's end -/

/-- A PRE record of a context that could not be sealed, or of a turn that is not over (R448). -/
def State.preRecord (s : State) (p : Nat) (h : Option Nat) : State :=
  (s.record { cls := clsPRE, part := some p, handle := h.getD 0xFFFFFFFF } .queue).1

/-- Every resident context of a partition stays stopped. -/
def State.haltAll (s : State) (p : Nat) : State :=
  (s.residentOf p).foldl (fun s hb => s.modBlock hb.1 (fun b => { b with halted := true })) s

/-- The hardware seals a context at a turn's end: into the partition's husk area, or for `pmpt` at its address (R334, R335,
R448), one after another. -/
def sealTurn (s : State) (p h : Nat) : State :=
  if (s.residentOf p).any (fun hb => decide (hb.1 ≠ h) && hb.2.huskOut.isSome) then s
  else match (s.part p).pmpt with
  | some m =>
    if m.failed then s
    else match sealAt s h m.asid m.va .sealed with
      | (s, .away) => s
      | (s, .done k) => s.setPart p { s.part p with pmpt := some { m with va := m.va + BitVec.ofNat 64 k.space, count := m.count + 1 } }
      | (s, .failed _) => ((s.preRecord p (some h)).haltAll p).setPart p { s.part p with pmpt := some { m with failed := true } }
  | none =>
    if (s.part p).paused then s
    else
      let off := (s.part p).huskOff
      let pause (s : State) : State :=
        (s.preRecord p (some h)).setPart p { s.part p with paused := true }
      match AMap.get? s.blocks h with
      | none => s
      | some b =>
        let k := huskOf s h b 0 s.gt
        if 65536 * s.regF p 0x603A 0 16 < off + k.total then pause (s.modBlock h (fun b => { b with halted := true }))
        else
          let va := s.reg64 p 0x6038 + BitVec.ofNat 64 off
          match sealAt s h 0x400 va (.husk va) with
          | (s, .failed _) => pause s
          | (s, .away) => s
          | (s, .done k) =>
            s.setPart p { s.part p with awaiting := (s.part p).awaiting ++ [h], huskOff := off + k.space }

/-- A STEPPED launch of the partition has every block at a step boundary, or it runs none (R341). -/
def cutMoment (s : State) (p : Nat) : Bool :=
  let ls := s.launches.filter (fun l => decide (l.2.part = some p) && l.2.stepped && !l.2.ended && decide (l.2.done ≠ l.2.total))
  ls.isEmpty || ls.any (fun l => s.allArrived l.1 l.2)

/-- The moment of a cut that has fallen due has come: it is taken before the drain's step 2 and 3 (R341, R346). -/
def cutFirst (s : State) (p : Nat) : Bool :=
  match (s.part p).ckpt with
  | some c => c.due && c.stream.isNone && cutMoment s p
  | none => false

/-- What a drain does at once (R334 steps 2 and 3), after a cut whose moment has come (R346): running blocks of restartable launches end,
and those of a STEPPED launch whose every block has arrived are sealed; a group inside an operator-gate call is awaited (R240). -/
def drainStep (s : State) (p : Nat) : State :=
  if cutFirst s p then s else
  let free (hb : Nat × Block) : Bool := !hb.2.groups.any Group.inOperGate
  let flag (f : Launch → Bool) (hb : Nat × Block) : Bool := match s.launchOf hb.2 with | some l => f l | none => false
  let s := endForRestart s (((s.residentOf p).filter (fun hb => free hb && flag Launch.restart hb)).map (·.1))
  (s.residentOf p).foldl (fun s hb =>
    match hb.2.launch with
    | none => s
    | some lid =>
      match AMap.get? s.launches lid with
      | none => s
      | some l => if l.stepped && !l.restart && s.allArrived lid l && s.sealable hb.1 then sealTurn s p hb.1 else s) s

/-- Forced sealing begins (R334 step 5, R396): STATE 3, every resident context is stopped, and calls without a limit get their deadline. -/
def startForced (s : State) (r p : Nat) : State :=
  let s := (s.setTurnState p 3).setRot r { s.rot r with forcedAt := some s.gt }
  (s.residentOf p).foldl (fun s hb => (s.boundGates hb.1).stopContext hb.1) s

/-- Forced sealing goes on with every context that nothing keeps on its core. -/
def forcedSeal (s : State) (p : Nat) : State :=
  (s.residentOf p).foldl (fun s hb => if s.sealable hb.1 then sealTurn s p hb.1 else s) s

/-- A turn ends: its drain begins (R334). -/
def startDrain (s : State) (r p : Nat) : State :=
  if s.turnState p ≠ 1 then s
  else
    let x := s.part p
    let s := s.setPart p { x with huskOff := if x.awaiting.isEmpty then 0 else x.huskOff, paused := false }
    let s := (s.setTurnState p 2).setRot r { s.rot r with drainAt := some s.gt, forcedAt := none, overdue := false }
    drainStep s p

/-! ### Queues of a partition (R337) -/

/-- The reader that fetches QTAB of a launch from pages of the host and of peers. -/
def qtabReader (lid : Nat) : Nat := 2 ^ 52 + lid

/-- An entry of QTAB of a launch, whatever tier it lies in. -/
def qtabEntry (s : State) (lid : Nat) (l : Launch) (i : Nat) : State × Fetch :=
  let va := l.qtab + BitVec.ofNat 64 (8 * i)
  match fetchVia (qtabReader lid) l.asid 2 s va 8 with
  | (s, .missing _ _ _) => (s, (fetchVia (qtabReader lid) l.asid 2 s.warm va 8).2)
  | r => r

/-- The physical address of a queue descriptor, whatever tier it lies in. -/
def queueAddr (s : State) (a : Nat) (va : W64) : Option Nat :=
  match (judge s.warm none a .load va 64).2 with
  | .mem pa _ _ _ _ _ => some pa
  | _ => none

/-- The stage queues that QTAB of a launch names, from one on; none while QTAB is fetched from the host or a peer. -/
def stageQueues (lid : Nat) (l : Launch) : List Nat → State → State × Option (List Nat)
  | [], s => (s, some [])
  | i :: is, s =>
    match qtabEntry s lid l i with
    | (s, .wait) => ((stageQueues lid l is s).1, none)
    | (s, .ok bs) =>
      match stageQueues lid l is s with
      | (s, some qs) => (s, some ((queueAddr s l.asid (BitVec.ofNat 64 (ofBytes bs))).toList ++ qs))
      | r => r
    | (s, _) => stageQueues lid l is s

/-- The stage queues of a partition's launches are read afresh; whether all are known. -/
def readQueues (s : State) (p : Nat) : State × Bool :=
  (s.launches.filter (fun l => decide (l.2.part = some p ∧ 1 < l.2.stages))).foldl (fun r l =>
    match stageQueues l.1 l.2 (List.range (l.2.stages - 1)) r.1 with
    | (s, some qs) => ({ s with launches := AMap.modify s.launches l.1 (fun l => { l with queues := qs }) }, r.2)
    | (s, none) => (s, false)) (s, true)

/-- The physical addresses of the queue descriptors the hardware knows of for a partition: token queues created by `tqcmd`,
and the stage queues that QTAB of its launches names (R304, R337). -/
def State.queuesOf (s : State) (p : Nat) : List Nat :=
  s.tokenQueues.map (fun q => physAddr q.1 (64 * q.2)) ++
  s.launches.flatMap (fun l => if l.2.part = some p then l.2.queues else [])

/-- PPROD, PCONS and STATE of a descriptor. -/
def State.queueEnds (s : State) (pa : Nat) : Nat × Nat × Nat :=
  ((s.byte (pa + 16)).toNat % 64, (s.byte (pa + 17)).toNat % 64, (s.byte (pa + 14)).toNat)

/-- Queues in RUN become PARKED when a partition's turn is over. -/
def parkQueues (s : State) (p : Nat) : State :=
  (s.queuesOf p).foldl (fun s pa =>
    let (a, b, st) := s.queueEnds pa
    if st = 0 ∧ (a = p ∨ b = p) then s.setByte (pa + 14) 2 else s) s

/-- Queues that are PARKED run again when every end partition holds its rotation. -/
def unparkQueues (s : State) (p : Nat) : State :=
  (s.queuesOf p).foldl (fun s pa =>
    let (a, b, st) := s.queueEnds pa
    if st = 2 ∧ (a = p ∨ b = p) ∧ s.holds a ∧ s.holds b then s.setByte (pa + 14) 0 else s) s

/-! ### The end and the start of a turn -/

/-- The contexts of a partition that missing pages have taken off their cores are stopped no more: those that forced sealing had stopped go
on in the next turn (R131, R132). -/
def releaseOut (s : State) (p : Nat) : State :=
  let free (b : Block) : Block := if b.part? = some p ∧ b.place = .out ∧ b.huskOut.isNone then { b with stopping := false } else b
  { s with blocks := s.blocks.map (fun (b : Nat × Block) => (b.1, free b.2)) }

/-- The turn is over (R334 step 6, R337), and no sealing of it is paused or stops a context any more (R448). -/
def finishTurn (s : State) (r p : Nat) : State :=
  let s := releaseOut ((s.setTurnState p 0).setPart p { s.part p with paused := false }) p
  let s := s.setRot r { s.rot r with holder := none, drainAt := none, forcedAt := none, overdue := false }
  let s := (ringsOf p).foldl ringSwitchOut s
  (parkQueues s p).refreshRots

/-- A partition's turn starts (R331, R336, R337). -/
def startTurn (s : State) (r p : Nat) (pos : Nat) (resume : Option Nat) : State :=
  let s := s.setRot r { s.rot r with holder := some p, drainAt := none, forcedAt := none, overdue := false, pos, resume }
  let s := s.setTurnState p 1
  let s := s.setPart p { s.part p with awaiting := (s.part p).awaiting ++ (s.part p).later, later := [] }
  let s := (ringsOf p).foldl ringSwitchIn s
  unparkQueues s p

/-- Members of a rotation after a position, in ascending number and wrapping. -/
def rrOrder (ms : List Nat) (pos : Nat) : List Nat := ms.filter (fun m => decide (pos < m)) ++ ms.filter (fun m => decide (m ≤ pos))

/-- The additions a member alone with work receives until its DEF is above 0 (R447). -/
def aloneDeficit (d : Int) (q : Nat) : Int := if q = 0 ∨ 0 < d then d else d + q * ((-d) / q + 1)

/-- One round of the round robin (R332, R447): the member that starts, with its new DEF. -/
def rrRound (s : State) (alone : Bool) : List Nat → State × Option Nat
  | [] => (s, none)
  | m :: ms =>
    if !s.hasWork m then rrRound (s.setDeficit m (min (s.deficit m) 0)) alone ms
    else
      let d := s.deficit m + s.quantum m
      let d := if alone then aloneDeficit d (s.quantum m) else d
      let s := s.setDeficit m d
      if 0 < d then (s, some m) else rrRound s alone ms

/-- Rounds until a member's DEF is above 0. -/
def rrRounds (alone : Bool) (order : List Nat) : Nat → State → State × Option Nat
  | 0, s => (s, none)
  | n + 1, s =>
    match rrRound s alone order with
    | (s, some m) => (s, some m)
    | (s, none) => rrRounds alone order n s

/-- A bound on the rounds: DEF has 32 bits, a quantum at least 4,096. -/
def rrFuel : Nat := 2 ^ 20

/-- The PRIO members are considered in turn (R333, R447): each that is receives its addition, and the first whose DEF is above 0 starts. -/
def prioRound (s : State) (alone : Bool) : List Nat → State × Option Nat
  | [] => (s, none)
  | p :: ps =>
    let d := s.deficit p + s.quantum p
    let d := if alone then aloneDeficit d (s.quantum p) else d
    let s := s.setDeficit p d
    if 0 < d then (s, some p) else prioRound s alone ps

/-- Grant the next turn of a rotation (R332, R333, R447); `last` is the member whose turn has just ended. -/
def grantNext (s : State) (r : Nat) (last : Option Nat) : State :=
  let x := s.rot r
  let work := x.members.filter s.hasWork
  let alone := decide (work.length = 1)
  if work.isEmpty then s
  else
    let rr (s : State) (pos : Nat) : State :=
      match rrRounds alone (rrOrder x.members pos) rrFuel s with
      | (s, some m) => startTurn s r m m none
      | (s, none) => s
    match prioRound s alone (work.filter (fun p => s.isPrio p && decide (some p ≠ last) && decide (some p ≠ x.resume))) with
    | (s, some p) => startTurn s r p x.pos x.resume
    | (s, none) =>
      match x.resume with
      | some q =>
        if !x.members.contains q then rr s x.pos
        else if s.hasWork q then startTurn s r q q none
        else rr (s.setDeficit q (min (s.deficit q) 0)) q
      | none => rr s x.pos

/-- A turn that is over ends, and the next member with work starts its turn (R332–R334, R448). -/
def execTurnGrant (rot : Nat) (s : State) : Out :=
  .next (
    match (s.rot rot).holder with
    | none => grantNext s rot none
    | some p =>
      if 2 ≤ s.turnState p ∧ (s.residentOf p).isEmpty then
        match readQueues s p with
        | (s, true) =>
          let s := (s.launches.filter (fun l => decide (l.2.part = some p))).foldl (fun s l => s.fetchDone (qtabReader l.1)) s
          grantNext (finishTurn s rot p) rot (some p)
        | (s, false) => s
      else s)

/-- A written change of a rotation removes a cluster from the holder, or the holder (R331). -/
def State.removesHolder (s : State) (r p : Nat) : Bool :=
  decide (s.rotOf p ≠ some r) || (s.rot r).cl.any (fun c => !(s.rotclOf r).contains c)

/-- The holder's deficit reaches 0, or it has no work (R331, R332, R334): its turn ends, or a quantum is added while no other
member has work. -/
def execTurnQuantumExpiry (rot : Nat) (s : State) : Out :=
  .next (
    match (s.rot rot).holder with
    | none => s
    | some p =>
      if s.turnState p ≠ 1 then s
      else if !s.hasWork p then startDrain s rot p
      else if 0 < s.deficit p then s
      else if s.rotPending rot && s.removesHolder rot p then startDrain s rot p
      else
        let s := if s.rotPending rot then
            (s.setRot rot { s.rot rot with cl := s.rotclOf rot, members := s.rotMembers rot }).refreshRots
          else s
        if (s.rot rot).members.any (fun m => decide (m ≠ p) && s.hasWork m) then startDrain s rot p
        else s.setDeficit p (s.deficit p + s.quantum p))

/-- A partition's rotation while it holds one. -/
def State.rotHeld (s : State) (p : Nat) : Option Nat := (List.range 16).find? (fun r => decide ((s.rot r).holder = some p))

/-- A drain goes on (R334, R399): what steps 2, 3 and 5 can do now, and 65,536 ticks after its start forced sealing, with one
DRN record. -/
def execTurnForcedSealing (part : Nat) (s : State) : Out :=
  .next (
    match s.rotHeld part with
    | none => s
    | some r =>
      if s.turnState part = 3 then forcedSeal s part
      else if s.turnState part = 2 then
        let s := drainStep s part
        match (s.rot r).drainAt with
        | some t =>
          if t + 65536 ≤ s.gt ∧ !(s.residentOf part).isEmpty then
            forcedSeal (startForced (s.record { cls := clsDRN, part := some part } .queue).1 r part) part
          else s
        | none => s
      else s)

/-- A turn is still not over 65,536 ticks after its forced sealing began (R448). -/
def execForcedSealingOverdue (part : Nat) (s : State) : Out :=
  .next (
    match s.rotHeld part with
    | none => s
    | some r =>
      match (s.rot r).forcedAt with
      | some t =>
        if t + 65536 ≤ s.gt ∧ !(s.rot r).overdue ∧ !(s.residentOf part).isEmpty then
          (s.preRecord part ((s.residentOf part).head?.map (·.1))).setRot r { s.rot r with overdue := true }
        else s
      | none => s)

/-- The PRIO members' claims at a frame boundary (R333). -/
def prioClaims (s : State) : State :=
  (List.range 16).foldl (fun s r =>
    match (s.rot r).holder with
    | none => s
    | some p =>
      if s.turnState p = 1 ∧ !s.isPrio p ∧ (s.rot r).members.any (fun m => decide (m ≠ p) && s.isPrio m && s.hasWork m) then
        startDrain (s.setRot r { s.rot r with resume := some p }) r p
      else s) s

/-- The cycles that the clusters of every holder have counted since an earlier state go to the auditor's count (R91, R332). -/
def chargeCycles (old s : State) : State :=
  (List.range 16).foldl (fun s r =>
    match (s.rot r).holder with
    | none => s
    | some p =>
      let n := (s.rot r).cl.foldl (fun n c =>
        if s.clusterPart c = some p then n + (s.ccount c - old.ccount c) else n) 0
      s.addReg64 0 (0x7000 + 32 * p) n) s

/-- One tick of GT is charged to every partition that holds a rotation (R332). -/
def chargeTicks (s : State) : State :=
  (List.range 16).foldl (fun s r =>
    match (s.rot r).holder with
    | none => s
    | some p => s.setDeficit p (s.deficit p - 1)) s

/-- A tick of GT and the cycles in it are charged. `old` is the state before the tick. -/
def chargeTurns (old s : State) : State := chargeTicks (chargeCycles old s)

/-- A write of `hskbase` or `hsklen` lets a paused sealing resume with the next context (R448). -/
def resumeSealing (s : State) (p : Nat) : State :=
  if (s.part p).paused then
    let s := s.setPart p { s.part p with paused := false }
    if s.turnState p = 3 then forcedSeal s p else drainStep s p
  else s

/-- `pmpt` (R240, R255, R334, R376, R448). -/
def execPmpt (h : Head) (o : F3) (s : State) : Out :=
  issue (.pmpt h o) h.s .oper noRight (fun s v =>
    let va := v.pairAddr o.sb
    let p := (v.g.base.uni o.sa.toNat).toNat
    let ret (s : State) (n : Nat) : Res := .ok (s.modGroup v.handle v.gi (fun g =>
      { g with live := g.live.setUni o.dst.toNat (BitVec.ofNat 32 n), longRun := true }))
    if !v.go h then .ok s
    else if va.toNat % 64 ≠ 0 then .raise { cls := clsALN, lanes := v.mask, vaddr := va, kind := 5 } s
    else if 64 ≤ p then wordFault clsENC v s
    else
      let mine (m : Pmpt) : Bool := decide (m.handle = v.handle ∧ m.gi = v.gi)
      match (s.part p).pmpt with
      | some m =>
        if mine m && (m.failed || !s.holds p) then ret (s.setPart p { s.part p with pmpt := none, paused := m.failed }) m.count
        else .hold (.partOut p true) s
      | none =>
        let s := (s.setRegF p 0x6034 4 1 0).refreshRots
        match s.rotHeld p with
        | none => ret s 0
        | some r =>
          let s := s.setPart p { s.part p with
            pmpt := some { handle := v.handle, gi := v.gi, asid := v.g.asid.toNat, va } }
          let s := (s.contextsOf p).foldl (fun s hb => s.boundGates hb.1) s
          let s :=
            if bit o.mod 0 then forcedSeal (startForced s r p) p
            else if s.turnState p = 1 then startDrain s r p else s
          .hold (.partOut p true) s) s

end Sys2Proof.Machine
end

