-- ==== Sys2Proof/Machine/Presets.lean ====
section
/-! DEFINITION. Partition reset (R44, R48, R90, R369) and the discarding of a context by the operator (R449). -/

namespace Sys2Proof.Machine

/-- The registers of the partition range that a partition reset keeps (R90), the generation among them. -/
def keptReg (num : Nat) : Bool :=
  [0x6010, 0x6030, 0x6032, 0x6034, 0x6038, 0x6039, 0x603A, 0x6055, 0x6080, 0x6081, 0x6082, 0x6084, 0x6086].contains num

/-- Every other register of the partition range takes its reset value (R90). -/
def Sys.resetPart (y : Sys) (p : Nat) : Sys :=
  { y with regs := y.regs.filter (fun kv =>
      decide (kv.1 / 65536 ≠ p) || decide (kv.1 % 65536 < 0x6000) || decide (0x7000 ≤ kv.1 % 65536) || keptReg (kv.1 % 65536)) }

/-- The reset notice (R369). -/
def noticeHalf (gen next : W32) (gt : Nat) : BitVec 256 :=
  BitVec.ofNat 256 (2 ^ 64 * gen.toNat + 2 ^ 160 * next.toNat + 2 ^ 192 * (gt % 2 ^ 64))

/-- The reader number of a partition's rollback. -/
def rollReader (p : Nat) : Nat := 3584 + p
/-- The reader number of a partition's cut. -/
def cutReader (p : Nat) : Nat := 3648 + p

/-- A marked frame needs no copy any more: what waits for it goes on, unless the frame lies in CXL cold, where it is missing still (R131,
R342, R457). -/
def State.endMark (s : State) (f : Nat) : State :=
  let s := { s with cow := s.cow.filter (fun x => decide (x ≠ f)) }
  if s.isCold f then s else s.resolvePage (.frame f)

/-- A checkpoint aborts (R451): every mark is cleared and every waiting access released; ROOT is not written. One that fell due while the
image streamed stays due (R340). The owner's half names the failing address, the operator's the first frame of the partial image. -/
def abortCkpt (s : State) (p : Nat) (base va : W64) : State :=
  match (s.part p).ckpt with
  | none => s
  | some c =>
    let marked := match c.stream with
      | some m => m.frames.filter (fun f => !m.copied.any (fun x => decide (x.1 = f)))
      | none => []
    let s := marked.foldl State.endMark s
    let later := c.stream.isSome && c.due
    let s := (s.setPart p { s.part p with ckpt := some { c with stream := none, due := later, cutting := false } }).setRegF p 0x6091 0 2 (b2n later)
    let asid := match c.stream with | some m => m.asid | none => c.asid
    let f := match (translate s none asid base.toNat .load).2 with
      | .mem pa _ _ _ _ _ => pa / 65536
      | .missing f _ _ => f
      | _ => noFrame
    (s.record { cls := clsCKP, vaddr := va, kind := 5, part := some p, frame := f, tier := if f = noFrame then noTier else s.tierOf f } .queue).1

/-- Step 1 of R44: contexts are discarded without sealing, and their engine operations are cancelled. -/
def discardContexts (s : State) (p : Nat) : State :=
  let s := ((s.contextsOf p).map (·.1)).foldl dropContext s
  { s with jobs := s.jobs.filter (fun j => match j.2.desc with
      | some o => if j.2.finished then decide (o.part ≠ some p) else match j.2.op with | some id => (AMap.get? s.ops id).isSome | none => true
      | none => true) }

/-- Everything else the partition handed to the engines and rings is cancelled, as its ring registers are reset (R90). -/
def presetWork (s : State) (p : Nat) : State :=
  let s := discardContexts s p
  let mineOp (o : Nat × EngOp) : Bool := decide (o.2.part = some p)
  let gone := (s.ops.filter mineOp).map (·.1)
  let mineCmd (c : Nat × Cmd) : Bool := decide (ringPart c.2.ring = some p)
  let cmds := (s.cmds.filter mineCmd).map (·.1)
  { s.loseRemotes (fun r => decide (asidPart r.asid.toNat = some p)) with
    ops := s.ops.filter (fun o => !mineOp o)
    rings := s.rings.filter (fun r => decide (ringPart r.1 ≠ some p))
    fetched := s.fetched.filter (fun x => !((ringsOf p).contains (x.1 % 2048) && decide (x.1 < 4096)) && !gone.any (fun o => decide (x.1 = opReader o)) &&
      decide (x.1 ≠ rollReader p ∧ x.1 ≠ cutReader p))
    cmds := s.cmds.filter (fun c => !mineCmd c)
    tickets := s.tickets.filter (fun t => !cmds.contains t.2.cmd)
    launches := s.launches.filter (fun l => decide (l.2.part ≠ some p))
    clusters := s.clusters.map (fun c => (c.1, { c.2 with passes := AMap.del c.2.passes p }))
    husks := s.husks.map (fun k => if k.part = p then { k with placeable := false } else k) }

/-- The TLB and control-block cache entries of a partition's ASIDs are invalidated. -/
def dropMaps (s : State) (p : Nat) : State :=
  { s with
    cores := s.cores.map (fun c => (c.1, { c.2 with
      tlb := c.2.tlb.filter (fun e => decide (asidPart e.asid ≠ some p))
      cbc := c.2.cbc.filter (fun l => decide (asidPart l.asid ≠ some p)) })) }

/-- Step 2 of R44: cached entries are invalidated, and the partition's arm bits in every window are cleared. -/
def presetMaps (s : State) (p : Nat) : State :=
  let s := dropMaps s p
  let disarm (e : W64) : W64 :=
    if ftKind e = 2 ∧ ftWin e then
      let e := if ftPart e = p then setFld e 11 1 0 else e
      if ftPb e = p then setFld e 12 1 0 else e
    else e
  { s with fot := s.fot.map (fun fe => (fe.1, disarm fe.2)) }

/-- Step 3 of R44: every frame of the partition goes to the scrubber, and its pool is empty. -/
def presetFrames (s : State) (p : Nat) : State :=
  let mine := (s.fot.filter (fun fe => decide (ftKind fe.2 = 1) && decide (ftPart fe.2 = p))).map (·.1)
  let s := s.setPool p []
  mine.foldl (fun s f =>
    let e := setFld (setFld (setFld (s.ftEntry f) 0 2 3) 8 1 0) 19 1 0
    let s := { s.setFt f e with cow := s.cow.filter (fun x => decide (x ≠ f)) }
    s.queueScrub f) s

/-- PRESET of a partition (R44, R90, R331, R369): its turn is over, its generation advances and its key is rederived, its registers are reset, and the
notice is held until its queue has a size; the operator is told. -/
def preset (s : State) (p : Nat) : State :=
  let s := match (s.part p).ckpt with
    | some c => match c.stream with | some m => abortCkpt s p m.base 0 | none => s
    | none => s
  let t := s.gt
  let s := if (s.rotHeld p).isSome then parkQueues (readQueues s p).1 p else s
  let s := presetFrames (presetMaps (presetWork s p) p) p
  let s := match s.rotHeld p with
    | some r => (s.setRot r { s.rot r with holder := none, drainAt := none, forcedAt := none, overdue := false }).refreshRots
    | none => s
  let s := { s with rots := s.rots.map (fun (r : Nat × Rot) => (r.1, { r.2 with resume := if r.2.resume = some p then none else r.2.resume })) }
  let gen := s.reg p 0x6010 + 1
  let s := { s with sys := (s.sys.resetPart p) }
  let s := { s.setReg p 0x6010 gen with keys := AMap.put s.keys p (partitionKey p gen) }
  let x := s.part p
  let s := s.setPart p { notice := some (gen, s.reg p 0x6055, t), pmpt := x.pmpt }
  s.pushOper (({ cls := 0, part := some p } : Rec).oper (s.reg p 0x6055).toNat s.gt)

/-- A partition's notice is written as the first entry once its queue has a size (R369). -/
def deliverNotice (s : State) (p : Nat) : State :=
  match (s.part p).notice with
  | some (gen, next, gt) =>
    if s.regF p 0x6052 20 10 = 0 then s
    else (s.setPart p { s.part p with notice := none }).pushOwner p (noticeHalf gen next gt)
  | none => s

/-- A write of `ftcmd` performs a command (R37, R44, R418): PRESET acts whatever the frame. -/
def ftWrite (s : State) (core opc pa pb : Nat) (opm : Bool) : State :=
  if opc = 8 then (preset s pa).ftStatus core 0 else ftRun s core opc pa pb opm (s.reg core 0x2081).toNat

/-- A block of a launch counts as complete (R70, R449). -/
def countDone (s : State) (lid : Nat) : State := s.modLaunch lid (fun l => { l with done := l.done + 1 })

/-- `ctxkill` (R449): a context that is not resident is discarded. -/
def ctxKill (s : State) (h : Nat) : State :=
  match AMap.get? s.blocks h with
  | none => s
  | some b =>
    if b.core?.isSome ∨ !s.isContext h then s
    else
      let s := dropContext s h
      let s := match b.launch with
        | none => s
        | some lid =>
          match AMap.get? s.launches lid with
          | none => s
          | some l =>
            if b.redo ≠ Redo.no then redoIndex s lid b
            else if l.restart then { s with launches := AMap.modify s.launches lid (fun l => { l with again := l.again ++ [[b.lidx]] }) }
            else countDone s lid
      (s.record { cls := clsPRE, kill := true, part := b.part?, handle := h } (if b.part?.isSome then .queue else .oper)).1

end Sys2Proof.Machine
end

