-- ==== Sys2Proof/Machine/Launches.lean ====
section
/-! DEFINITION. The block scheduler: starting blocks and gangs, completion, step boundaries, switching out and placing again
(R50–R54, R69–R75, R131, R132, R336, R338, R401). -/

namespace Sys2Proof.Machine

/-! ### Turns -/

/-- The partition of a launch may start or place blocks now: it holds its rotation, does not drain, and no cut is being taken. -/
def inTurn (s : State) (part : Option Nat) : Bool :=
  match part with
  | none => true
  | some p => decide (s.turnState p = 1) && !s.cutting part

/-! ### Starting blocks (R54) -/

/-- A group of a newly started block (R54). -/
def newGroup (l : Launch) : Group :=
  { slot0 := { live := true, pc := l.entry, mask := allLanes }, divLimit := l.divent, asid := BitVec.ofNat 11 l.asid
    auth := if l.part.isSome then 0 else 1 }

/-- A newly started block of a launch index. -/
def newBlock (lid : Nat) (l : Launch) (index : Nat) (gang : List Nat) : Block :=
  { owner := .launch l.part, launch := some lid, lidx := index, groups := List.replicate l.groups (newGroup l), regsN := l.regs
    accs := l.accs, scratchN := l.scratch, constva := l.const, gang }

/-- The die set of a launch is fixed when its first block starts (R75). -/
def fixDies (s : State) (lid : Nat) (l : Launch) : State :=
  if l.chosen then s
  else { s with launches := AMap.modify s.launches lid (fun l => { l with chosen := true, dies := dieRule s l }) }

/-- Start a block on a core. -/
def startBlock (lid : Nat) (l : Launch) (gang : List Nat) (s : State) (at_ : Nat × Nat) : State :=
  let h := s.nextHandle
  let s := { s with blocks := AMap.put s.blocks h (newBlock lid l at_.1 gang), nextHandle := h + 1 }
  enterCore s h at_.2

/-- The launch indices to start next: a restart in ascending order, else the next from NEXT, one or a gang (R71, R72, R73, R336). -/
def nextIndices (l : Launch) : Option (List Nat × Bool) :=
  let first (a b : List Nat) : Bool := decide (a.headD 0 < b.headD 0)
  match l.again with
  | g :: gs => some (gs.foldl (fun m x => if first x m then x else m) g, true)
  | [] =>
    if l.total ≤ l.next then none
    else
      let n := if l.stepped then l.total else if l.gangsz = 0 then 1 else min l.gangsz (l.total - l.next)
      some ((List.range n).map (fun i => l.next + i), false)

/-- How many blocks the head of a launch starts together. -/
def headCount (l : Launch) : Nat := match nextIndices l with | some x => x.1.length | none => 0

/-- The head of a launch starts as a gang, be it of one (R71–R73). -/
def asGang (l : Launch) : Bool := l.stepped || decide (0 < l.gangsz)

/-- The chosen indices have started. -/
def takeIndices (s : State) (lid : Nat) (g : List Nat) (restart : Bool) : State :=
  if restart then
    { s with launches := AMap.modify s.launches lid (fun l => { l with again := l.again.filter (fun x => decide (x ≠ g)), gang := none }) }
  else s.modLaunch lid (fun l => { l with next := l.next + g.length, gang := none })

/-- Husks of a partition's last turn come first (R336). -/
def husksFirst (s : State) (part : Option Nat) : Bool :=
  match part with
  | none => false
  | some p => (s.part p).awaiting.any (fun h => match AMap.get? s.blocks h with | some b => b.missing.isEmpty | none => false)

/-- Indices of the partition's restartable launches come before new blocks of any (R336). -/
def restartsFirst (s : State) (l : Launch) : Bool :=
  l.again.isEmpty && s.launches.any (fun m => decide (m.2.part = l.part) && !m.2.ended && !m.2.again.isEmpty)

/-- A matrix launch of the same bundle still has blocks to place, and goes first (R298). -/
def bundleWaits (s : State) (l : Launch) : Bool :=
  l.cmd.isSome && decide (l.accs = 0) &&
  s.launches.any (fun m => decide (m.2.cmd = l.cmd) && decide (m.2.accs ≠ 0) && !m.2.ended && decide (m.2.next < m.2.total))

/-- A launch may start blocks now. -/
def mayStart (s : State) (l : Launch) : Bool :=
  !l.ended && !bundleWaits s l && inTurn s l.part && !husksFirst s l.part && !restartsFirst s l && decide (l.mindie ≤ (launchDies s l).length)

/-! ### What can never fit (R401) -/

/-- Blocks of a need that an empty core takes. -/
def coreHolds (n : Need) : Nat :=
  min (min 16 (31 / n.slots)) (min (4096 / n.regs) (if n.bytes = 0 then 16 else 262144 / n.bytes))
/-- Blocks of a need that an empty cluster takes. -/
def clusterHolds (n : Need) : Nat := min (4 * coreHolds n) (if n.tiles = 0 then 64 else 64 / n.tiles)

/-- The clusters of a launch's region, whether or not its partition holds them now: those of the rotation that the partition is a member
of, in effect (R331, R401). -/
def regionClusters (s : State) (l : Launch) : List Nat :=
  match l.part with
  | none => List.range Config.clusters
  | some p =>
    match (List.range 16).find? (fun r => (s.rot r).members.contains p) with
    | some r => (s.rot r).cl
    | none => []

/-- The region on the dies the launch may use. -/
def region (s : State) (l : Launch) : List Nat × Nat :=
  let cs := regionClusters s l
  let dies := if l.chosen then l.dies else ((List.range Config.dies).filter (fun d => cs.any (fun c => decide (c / 24 = d)))).take l.maxdie
  (cs.filter (fun c => dies.contains (c / 24)), dies.length)

/-- The blocks at the head of a launch can never all be resident together (R401). -/
def cannotFit (s : State) (l : Launch) : Bool :=
  let (cs, dies) := region s l
  decide (0 < headCount l) && decide (l.mindie ≤ dies) && decide (cs.length * clusterHolds l.need < headCount l)

/-! ### Gangs (R72) -/

/-- A launch that is older, and still has blocks to start on a core, waits for its resources. -/
def olderWaits (s : State) (lid : Nat) (core : Nat) : Bool :=
  s.launches.any (fun l => decide (l.1 < lid) && !l.2.ended && inTurn s l.2.part && decide (0 < headCount l.2) && eligible s l.2 core)

/-- The most of a block's needs that a core has beside other reservations, of each resource as much as it has (R72). -/
def spotOn (s : State) (l : Launch) (index core : Nat) (extra : List (Nat × Need)) : Spot :=
  let n := l.need
  let here := needsOn core extra
  { index, core
    slots := min n.slots (31 - ((slotsUsed s core).length + sumOf Need.slots here))
    regs := min n.regs (4096 - (regsUsed s core + sumOf Need.regs here))
    tiles := min n.tiles (64 - ((tilesUsed s (core / 4)).length + sumOf Need.tiles (needsNear core extra)))
    run := (runsFor (runsUsed s core) (here ++ [n])).isSome
    place := decide ((tenantsOn s core).length + sumOf Need.places here + 1 ≤ 16) }

/-- A gang may reserve what is free on a core: no older launch waits for it, or the gang has waited 8 frames (R72). -/
def openTo (s : State) (lid : Nat) (g : Gang) (core : Nat) : Bool := g.priority || !olderWaits s lid core

/-- The core that takes a whole block of a gang beside all else (R69, R72). -/
def wholeSpot (s : State) (lid : Nat) (l : Launch) (g : Gang) (index : Nat) : Option Spot :=
  match g.spots.find? (fun p => decide (p.index = index) && p.full l) with
  | some p => some p
  | none =>
    let others := reservedBut s lid index none
    (((eligibleCores s l).filter (fun c => openTo s lid g c && fitsWith s c l.need others)).foldl (betterCore s others) none).map
      (wholeOf l index)

/-- What is reserved for a block of a gang on one core grows by what has freed there. -/
def growSpot (s : State) (lid : Nat) (l : Launch) (index : Nat) (g : Gang) (core : Nat) : Gang :=
  if !openTo s lid g core then g
  else
    { g with
      spots := g.spots.filter (fun x => decide (x.index ≠ index ∨ x.core ≠ core)) ++ [spotOn s l index core (reservedBut s lid index (some core))]
      since := some (g.since.getD s.gt) }

/-- The reservations of one block of a gang: the whole place on one core, or what there is on every core (R72). -/
def growIndex (s : State) (lid : Nat) (l : Launch) (g : Gang) (index : Nat) : Gang :=
  match wholeSpot s lid l g index with
  | some p => { g with spots := g.spots.filter (fun x => decide (x.index ≠ index)) ++ [p], since := some (g.since.getD s.gt) }
  | none => (eligibleCores s l).foldl (fun g c =>
      growSpot { s with launches := AMap.modify s.launches lid (fun l => { l with gang := some g }) } lid l index g c) g

/-- Reserve for each block of a gang in turn. -/
def growGang (lid : Nat) : List Nat → State → State
  | [], s => s
  | i :: is, s =>
    match AMap.get? s.launches lid with
    | none => s
    | some l =>
      match l.gang with
      | none => s
      | some g => growGang lid is { s with launches := AMap.modify s.launches lid (fun l => { l with gang := some (growIndex s lid l g i) }) }

/-- A launch can reserve for its gang now. -/
def gangWaits (s : State) (l : Launch) : Bool := asGang l && decide (0 < headCount l) && mayStart s l && !cannotFit s l

/-- The contexts placed together with one (R336): those of its gang that await the turn. -/
def gangMates (s : State) (p : Nat) (h : Nat) (b : Block) : List Nat :=
  if b.gang.isEmpty then [h]
  else (s.part p).awaiting.filter (fun x => match AMap.get? s.blocks x with
    | some c => decide (c.launch = b.launch ∧ c.gang = b.gang)
    | none => false)

/-- A context off its core misses no page. -/
def State.pagesIn (s : State) (h : Nat) : Bool := match AMap.get? s.blocks h with | some c => c.missing.isEmpty | none => false

/-- The gang of a launch whose husks are the next to be placed in the turn (R336). -/
def huskGang (s : State) (lid : Nat) (l : Launch) : Option (List Nat) :=
  match l.part with
  | none => none
  | some p =>
    match (s.part p).awaiting.find? s.pagesIn with
    | none => none
    | some h =>
      match AMap.get? s.blocks h with
      | some b =>
        let ms := gangMates s p h b
        if b.launch = some lid ∧ !b.gang.isEmpty ∧ ms.all s.pagesIn then some ms else none
      | none => none

/-- The launch indices that a launch reserves places for: those of a gang of husks, or of the gang at its head (R72, R336). -/
def waitingGang (s : State) (lid : Nat) (l : Launch) : Option (List Nat) :=
  match (if inTurn s l.part then huskGang s lid l else none) with
  | some hs => some (hs.filterMap (fun h => (AMap.get? s.blocks h).map Block.lidx))
  | none => if gangWaits s l then (nextIndices l).map (·.1) else none

/-- A launch reserves what it can for its gang. -/
def reserveGang (s : State) (lid : Nat) : State :=
  match AMap.get? s.launches lid with
  | none => s
  | some l =>
    match waitingGang s lid l with
    | none => s
    | some is =>
      let g : Gang := match l.gang with
        | some g => if g.indices = is then { g with spots := g.spots.filter (fun p => eligible s l p.core) } else { indices := is }
        | none => { indices := is }
      growGang lid is { s with launches := AMap.modify s.launches lid (fun l => { l with gang := some g }) }

/-- The gangs that wait reserve what has freed before another launch takes it: those that have waited 8 frames ahead of every other,
then the rest where no older launch waits (R72). -/
def claimFirst (s : State) (lid : Option Nat) : State :=
  let first (l : Nat × Launch) : Bool := match l.2.gang with | some g => g.priority | none => false
  let all := s.launches.filter (fun l => decide (some l.1 ≠ lid))
  (all.filter first ++ all.filter (fun l => !first l)).foldl (fun s l => reserveGang s l.1) s

/-- The scheduler starts a block that belongs to no gang (R69). -/
def execBlockStart (launch : Nat) (s : State) : Out :=
  .next (
    match AMap.get? s.launches launch with
    | none => s
    | some l =>
      if asGang l ∨ !mayStart s l then s
      else match nextIndices l with
      | some ([i], again) =>
        let t := claimFirst s (some launch)
        match chooseCore t l l.need (reservedBut t launch i none) with
        | none => s
        | some core => startBlock launch l [] (takeIndices (fixDies t launch l) launch [i] again) (i, core)
      | _ => s)

/-- A gang reserves what it can, and starts when a place is reserved for each of its blocks (R72). -/
def execGangStart (launch : Nat) (s : State) : Out :=
  .next (
    match AMap.get? s.launches launch with
    | none => s
    | some l =>
      if !gangWaits s l then s
      else match nextIndices l with
      | none => s
      | some (is, again) =>
        let s := reserveGang (claimFirst s (some launch)) launch
        match (AMap.get? s.launches launch).bind Launch.gang with
        | none => s
        | some g =>
          let whole (i : Nat) : Option Spot := g.spots.find? (fun p => decide (p.index = i) && p.full l)
          if is.all (fun i => (whole i).isSome) then
            let s := takeIndices (fixDies s launch l) launch is again
            (is.filterMap (fun i => (whole i).map (fun p => (i, p.core)))).foldl (startBlock launch l is) s
          else s)

/-- A gang has waited 8 frames from its first reservation (R72). -/
def execGangPriorityTimeout (launch : Nat) (s : State) : Out :=
  .next { s with launches := AMap.modify s.launches launch (fun l =>
    match l.gang with
    | some g =>
      (match g.since with
      | some t => if t + 32768 ≤ s.gt then { l with gang := some { g with priority := true } } else l
      | none => l)
    | none => l) }

/-! ### Launches that end early (R401) -/

/-- A gang, a stepped launch or a block that can never fit ends its launch (R401). -/
def execGangCannotFit (launch : Nat) (s : State) : Out :=
  .next (
    match AMap.get? s.launches launch with
    | none => s
    | some l =>
      if l.ended || !cannotFit s l then s
      else
        let s := { s with launches := AMap.modify s.launches launch (fun l => { l with ended := true, again := [], onPage := [], gang := none }) }
        (s.record { cls := clsCBK, vaddr := l.recVa, kind := 5, part := l.part } (if l.part.isSome then .queue else .oper)).1)

/-! ### Completion (R70) -/

/-- A block is complete: every group has exited and drained, and nothing of it is outstanding. -/
def blockDone (s : State) (h : Nat) (b : Block) : Bool :=
  b.groups.all (fun g => g.released && g.held.isEmpty && !g.inRun) && b.conts.isEmpty &&
  !s.remotes.any (fun x => decide (x.2.handle = h)) && (match b.owner with | .agent _ => false | _ => true)

/-- A launch that no command is to retire ends with its last block: one that a rollback brought back (R345). -/
def endRestored (s : State) (lid : Nat) : State :=
  match AMap.get? s.launches lid with
  | some l => if l.cmd.isNone ∧ l.total ≤ l.done then { s with launches := AMap.del s.launches lid } else s
  | none => s

/-- A block completes: its resources are released and DONE increases (R70), or its index starts again (R398); a counting task has completed a run (R42, R91). -/
def execBlockComplete (handle : Nat) (s : State) : Out :=
  .next (
    match AMap.get? s.blocks handle with
    | none => s
    | some b =>
      if !blockDone s handle b then s
      else
        let s := (List.range b.groups.length).foldl (fun s gi => flushRemote s handle gi) s
        match b.owner with
        | .task t => { s.setReg 0 (0x7A00 + t) (s.reg 0 (0x7A00 + t) + 1) with blocks := AMap.del s.blocks handle }
        | _ =>
          let s := dropContext s handle
          match b.launch with
          | some lid => endRestored (if b.redo = Redo.no then countDone s lid else redoIndex s lid b) lid
          | none => s)

/-! ### Step boundaries (R73, R75, R338) -/

/-- The blocks of a launch on dies that leave the set, each with a core of the new set that can take it, and whether each has one
(R338). -/
def movesFor (s : State) (lid : Nat) (l : Launch) (dies : List Nat) : List (Nat × Block) → List (Nat × Need) → List (Nat × Nat) × Bool
  | [], _ => ([], true)
  | hb :: rest, taken =>
    match hb.2.core? with
    | none => movesFor s lid l dies rest taken
    | some c =>
      if dies.contains (dieOf c) then movesFor s lid l dies rest taken
      else
        match chooseCore s { l with chosen := true, dies } hb.2.need (reservedBut s lid l.total none ++ taken) with
        | none => ((movesFor s lid l dies rest taken).1, false)
        | some core =>
          let r := movesFor s lid l dies rest ((core, hb.2.need) :: taken)
          ((hb.1, core) :: r.1, r.2)

/-- Every block has arrived at the boundary (R73): after a cut that has fallen due (R341, R346) the die set may change, and the blocks
whose die has left it move as far as cores can take them (R338); once none is left, STEPNO is written, and every waiting group goes
on. -/
def execStepBoundaryComplete (launch : Nat) (s : State) : Out :=
  .next (
    match AMap.get? s.launches launch with
    | none => s
    | some l =>
      let cutWaits : Bool := match l.part.bind (fun p => (s.part p).ckpt) with
        | some c => c.due && c.stream.isNone
        | none => false
      let dies := dieRule s l
      if !s.allArrived launch l || cutWaits || !inTurn s l.part || decide (dies.length < l.mindie) then s
      else
        let moves := movesFor s launch l dies (s.blocksOf launch) []
        let s := { s with launches := AMap.modify s.launches launch (fun l => { l with dies }) }
        let s := moves.1.foldl (fun s m => placeOn (leaveCore s m.1 .out) m.1 m.2) s
        if !moves.2 then s
        else
          let n := l.stepno + 1
          let s := s.modLaunch launch (fun l => { l with stepno := n })
          let s := (s.blocksOf launch).foldl (fun s hb =>
            s.modBlock hb.1 (fun b => { b with groups := b.groups.map (Group.release (fun w => decide (w = .step n))) })) s
          match l.part with
          | none => s
          | some p =>
            match (s.part p).ckpt with
            | some c => s.setPart p { s.part p with ckpt := some { c with steps := c.steps + 1 } }
            | none => s)

/-! ### Switching out and placing again (R131, R132, R336) -/

/-- A group has stopped where a switch-out may take it: at its run's end or inside its run, with every result that does not
depend on a held access written. -/
def groupStopped (s : State) (h gi : Nat) (g : Group) : Bool := !(g.inRun && g.nextSlot.isSome) && !s.lateOut h gi

/-- A block with missing pages leaves its core (R131). -/
def execBlockSwitchOut (handle : Nat) (s : State) : Out :=
  .next (
    match AMap.get? s.blocks handle with
    | none => s
    | some b =>
      if b.core?.isNone || b.missing.isEmpty || !s.isContext handle || !s.sealable handle ||
          !(List.range b.groups.length).all (fun gi => match b.groups[gi]? with | some g => groupStopped s handle gi g | none => true) then s
      else leaveCore s handle .out)

/-- The husks of a gang are placed once a place is reserved for each of them (R72, R336): until then the reservations stand. -/
def placeGang (s : State) (lid : Nat) (hs : List Nat) : State :=
  let t := reserveGang (claimFirst s (some lid)) lid
  match (AMap.get? t.launches lid).bind (fun l => l.gang.map (fun g => (l, g))) with
  | none => t
  | some (l, g) =>
    let spot (h : Nat) : Option (Nat × Nat) :=
      ((AMap.get? t.blocks h).bind (fun b => g.spots.find? (fun p => decide (p.index = b.lidx) && p.full l))).map (fun p => (h, p.core))
    if hs.all (fun h => (spot h).isSome) then
      (hs.filterMap spot).foldl (fun s m => placeOn (s.consume m.1) m.1 m.2)
        { t with launches := AMap.modify t.launches lid (fun l => { l with gang := none }) }
    else t

/-- A context off its core whose `mpc` is 0, and which no sealing has stopped, is placed: one switched out for missing pages (R132), or the
first husk of the last turn, with its gang (R336). -/
def execBlockPageIn (handle : Nat) (s : State) : Out :=
  .next (
    match AMap.get? s.blocks handle with
    | none => s
    | some b =>
      match b.launch.bind (fun lid => (AMap.get? s.launches lid).map (fun l => (lid, l))) with
      | none => s
      | some l =>
        let place : State :=
          let t := claimFirst s none
          match chooseCore t l.2 b.need (reservedBut t l.1 l.2.total none) with
          | none => s
          | some core => placeOn (t.consume handle) handle core
        if !inTurn s l.2.part || !b.missing.isEmpty || b.halted || (b.stopping && !b.groups.any Group.inOperGate) then s
        else match b.place with
          | .out => place
          | .husk _ =>
            match b.part? with
            | none => s
            | some p =>
              if (s.part p).awaiting.find? s.pagesIn ≠ some handle then s
              else if b.gang.isEmpty then place
              else match huskGang s l.1 l.2 with
                | some hs => placeGang s l.1 hs
                | none => s
          | _ => s)

end Sys2Proof.Machine
end

