-- ==== Sys2Proof/Machine/Rings.lean ====
section
/-! DEFINITION. The chaining engine: fetching ring packets, tickets, and the commands (R296–R302, R340, R430–R435). -/

namespace Sys2Proof.Machine

/-! ### Reading packets and blocks (R430, R431) -/

/-- Why a fetch of a ring stops. -/
inductive Stop where
  /-- It waits for lines of the host or a peer. -/
  | wait
  /-- A missing page: frame, whether it is a table frame, and the address. -/
  | missing (f : Nat) (table : Bool) (va : W64)
  /-- A failed check or a bad packet: class, frame, tier, unit and address. -/
  | fail (cls frame tier unit : Nat) (va : W64)

/-- The outcome of a step of a fetch. -/
abbrev Got (α : Type) := State × Except Stop α

/-- Go on with what has been read. -/
def Got.bind {α β : Type} (x : Got α) (f : State → α → Got β) : Got β :=
  match x with
  | (s, .ok a) => f s a
  | (s, .error e) => (s, .error e)

/-- A bad packet (R431). -/
def badAt (s : State) (va : W64) {α : Type} : Got α := (s, .error (.fail clsQER noFrame noTier 0 va))

/-- The frame and tier of the leaf that maps an address, when its CTL is 0. -/
def noCtl (s : State) (a : Nat) (va : W64) : Option (Nat × Nat) :=
  (s.leafOf a va).bind (fun e => if e.ctl then none else some (e.frame, if e.host then 2 else if e.peer then 3 else s.tierOf e.frame))

/-- A leaf without CTL = 1 under the bytes that a ring reads (R430). -/
def ctlFail (s : State) (a : Nat) (va : W64) : Option Stop := (noCtl s a va).map (fun x => .fail clsPRM x.1 x.2 0 va)

/-- Read bytes for a ring in an ASID: the checks of R403 for a load, and a leaf with CTL = 1 (R430), before which no missing page
counts. -/
def ringRead (s : State) (r a : Nat) (va : W64) (n : Nat) : Got (List Byte) :=
  match ctlFail s a va with
  | some e => (s, .error e)
  | none =>
    match fetchVia r a 8 s va n, ctlFail s a (va + BitVec.ofNat 64 (n - 1)) with
    | (s, .fail c f t u x), _ => (s, .error (.fail c f t u x))
    | (s, _), some e => (s, .error e)
    | (s, .wait), none => (s, .error .wait)
    | (s, .missing f t x), none => (s, .error (.missing f t x))
    | (s, .ok bs), none => (s, .ok bs)

/-- Whether the table root of a ring's domain is valid (R431). -/
def rootValid (s : State) (r dom : Nat) : Bool :=
  match ringPart r with
  | some p => decide (dom < 16) && bit (s.reg p (0x6060 + 2 * dom)) 0
  | none => decide (dom < 64) && bit (s.reg 0 (0x5300 + 2 * dom)) 0

/-- The ASID of a domain of a ring's function (R298). -/
def domAsid (r dom : Nat) : Nat := match ringPart r with | some p => 16 * p + dom | none => 0x400 + dom

/-- The fields of a task record are within R53. -/
def recordOk (b : List Byte) : Bool :=
  let gx := fieldOf b 32 2
  let gy := fieldOf b 34 2
  let gz := fieldOf b 36 2
  let stages := fieldOf b 38 1
  decide (fieldOf b 0 8 % 8 = 0) && decide (fieldOf b 16 8 % 16 = 0) && decide (1 ≤ gx ∧ 1 ≤ gy ∧ 1 ≤ gz) &&
  decide (1 ≤ stages ∧ stages ≤ 8) && decide (gx * gy * gz * stages < 2 ^ 32) && (decide (stages ≠ 1) || decide (fieldOf b 24 8 = 0)) &&
  decide (1 ≤ fieldOf b 39 1 ∧ fieldOf b 39 1 ≤ 16) && decide (1 ≤ fieldOf b 40 1 ∧ fieldOf b 40 1 ≤ 255) &&
  decide (fieldOf b 41 1 ≤ 8) && decide (fieldOf b 42 2 ≤ 1024) && decide (fieldOf b 44 2 ≤ 1024) &&
  decide (1 ≤ fieldOf b 46 1 ∧ fieldOf b 46 1 ≤ fieldOf b 47 1 ∧ fieldOf b 47 1 ≤ 8) && decide (fieldOf b 50 2 < 4) &&
  decide (fieldOf b 52 4 = 0 ∧ fieldOf b 56 4 = 0 ∧ fieldOf b 60 4 = 0)

/-- The fields of a LAUNCH block are within R298, but for its task record and its SIG pair. -/
def launchBlockOk (s : State) (r : Nat) (b : List Byte) : Bool := zeroFrom b 25 && rootValid s r (fieldOf b 24 1)

/-- The fields of a COPY block are within R289 and R298, but for its SIG pair. -/
def copyBlockOk (s : State) (r : Nat) (b : List Byte) : Bool :=
  copyOk (b.take 64) && zeroFrom b 81 && rootValid s r (fieldOf b 80 1)

/-- Read a LAUNCH's task record in its domain. -/
def readLaunch (s : State) (r dom : Nat) (at_ : W64) (b : List Byte) : Got SubCmd :=
  (ringRead s r (domAsid r dom) (fieldA b 0) 64).bind (fun s rec_ =>
    if recordOk rec_ then (s, .ok { kind := 1, dom, block := b, record := rec_ }) else badAt s at_)

/-- Read one entry of a BUNDLE (R298): the SIG pair of its sub-block is ignored. DESIGN CHOICE: the part runs in the entry's domain, the
sub-block's own having only to be valid, and KIND 1 and 2 take a record whatever its ACCS (log 62). -/
def readSub (s : State) (r : Nat) (at_ : W64) (e : Nat) : Got SubCmd :=
  let x : W64 := BitVec.ofNat 64 e
  let kind := fldN x 0 3
  let dom := fldN x 56 6
  let va : W64 := BitVec.ofNat 64 (64 * fldN x 6 50)
  if fldN x 3 3 ≠ 0 ∨ fldN x 62 2 ≠ 0 ∨ kind = 0 ∨ 3 < kind ∨ !rootValid s r dom then badAt s at_
  else if kind = 3 then
    (ringRead s r (ringAsid r) va 128).bind (fun s b =>
      if copyBlockOk s r b then (s, .ok { kind := 3, dom, block := b, record := [] }) else badAt s at_)
  else
    (ringRead s r (ringAsid r) va 64).bind (fun s b =>
      if launchBlockOk s r b then (readLaunch s r dom at_ b).bind (fun s c => (s, .ok { c with kind })) else badAt s at_)

/-- Read the entries of a BUNDLE in turn. -/
def readSubs (r : Nat) (at_ : W64) : List Nat → State → Got (List SubCmd)
  | [], s => (s, .ok [])
  | e :: es, s => (readSub s r at_ e).bind (fun s c => (readSubs r at_ es s).bind (fun s cs => (s, .ok (c :: cs))))

/-- The length of a command's block. -/
def blockLen (type : Nat) : Nat := if type = 3 then 128 else 64

/-- Read a command's block, and what it names, and judge its fields (R298, R431). -/
def readCommand (s : State) (r type : Nat) (serial : Bool) (tag : W32) (va : W64) : Got Cmd :=
  (ringRead s r (ringAsid r) va (blockLen type)).bind (fun s b =>
    let cmd (subs : List SubCmd) : Cmd := { ring := r, index := 0, type, serial, tag, cbva := va, block := b, subs }
    let ok (c : Bool) : Got Cmd := if c then (s, .ok (cmd [])) else badAt s va
    match type with
    | 1 =>
      if launchBlockOk s r b && decide (fieldOf b 8 8 % 8 = 0) then
        (readLaunch s r (fieldOf b 24 1) va b).bind (fun s c => (s, .ok (cmd [c])))
      else badAt s va
    | 2 =>
      let n := fieldOf b 0 1
      if n = 0 ∨ 5 < n ∨ fieldOf b 1 7 ≠ 0 ∨ fieldOf b 8 8 % 8 ≠ 0 then badAt s va
      else (readSubs r va ((List.range n).map (fun i => fieldOf b (24 + 8 * i) 8)) s).bind (fun s cs => (s, .ok (cmd cs)))
    | 3 =>
      if copyBlockOk s r b && decide (fieldOf b 64 8 % 8 = 0) then (s, .ok (cmd [{ kind := 3, dom := fieldOf b 80 1, block := b, record := [] }])) else badAt s va
    | 4 => ok (decide (fieldOf b 0 8 % 8 = 0))
    | 5 => ok true
    | 6 => ok ((ringPart r).isSome && decide (fieldOf b 20 1 < 16) && zeroFrom b 21 && rootValid s r (fieldOf b 20 1))
    | _ =>
      ok (decide (fieldOf b 0 1 < 16) && decide (4 ≤ fieldOf b 1 1 ∧ fieldOf b 1 1 ≤ 16) && decide (fieldOf b 2 1 ≤ 1) &&
        decide (fieldOf b 3 5 = 0)))

/-- Read the packet at an address, and through INDIRECT packets all those it stands for (R297, R431): the bound counts the
packets of a path. -/
def readPacket (r : Nat) : Nat → State → W64 → Got (List Cmd)
  | 0, s, va => badAt s va
  | depth + 1, s, va =>
    (ringRead s r (ringAsid r) va 16).bind (fun s p =>
      let cb := fieldA p 0
      let type := fieldOf p 8 1
      let flags := fieldOf p 9 1
      let count := fieldOf p 10 1
      if 8 < type ∨ 1 < flags ∨ fieldOf p 11 1 ≠ 0 ∨ cb.toNat % 64 ≠ 0 ∨ (type ≠ 8 ∧ count ≠ 0) ∨ (type = 0 ∧ cb ≠ 0) then badAt s va
      else if type = 0 then (s, .ok [])
      else if type = 8 then
        if count = 0 ∨ depth = 0 then badAt s va
        else
          (List.range count).foldl (fun (acc : Got (List Cmd)) j => acc.bind (fun s cs =>
            (readPacket r depth s (cb + BitVec.ofNat 64 (16 * j))).bind (fun s more => (s, .ok (cs ++ more))))) (s, .ok [])
      else (readCommand s r type (decide (flags = 1)) (BitVec.ofNat 32 (fieldOf p 12 4)) cb).bind (fun s c => (s, .ok [c])))

/-- The address of a ring's packet (R295). -/
def packetAddr (s : State) (r k : Nat) : W64 :=
  pair (s.ringReg r 0) (s.ringReg r 1) + BitVec.ofNat 64 (16 * (k % 2 ^ s.ringLogn r))

/-- The ring may fetch its next packet (R297, R430, R432, R434, R438). -/
def mayFetch (s : State) (r : Nat) : Bool :=
  let g := s.ring r
  decide (s.regF 0 0x5609 0 3 = 0) && s.ringEn r && s.ringIn r && decide (s.ringState r = 0) && g.missing.isEmpty && g.stuck.isNone &&
  decide (0 < s.ringLeft r (s.ringTail r))

/-- A page that a ring's fetch or read misses, with the FRAME and TIER of its record (R430). -/
def ringMiss (s : State) (r : Nat) (k : PageKey) (f tier : Nat) (va : W64) : State :=
  let g := s.ring r
  let s := if s.ringState r = 1 then s else s.setRingState r 2
  if g.missing.contains k then s
  else
    let s := (s.setRing r { g with missing := g.missing ++ [k] }).setRingReg r 5
      (setFld (s.ringReg r 5) 0 8 (g.missing.length + 1))
    (s.record { cls := clsMSP, vaddr := va, kind := 7, part := ringPart r, frame := f, tier }
      (if (ringPart r).isSome then .queue else .oper)).1

/-- A page of device memory that a ring's fetch or read misses. -/
def ringMissing (s : State) (r f : Nat) (va : W64) : State := ringMiss s r (.frame f) f (s.tierOf f) va

/-- Put the commands of a fetched packet, each under a number of its own. -/
def addCmds (index : Nat) : List Cmd → State → State × List Nat
  | [], s => (s, [])
  | c :: cs, s =>
    let id := s.nextCmd
    let (s, ids) := addCmds index cs { s with cmds := AMap.put s.cmds id { c with index }, nextCmd := id + 1 }
    (s, id :: ids)

/-- Fetch the next ring packet: all of its commands are made, or none (R297, R430, R431). After a missing page the fetch restarts at
the packet, which is read anew. -/
def fetchPacket (s : State) (r : Nat) : State :=
  if !mayFetch s r then s
  else
    let k := (s.ring r).fetch
    match readPacket r 5 s (packetAddr s r k) with
    | (s, .ok cs) =>
      let (s, ids) := addCmds k cs (s.fetchDone r)
      let g := s.ring r
      (s.setRing r { g with fetch := (k + 1) % 2 ^ 31, packets := g.packets ++ [{ index := k, cmds := ids }] }).ringAdvance r
    | (s, .error .wait) => s
    | (s, .error (.missing f _ va)) => ringMissing (s.fetchDone r) r f va
    | (s, .error (.fail c f t u va)) => ((s.fetchDone r).setRingState r 1).ringRecord r c va 7 f t u

/-- The chaining engine fetches a ring packet (R430). -/
def execPacketFetch (ring : Nat) (s : State) : Out := .next (fetchPacket s ring)

/-- TYPE of the packet a ring fetches next, when its bytes can be read now. -/
def headType (s : State) (r : Nat) : Option Nat :=
  match ringRead s r (ringAsid r) (packetAddr s r (s.ring r).fetch) 16 with
  | (_, .ok p) => some (fieldOf p 8 1)
  | _ => none

/-- A NOP packet makes no command (R296, R297). -/
def execNopPacket (ring : Nat) (s : State) : Out := .next (if headType s ring = some 0 then fetchPacket s ring else s)
/-- An INDIRECT packet stands for the packets of its block (R297). -/
def execIndirect (ring : Nat) (s : State) : Out := .next (if headType s ring = some 8 then fetchPacket s ring else s)

/-! ### Doorbells and control registers (R295, R297, R432) -/

/-- A write of TAIL (R297, R431, R434). -/
def execHqtailDoorbell (ring : Nat) (value : W32) (s : State) : Out := .next (ringWrite s ring 3 value)
/-- A write of `hqskip` (R432, R434). -/
def execHqskip (ring : Nat) (value : W32) (s : State) : Out := .next (ringWrite s ring 6 value)
/-- A write of `hqctl` (R295, R434). -/
def execHqctlWrite (ring : Nat) (value : W32) (s : State) : Out := .next (ringWrite s ring 2 value)

/-! ### Tickets (R301, R435) -/

/-- Earlier commands of a command's ring. -/
def earlier (s : State) (id : Nat) (c : Cmd) : List Cmd :=
  (s.cmds.filter (fun x => decide (x.1 < id) && decide (x.2.ring = c.ring) && !x.2.retired)).map (·.2)

/-- A command may start (R297, R298): every earlier one of its ring has started, no WAIT of them is unsatisfied, and for SERIAL
all have retired. -/
def mayCommandStart (s : State) (id : Nat) (c : Cmd) : Bool :=
  let es := earlier s id c
  es.all (fun e => e.started && decide (e.type ≠ 5)) && (!c.serial || es.isEmpty)

/-- A command is found by its ticket. -/
def ticketRetired (s : State) (t : Nat) : Bool :=
  match AMap.get? s.tickets t with
  | none => true
  | some k => match AMap.get? s.cmds k.cmd with | some c => c.retired | none => true

/-- Room for the next ticket: the one 2,044 before it has retired (R301). -/
def ticketRoom (s : State) : Bool := decide (s.nextTicket < 2044) || ticketRetired s (s.nextTicket - 2044)

/-- Domain of a command, when its block names one. -/
def cmdDom (c : Cmd) : Option Nat :=
  match c.type with
  | 1 => some (fieldOf c.block 24 1)
  | 3 => some (fieldOf c.block 80 1)
  | 6 => some (fieldOf c.block 20 1)
  | _ => none

/-- Write a ticket and then SEQ and POSTED (R301). The domain of a command that names none, and the partition of an operator
ring, hold no stated value; a repost writes the same bytes 8–31 again (R435). -/
def postTicket (s : State) (id : Nat) (c : Cmd) : State :=
  let t := s.nextTicket
  let fill := match c.ticket.bind (AMap.get? s.tickets ·) with | some old => old.fill | none => s.fresh
  let free (k : Nat) : Nat := Config.freeValue (fill + k) % 256
  let bytes : List Byte :=
    toBytes c.cbva.toNat 8 ++ toBytes c.type 1 ++ toBytes ((cmdDom c).getD (free 0)) 1 ++
    toBytes (c.ring % 16 + if (ringPart c.ring).isSome then 0 else 16) 1 ++ toBytes ((ringPart c.ring).getD (free 1)) 1 ++
    toBytes c.tag.toNat 4 ++ List.replicate 8 0
  let base := s.reg64 0 0x5700
  let at_ := base + BitVec.ofNat 64 (64 + 32 * (t % 2044))
  let s := { s with
    fresh := s.fresh + 2
    nextTicket := t + 1
    tickets := AMap.put s.tickets t { cmd := id, posted := s.gt, fill }
    cmds := AMap.modify s.cmds id (fun c => { c with ticket := some t }) }
  let s := (vwrite s 0x400 (at_ + 8) bytes).1
  let s := (vwrite s 0x400 at_ (toBytes (t + 1) 8)).1
  match vread s 0x400 base 8 with
  | (s, .ok bs) => (vwrite s 0x400 base (toBytes (ofBytes bs + 1) 8)).1
  | (s, .error _) => s

/-- A command is posted as a ticket (R301): once it may start, and there is room. -/
def execTicketPost (cmd : Nat) (s : State) : Out :=
  .next (
    match AMap.get? s.cmds cmd with
    | none => s
    | some c => if c.ticket.isSome || c.retired || !mayCommandStart s cmd c || !ticketRoom s then s else postTicket s cmd c)

/-- The agent of a core runs, alive and within its firmware budget (R68, R302, R436). -/
def State.agentRuns (s : State) (core : Nat) : Bool :=
  s.blocks.any (fun hb => decide (hb.2.owner = .agent core)) && !(s.core core).agentDead && !s.paused.contains (.agent core)

/-- The agents that run and wait for no ticket they have claimed. -/
def State.idleAgents (s : State) : List Nat :=
  (s.blocks.filterMap (fun hb => match hb.2.owner with | .agent c => some c | _ => none)).filter (fun c =>
    s.agentRuns c && !s.claims.any (fun x => decide (x.1 = c)))

/-- The engine reads CLAIMED of the work list (R301). -/
def readClaimed (s : State) : State × Except (Nat × Nat × Nat) (List Byte) := vread s 0x400 (s.reg64 0 0x5700 + 8) 8

/-- SEQ of a ticket (R301). -/
def readSeq (s : State) (ticket : Nat) : State × Except (Nat × Nat × Nat) (List Byte) :=
  vread s 0x400 (s.reg64 0 0x5700 + BitVec.ofNat 64 (64 + 32 * (ticket % 2044))) 8

/-- The chaining engine accepts the start of a ticket neither started nor reposted; its agent drops any other (R435). -/
def startTicket (s : State) (ticket : Nat) : State :=
  match AMap.get? s.tickets ticket with
  | none => s
  | some t =>
    if t.started || t.reposted then s
    else { s with
      tickets := AMap.put s.tickets ticket { t with started := true }
      cmds := AMap.modify s.cmds t.cmd (fun c => { c with started := true }) }

/-- An agent claims a ticket, and starts its command (R302). The ticket that CLAIMED names is claimed by an agent that waits for none,
and CLAIMED increases by 1, whether or not it has been posted; the agent starts its command once its SEQ is there. Which agent claims,
the hardware chooses. DESIGN CHOICE: where the work list cannot be read nothing orders the claims (log 62). -/
def execCommandStart (ticket : Nat) (s : State) : Out :=
  .next (
    match s.claims.find? (fun x => decide (x.2 = ticket)) with
    | some x =>
      if !s.agentRuns x.1 then s
      else match readSeq s ticket with
        | (s, .ok q) =>
          if ofBytes q = ticket + 1 then startTicket { s with claims := s.claims.filter (fun y => decide (y ≠ x)) } ticket else s
        | (s, .error _) => s
    | none =>
      match s.idleAgents with
      | [] => s
      | c :: cs =>
        match readClaimed s with
        | (s, .error _) => startTicket s ticket
        | (s, .ok q) =>
          if ofBytes q ≠ ticket then s
          else
            let (s, k) := s.choose (cs.length + 1)
            let s := (vwrite s 0x400 (s.reg64 0 0x5700 + 8) (toBytes (ticket + 1) 8)).1
            { s with claims := (((c :: cs)[k]?).getD c, ticket) :: s.claims })

/-- The tickets that agents are to claim or start. -/
def ticketStarts (s : State) : List Nat :=
  s.claims.map (·.2) ++ (if s.idleAgents.isEmpty then [] else match readClaimed s with
    | (_, .ok q) => [ofBytes q]
    | (_, .error _) => s.tickets.map (·.1))

/-- A ticket not started within 262,144 ticks is posted anew, and the operator is told (R435). -/
def execTicketRepost (ticket : Nat) (s : State) : Out :=
  .next (
    match AMap.get? s.tickets ticket with
    | none => s
    | some t =>
      match AMap.get? s.cmds t.cmd with
      | none => s
      | some c =>
        if t.started || t.reposted || decide (s.gt < t.posted + 262144) || !ticketRoom s then s
        else
          let s := { s with tickets := AMap.put s.tickets ticket { t with reposted := true } }
          let s := postTicket s t.cmd c
          (s.record { cls := clsQER, part := ringPart c.ring } .none).1)

/-! ### Retiring (R299, R433) -/

/-- A command has retired: INDEX advances (R299). -/
def retireCmd (s : State) (id : Nat) (c : Cmd) : State :=
  let s := { s with
    cmds := AMap.modify s.cmds id (fun c => { c with retired := true })
    launches := s.launches.filter (fun l => decide (l.2.cmd ≠ some id))
    tickets := s.tickets.filter (fun t => decide (t.2.cmd ≠ id)) }
  let s := s.ringAdvance c.ring
  if (s.ring c.ring).packets.any (fun p => p.cmds.contains id) then s else s.dropCmds [id]

/-- Write a command's pair as one store, and retire it once the store is performed (R299, R433): one to the host or a peer is answered
first; a store on a missing page waits for it, one that fails is reported. -/
def signalAndRetire (s : State) (id : Nat) (c : Cmd) (a : Nat) (va : W64) (value : List Byte) : State :=
  if c.signalled then s
  else if va = 0 then retireCmd s id c
  else match vpost s a (.sig c.ring id) va value with
    | (s, none) =>
      if s.remotes.any (fun x => decide (x.2.hw = some (.sig c.ring id))) then
        { s with cmds := AMap.modify s.cmds id (fun c => { c with signalled := true }) }
      else retireCmd s id c
    | (s, some (cls, f, u)) =>
      if cls = clsMSP then
        if c.page = some (.frame f) then s
        else ({ s with cmds := AMap.modify s.cmds id (fun c => { c with page := some (.frame f) }) }).ringRecord c.ring clsMSP va 2 f (s.tierOf f) 0
      else retireCmd (s.ringRecord c.ring cls va 2 f (s.failTier a .store va) u) id c

/-- The SIG store of a command has been performed, or has failed (R299, R433). -/
def sigDone (s : State) (id : Nat) : State := match AMap.get? s.cmds id with | some c => retireCmd s id c | none => s

/-- SIGVA, SIGVAL and their ASID of a command (R298). DESIGN CHOICE: the named domain of a BUNDLE is that of its first entry
(log 62). -/
def cmdSig (c : Cmd) : Nat × W64 × List Byte :=
  match c.type with
  | 1 => (domAsid c.ring (fieldOf c.block 24 1), fieldA c.block 8, (c.block.drop 16).take 8)
  | 2 => (domAsid c.ring (fldN (BitVec.ofNat 64 (fieldOf c.block 24 8)) 56 6), fieldA c.block 8, (c.block.drop 16).take 8)
  | 3 => (domAsid c.ring (fieldOf c.block 80 1), fieldA c.block 64, (c.block.drop 72).take 8)
  | _ => (ringAsid c.ring, fieldA c.block 0, (c.block.drop 8).take 8)

/-- The work of a LAUNCH, BUNDLE or COPY command is complete (R70, R76, R401), and the stores of its DONE are performed. -/
def cmdComplete (s : State) (id : Nat) (c : Cmd) : Bool :=
  decide (1 ≤ c.type ∧ c.type ≤ 3) && c.begun && !c.retired &&
  s.launches.all (fun l => decide (l.2.cmd ≠ some id) ||
    (decide (l.2.done = l.2.total) && l.2.unwritten.isNone && !s.remotes.any (fun r => decide (r.2.hw = some (.done l.1)))) || (l.2.ended && (s.blocksOf l.1).isEmpty)) &&
  !s.ops.any (fun o => decide (o.2.owner = .cmd id))

/-- A LAUNCH, BUNDLE or COPY retires, and its pair is written (R299). -/
def execCommandRetire (cmd : Nat) (s : State) : Out :=
  .next (
    match AMap.get? s.cmds cmd with
    | none => s
    | some c =>
      if cmdComplete s cmd c then signalAndRetire s cmd c (cmdSig c).1 (cmdSig c).2.1 (cmdSig c).2.2 else s)

/-! ### Performing commands (R298) -/

/-- A command that has started and not yet been performed, of one type. -/
def readyCmd (s : State) (id type : Nat) : Option Cmd :=
  (AMap.get? s.cmds id).bind (fun c => if c.started && !c.begun && !c.retired && decide (c.type = type) then some c else none)

/-- The command has been performed, or its parts have started. -/
def State.beginCmd (s : State) (id : Nat) : State := { s with cmds := AMap.modify s.cmds id (fun c => { c with begun := true }) }

/-- The launch of a task record (R53). -/
def launchOfRecord (id : Nat) (r : Nat) (c : SubCmd) : Launch :=
  let b := c.record
  { recVa := fieldA c.block 0, asid := domAsid r c.dom, part := ringPart r, entry := fieldA b 0, const := fieldA b 8, divBase := fieldA b 16
    qtab := fieldA b 24, gx := fieldOf b 32 2, gy := fieldOf b 34 2, gz := fieldOf b 36 2, stages := fieldOf b 38 1
    groups := fieldOf b 39 1, regs := fieldOf b 40 1, accs := fieldOf b 41 1, scratch := fieldOf b 42 2
    divent := if fieldOf b 44 2 = 0 then 64 else fieldOf b 44 2, mindie := fieldOf b 46 1, maxdie := fieldOf b 47 1
    gangsz := fieldOf b 48 2, restart := decide (fieldOf b 50 1 % 2 = 1), stepped := decide (fieldOf b 50 1 / 2 % 2 = 1), cmd := some id }

/-- A copy that a ring submits (R289, R298): it names no scratchpad, having no issuing cluster. -/
def ringCopy (s : State) (id r : Nat) (cbva : W64) (c : SubCmd) : EngOp :=
  let a := domAsid r c.dom
  let d := c.block.take 64
  { owner := .cmd id, cls := 0, kind := .copy, asid := BitVec.ofNat 11 a, auth := if (ringPart r).isSome then 0 else 1
    part := ringPart r, cluster := Config.clusters, iaddr := 0, va := cbva, mask := 0, block := d, seq := s.nextOp, frames := moveFrames s a (copyMoves d) }

/-- Start one part of a command. -/
def startSub (id r : Nat) (cbva : W64) (s : State) (c : SubCmd) : State :=
  if c.kind = 3 then { s with ops := AMap.put s.ops s.nextOp (ringCopy s id r cbva c), nextOp := s.nextOp + 1 }
  else { s with launches := AMap.put s.launches s.nextLaunch (launchOfRecord id r c), nextLaunch := s.nextLaunch + 1 }

/-- Start every part of a started command of a type (R76). -/
def startParts (s : State) (id type : Nat) : State :=
  match readyCmd s id type with
  | none => s
  | some c => c.subs.foldl (startSub id c.ring c.cbva) (s.beginCmd id)

/-- LAUNCH (R298). -/
def execLaunch (cmd : Nat) (s : State) : Out := .next (startParts s cmd 1)
/-- BUNDLE: all its parts are accepted before any starts (R76). -/
def execBundle (cmd : Nat) (s : State) : Out := .next (startParts s cmd 2)
/-- COPY (R298). -/
def execCopy (cmd : Nat) (s : State) : Out := .next (startParts s cmd 3)

/-- SIGNAL: once every earlier command of the ring has retired (R298, R299). -/
def execSignal (cmd : Nat) (s : State) : Out :=
  .next (
    match readyCmd s cmd 4 with
    | none => s
    | some c => if (earlier s cmd c).isEmpty then signalAndRetire s cmd c (cmdSig c).1 (cmdSig c).2.1 (cmdSig c).2.2 else s)

/-- The reader number of a ring's WAIT. -/
def waitReader (r : Nat) : Nat := 2048 + r

/-- A WAIT is to read its word again (R298): a TAIL write of its ring asks for it, or 1,000 ticks have passed. -/
def Cmd.pollDue (c : Cmd) (gt : Nat) : Bool := c.begun && !c.retired && decide (c.type = 5) && (c.reread || decide (c.polled + 1000 ≤ gt))

/-- Read the word of a WAIT (R298, R433): it retires once the value is reached; a read that fails stops its ring at its packet,
and what was fetched after it is fetched again. -/
def readWait (s : State) (id : Nat) (c : Cmd) : State :=
  let va := fieldA c.block 0
  let stop (s : State) (cls f t u : Nat) : State :=
    let g := s.ring c.ring
    let before := g.packets.takeWhile (fun p => decide (p.index ≠ c.index))
    let s := s.dropCmds ((g.packets.drop (before.length + 1)).flatMap (·.cmds))
    let s := s.setRing c.ring { g with
      fetch := c.index, stuck := some id, packets := g.packets.take (before.length + 1) }
    let s := { s with cmds := AMap.modify s.cmds id (fun c => { c with begun := false }) }
    (s.setRingState c.ring 1).ringRecord c.ring cls va 7 f t u
  let w := waitReader c.ring
  let begins := !s.remotes.any (fun x => decide (x.2.hw = some (.fetch w))) && !s.fetched.any (fun x => decide (x.1 = w))
  let s := if begins then { s with cmds := AMap.modify s.cmds id (fun c => { c with reread := false }) } else s
  if va.toNat % 8 ≠ 0 then stop s clsALN noFrame noTier 0
  else match fetchVia (waitReader c.ring) (ringAsid c.ring) 2 s va 8 with
    | (s, .ok bs) =>
      let s := s.fetchDone (waitReader c.ring)
      if fieldOf c.block 8 8 ≤ ofBytes bs then retireCmd s id c
      else
        let now := s.gt
        { s with cmds := AMap.modify s.cmds id (fun c => { c with begun := true, polled := now }) }
    | (s, .wait) => s.beginCmd id
    | (s, .missing f _ x) => ringMissing (s.beginCmd id) c.ring f x
    | (s, .fail cls f t u _) => stop (s.fetchDone (waitReader c.ring)) cls f t u

/-- WAIT: the chaining engine reads the word when it reaches it (R298). -/
def execWait (cmd : Nat) (s : State) : Out :=
  .next (
    match readyCmd s cmd 5 with
    | none => s
    | some c => if (s.ring c.ring).stuck.isSome then s else readWait s cmd c)

/-- The engine reads the word of a WAIT again (R298). -/
def execWaitReread (cmd : Nat) (s : State) : Out :=
  .next (
    match AMap.get? s.cmds cmd with
    | none => s
    | some c =>
      if c.begun && !c.retired && decide (c.type = 5) && (s.ring c.ring).missing.isEmpty then readWait s cmd c else s)

/-- CHECKPOINT arms the partition's checkpoint, whose images start with DEST, and retires (R299, R340, R450, R452). -/
def execCheckpoint (cmd : Nat) (s : State) : Out :=
  .next (
    match readyCmd s cmd 6 with
    | none => s
    | some c =>
      match ringPart c.ring with
      | none => s
      | some p =>
        let period := fieldOf c.block 16 4
        let old := (s.part p).ckpt
        let k : Ckpt :=
          { dest := fieldA c.block 0, root := fieldA c.block 8, asid := domAsid c.ring (fieldOf c.block 20 1), period
            nextDue := some (s.gt + 4096 * period)
            steps := (old.map Ckpt.steps).getD 0, due := (old.map Ckpt.due).getD false, cutting := (old.map Ckpt.cutting).getD false
            stream := old.bind Ckpt.stream }
        retireCmd (s.setPart p { s.part p with ckpt := some k }) cmd c)

/-- QCONFIG acts as writes of `hqring` and then `hqctl` of a ring of the same function (R298). -/
def execQconfig (cmd : Nat) (s : State) : Out :=
  .next (
    match readyCmd s cmd 7 with
    | none => s
    | some c =>
      let q := match ringPart c.ring with | some p => 16 * p + fieldOf c.block 0 1 | none => 1024 + fieldOf c.block 0 1
      let base := fieldA c.block 8
      let s := ringWrite (ringWrite s q 0 (lo32 base)) q 1 (hi32 base)
      retireCmd (ringWrite s q 2 (BitVec.ofNat 32 (fieldOf c.block 1 1 + 32 * fieldOf c.block 2 1))) cmd c)

end Sys2Proof.Machine
end

