-- ==== Sys2Proof/Machine/Ckpts.lean ====
section
/-! DEFINITION. Checkpoints and rollback (R340–R346, R450–R452). -/

namespace Sys2Proof.Machine

/-- `ckpstat`.STATE: 0 idle, 1 due, 2 streaming (R340). -/
def State.setCkpState (s : State) (p x : Nat) : State := s.setRegF p 0x6091 0 2 x
/-- Replace a partition's checkpoint. -/
def State.setCkpt (s : State) (p : Nat) (c : Ckpt) : State := s.setPart p { s.part p with ckpt := some c }

/-- The multiple of a period after a GT at which the next checkpoint falls due. -/
def nextPeriod (t period gt : Nat) : Nat := t + 4096 * period * ((gt - t) / (4096 * period) + 1)

/-- A checkpoint falls due by its period or its step count (R340): one that falls due while another is due is taken with it. -/
def execCheckpointDue (part : Nat) (s : State) : Out :=
  .next (
    match (s.part part).ckpt with
    | none => s
    | some c =>
      let byTime : Bool := match c.nextDue with | some t => decide (t ≤ s.gt) | none => false
      let steps := s.regF part 0x6090 0 16
      let bySteps := c.armed && decide (steps ≠ 0) && decide (steps ≤ c.steps)
      if !(byTime || bySteps) then s
      else
        let next := if c.period = 0 then none else if byTime then c.nextDue.map (fun t => nextPeriod t c.period s.gt) else c.nextDue
        let s := s.setCkpt part { c with due := true, steps := if bySteps then 0 else c.steps, nextDue := next, armed := decide (c.period ≠ 0) }
        if c.stream.isNone then s.setCkpState part 1 else s)

/-! ### The cut (R341) -/

/-- An operation's requests are continuations of a context off its core: it cannot complete before the context is placed (R286, R341). -/
def State.carried (s : State) (id : Nat) : Bool :=
  s.blocks.any (fun b => b.2.core?.isNone && b.2.conts.any (fun r => decide (r.op = id)))

/-- Every group has stopped, and nothing of the partition is outstanding but continuations of contexts off their cores. -/
def cutQuiet (s : State) (p : Nat) : Bool :=
  (s.contextsOf p).all (fun hb =>
    hb.2.groups.all (fun g => !(g.inRun && g.nextSlot.isSome) && !g.inOperGate) && !s.remotes.any (fun x => decide (x.2.handle = hb.1))) &&
  !s.ops.any (fun o => decide (o.2.part = some p) && !s.carried o.1)

/-- The frames a range of an image or ROOT is mapped by. -/
def imageFrames (s : State) (c : Ckpt) (base : W64) (len : Nat) : List Nat :=
  rangeFrames s c.asid base len ++ rangeFrames s c.asid c.root 8

/-- Bytes of an image of `n` frames and husks of some lengths (R343). -/
def imageLen (n : Nat) (husks : List Nat) : Nat :=
  65536 * n + husks.foldl (fun a l => a + 64 * cdiv l 64) 0 + 64 + 48 * n + 48 * husks.length

/-- The frames marked at a cut (R341): the partition's popped frames but those that the image of as many frames and ROOT are
mapped by; the first count that is enough. -/
def markedFrames (s : State) (p : Nat) (c : Ckpt) (base : W64) (husks : List Nat) : List Nat :=
  let own := (s.fot.filter (fun fe => decide (ftKind fe.2 = 1) && decide (ftPart fe.2 = p) && !ftPool fe.2)).map (·.1)
  let rest (n : Nat) : List Nat :=
    let im := imageFrames s c base (imageLen n husks)
    own.filter (fun f => !im.contains f)
  ((List.range (own.length + 1)).findSome? (fun n => if (rest n).length ≤ n then some (rest n) else none)).getD []

/-- A context as a checkpoint husk holds it: off its core, with its divergence areas. -/
def savedBlock (s : State) (h : Nat) : Option Block :=
  let s := (List.range 16).foldl (fun s gi => match s.group? h gi with
    | some g => if g.area.isEmpty then saveArea s h gi else s
    | none => s) s
  (AMap.get? s.blocks h).map (fun b =>
    { b with place := .out, gslots := [], phys := [], groups := b.groups.map (fun g => { g with active := false }) })

/-- The checkpoint husks of a cut, in ascending handle. -/
def cutHusks (s : State) (p : Nat) (gt : Nat) : List Husk :=
  (s.contextsOf p).map (fun hb => { huskOf s hb.1 hb.2 1 gt with saved := savedBlock s hb.1 })

/-- Write the husks of an image one after another, each 64-byte aligned; where each lies, or the address that failed. -/
def writeHusks (p a cut : Nat) : List Husk → State → W64 → Nat → State × Except W64 (List (Nat × Nat × Nat × List Byte))
  | [], s, _, _ => (s, .ok [])
  | k :: ks, s, base, off =>
    match writeLong (.image p cut) a longFuel s (base + BitVec.ofNat 64 off) (s.huskBytes k) with
    | (s, some e) => (s, .error e.va)
    | (s, none) =>
      match writeHusks p a cut ks s base (off + k.space) with
      | (s, .ok r) => (s, .ok ((k.handle, off, k.total, sha256 (s.huskBytes k)) :: r))
      | (s, .error e) => (s, .error e)

/-- Read through a reader, or why not. -/
def longRead (s : State) (reader a : Nat) (va : W64) (n : Nat) : Got (List Byte) :=
  match fetchVia reader a (n / 64 + 2) s va n with
  | (s, .ok bs) => (s, .ok bs)
  | (s, .wait) => (s, .error .wait)
  | (s, .missing f t x) => (s, .error (.missing f t x))
  | (s, .fail c f t u x) => (s, .error (.fail c f t u x))

/-- A manifest's address, header, frame entries and husk entries: handle, offset, length and digest. -/
structure Entries where
  at_ : W64
  head : List Byte
  frames : List (Nat × Nat × Nat × List Byte)
  husks : List (Nat × Nat × Nat × List Byte)

/-- The offset of a manifest in its image (R343). -/
def Entries.off (e : Entries) : Nat := e.husks.foldl (fun a h => max a (h.2.1 + 64 * cdiv h.2.2.1 64)) (65536 * e.frames.length)
/-- The base of the image of a manifest. -/
def Entries.base (e : Entries) : W64 := e.at_ - BitVec.ofNat 64 e.off
/-- The bytes of the image of a manifest. -/
def Entries.len (e : Entries) : Nat := e.off + 64 + 48 * (e.frames.length + e.husks.length)

/-- Read the manifest that ROOT names (R343, R452): its header is judged by `ok`. -/
def readEntries (s : State) (reader : Nat) (c : Ckpt) (ok : List Byte → Bool) : Got Entries :=
  (longRead s reader c.asid c.root 8).bind (fun s r =>
    let at_ : W64 := BitVec.ofNat 64 (ofBytes r)
    (longRead s reader c.asid at_ 64).bind (fun s head =>
      let nfr := fieldOf head 16 4
      let nhk := fieldOf head 20 4
      if !ok head then badAt s at_
      else
        (longRead s reader c.asid (at_ + 64) (48 * (nfr + nhk))).bind (fun s es =>
          let entry (i : Nat) : Nat × Nat × Nat × List Byte :=
            let e := (es.drop (48 * i)).take 48
            (fieldOf e 0 4, fieldOf e 8 8, if i < nfr then 65536 else fieldOf e 4 4, (e.drop 16).take 32)
          (s, .ok { at_, head, frames := (List.range nfr).map entry, husks := (List.range nhk).map (fun i => entry (nfr + i)) }))))

/-- An image at a base of some bytes would be written into the one that ROOT names (R450). -/
def intoCurrent (cur : Option Entries) (base : W64) (len : Nat) : Bool :=
  match cur with
  | some e => overlap base.toNat len e.base.toNat e.len
  | none => false

/-- The places an image may go to (R450): DEST and `ckpalt` in turn, DEST first; no `ckpalt` where it is 0. DESIGN CHOICE: where the one
whose turn it is lies in the image that ROOT names, the other is taken, if it does not (log 26). -/
def imageBases (s : State) (p : Nat) (c : Ckpt) : List W64 :=
  let alt := s.reg64 p 0x6096
  if alt = 0 then [c.dest] else if c.alt then [alt, c.dest] else [c.dest, alt]

/-- Take the cut (R341, R450, R451): husks, marks, and the image begins to stream; a ROOT that names no manifest names no image. -/
def takeCut (s : State) (p : Nat) (c : Ckpt) : State :=
  match readEntries s (cutReader p) c (fun hd => decide (fieldOf hd 0 4 = 1)) with
  | (s, .error .wait) => s
  | (s, r) => cutInto (s.fetchDone (cutReader p)) p c (match r with | .ok e => some e | .error _ => none)
where
  /-- The cut, given the manifest that ROOT names. -/
  cutInto (s : State) (p : Nat) (c : Ckpt) (cur : Option Entries) : State :=
    let hs := cutHusks s p s.gt
    let frames (base : W64) : List Nat := markedFrames s p c base (hs.map Husk.total)
    match (imageBases s p c).find? (fun b => !intoCurrent cur b (imageLen (frames b).length (hs.map Husk.total))) with
    | none => abortCkpt s p c.dest c.dest
    | some base => cutAt s p c hs base (frames base)
  /-- The cut into an image at a base. -/
  cutAt (s : State) (p : Nat) (c : Ckpt) (hs : List Husk) (base : W64) (frames : List Nat) : State :=
    match writeHusks p c.asid s.gt hs s base (65536 * frames.length) with
    | (s, .error va) => abortCkpt s p base va
    | (s, .ok written) =>
      let x := s.part p
      let ls := s.launches.filter (fun l => decide (l.2.part = some p))
      let s := { s with cow := s.cow ++ frames, husks := hs ++ s.husks }
      let s := s.setPart p { x with
        images := (s.gt, ls) :: x.images
        ckpt := some { c with due := false, cutting := false, stream := some { cut := s.gt, root := c.root, asid := c.asid, base, frames, copied := [], husks := written } } }
      s.setCkpState p 2

/-- The partition's groups stop at their run ends; once nothing of it moves, the cut is taken and its contexts go on (R341). -/
def execCheckpointCut (part : Nat) (s : State) : Out :=
  .next (
    match (s.part part).ckpt with
    | none => s
    | some c =>
      if !c.due || c.stream.isSome || !s.holds part then s
      else if !c.cutting then (if cutMoment s part then s.setCkpt part { c with cutting := true } else s)
      else if cutQuiet s part then takeCut s part c
      else s)

/-! ### Streaming and commit (R342–R344) -/

/-- Something waits for a frame's page. -/
def State.pageWaited (s : State) (f : Nat) : Bool :=
  s.blocks.any (fun b => b.2.missing.contains (.frame f)) || s.ops.any (fun o => o.2.waits.contains (.frame f)) ||
  s.rings.any (fun r => r.2.missing.contains (.frame f)) || s.inbound.any (fun x => decide (x.2 = some (.frame f))) ||
  s.cmds.any (fun c => decide (c.2.page = some (.frame f))) || s.launches.any (fun l => decide (l.2.unwritten = some f))

/-- The copy engine that streams a part of an image. DESIGN CHOICE: they take turns by frame (log 23). -/
def streamEngine (frame : Nat) : Activity := .copyEngine (frame % 32)

/-- A copy engine may transfer now (R313, R315). -/
def State.mayStream (s : State) (frame : Nat) : Bool := s.mayTransfer && !s.paused.contains (streamEngine frame)

/-- Writes of the image of a partition's cut are on their way to the host or a peer. -/
def State.imageOut (s : State) (p cut : Nat) : Bool := s.remotes.any (fun r => decide (r.2.hw = some (.image p cut)))

/-- A write of the image of a partition's cut is not performed: the checkpoint aborts, if it is still that one (R451). -/
def imageLost (s : State) (p cut : Nat) (va : W64) : State :=
  match (s.part p).ckpt.bind Ckpt.stream with
  | some m => if m.cut = cut then abortCkpt s p m.base va else s
  | none => s

/-- Copy a marked frame into the image (R342, R451): one that something waits for goes first, within the engine's budget (R315). -/
def execCheckpointFrameCopy (part frame : Nat) (s : State) : Out :=
  .next (
    match (s.part part).ckpt with
    | none => s
    | some c =>
      match c.stream with
      | none => s
      | some m =>
        let left := m.frames.filter (fun f => !m.copied.any (fun x => decide (x.1 = f)))
        let turn := left.contains frame && (s.pageWaited frame || !left.any s.pageWaited)
        if !turn || !s.mayStream frame then s
        else let s := s.act (streamEngine frame)
        match s.physRead (physAddr frame 0) 65536 with
          | .error _ => abortCkpt s part m.base 0
          | .ok bs =>
            let at_ := m.base + BitVec.ofNat 64 (65536 * (m.frames.takeWhile (fun f => decide (f ≠ frame))).length)
            match writeLong (.image part m.cut) m.asid 2 s at_ bs with
            | (s, some e) => abortCkpt s part m.base e.va
            | (s, none) =>
              let s := s.setCkpt part { c with stream := some { m with copied := m.copied ++ [(frame, sha256 bs)] } }
              s.endMark frame)

/-- The manifest of an image (R343). -/
def manifestBytes (p : Nat) (gen : W32) (m : Stream) : List Byte :=
  let digest (f : Nat) : List Byte := ((m.copied.find? (fun x => decide (x.1 = f))).map (·.2)).getD []
  toBytes 1 4 ++ toBytes p 1 ++ [0, 0, 0] ++ toBytes m.cut 8 ++ toBytes m.frames.length 4 ++ toBytes m.husks.length 4 ++
  toBytes gen.toNat 4 ++ List.replicate 36 0 ++
  (List.range m.frames.length).flatMap (fun i =>
    let f := m.frames.getD i 0
    toBytes f 4 ++ List.replicate 4 0 ++ toBytes (65536 * i) 8 ++ digest f) ++
  m.husks.flatMap (fun h => toBytes h.1 4 ++ toBytes h.2.2.1 4 ++ toBytes h.2.1 8 ++ h.2.2.2)

/-- The offset of an image's manifest (R343). -/
def manifestOff (m : Stream) : Nat := m.husks.foldl (fun a h => max a (h.2.1 + 64 * cdiv h.2.2.1 64)) (65536 * m.frames.length)

/-- The checkpoint is committed (R344, R450). -/
def commitCkpt (s : State) (p : Nat) (c : Ckpt) (m : Stream) : State :=
  let s := s.setReg64 p 0x6092 (BitVec.ofNat 64 m.cut)
  (s.setCkpt p { c with stream := none, alt := decide (m.base = c.dest) }).setCkpState p (if c.due then 1 else 0)

/-- The checkpoint commits (R344): the manifest follows the frames, and its address goes to ROOT once every byte of the image has been
performed. -/
def execCheckpointCommit (part : Nat) (s : State) : Out :=
  .next (
    match (s.part part).ckpt with
    | none => s
    | some c =>
      match c.stream with
      | none => s
      | some m =>
        let at_ := m.base + BitVec.ofNat 64 (manifestOff m)
        let write (va : W64) (bs : List Byte) (k : State → State) : State :=
          match writeLong (.image part m.cut) m.asid longFuel s va bs with
          | (s, some e) => abortCkpt s part m.base e.va
          | (s, none) => k s
        if m.copied.length < m.frames.length ∨ s.imageOut part m.cut then s
        else if m.rooted then commitCkpt s part c m
        else if m.manifest then
          write m.root (toBytes at_.toNat 8) (fun s =>
            if s.imageOut part m.cut then s.setCkpt part { c with stream := some { m with rooted := true } } else commitCkpt s part c m)
        else if !s.mayStream m.frames.length then s
        else write at_ (manifestBytes part (s.reg part 0x6010) m) (fun s =>
          (s.act (streamEngine m.frames.length)).setCkpt part { c with stream := some { m with manifest := true } }))

/-! ### Rollback (R345, R452) -/

/-- A manifest as read: its image's base, frames with their bytes, and husks with their bytes. -/
structure Manifest where
  frames : List (Nat × List Byte)
  husks : List (Nat × List Byte)

/-- Read the pieces an image's entries name, and check their digests. -/
def readPieces (p a : Nat) (base : W64) : List (Nat × Nat × Nat × List Byte) → State → Got (List (Nat × List Byte))
  | [], s => (s, .ok [])
  | e :: es, s =>
    (longRead s (rollReader p) a (base + BitVec.ofNat 64 e.2.1) e.2.2.1).bind (fun s bs =>
      if sha256 bs ≠ e.2.2.2 then badAt s base
      else (readPieces p a base es s).bind (fun s rest => (s, .ok ((e.1, bs) :: rest))))

/-- Read and check the manifest that ROOT names, and every digest (R452). -/
def readManifest (s : State) (p cut : Nat) (c : Ckpt) : Got Manifest :=
  let ok (hd : List Byte) : Bool :=
    decide (fieldOf hd 0 4 = 1 ∧ fieldOf hd 4 1 = p ∧ fieldOf hd 8 8 = cut ∧ fieldOf hd 24 4 = (s.reg p 0x6010).toNat)
  (readEntries s (rollReader p) c ok).bind (fun s e =>
    (readPieces p c.asid e.base e.frames s).bind (fun s frames =>
      (readPieces p c.asid e.base e.husks s).bind (fun s husks =>
        if frames.all (fun f => decide (ftKind (s.ftEntry f.1) = 1) && decide (ftPart (s.ftEntry f.1) = p)) then
          (s, .ok { frames, husks })
        else badAt s e.at_)))

/-- A frame is rewritten from the image, out of the pool. -/
def restoreFrame (p : Nat) (s : State) (f : Nat × List Byte) : State :=
  let s := s.setPool p ((s.pool p).filter (fun x => decide (x ≠ f.1)))
  let s := (s.setFt f.1 (setFld (s.ftEntry f.1) 19 1 0)).scrubAll f.1 512
  match s.physWrite (physAddr f.1 0) f.2 with
  | .ok s => s
  | .error _ => s

/-- A frame that the manifest omits returns to the pool, as by `fput`. -/
def dropFrame (p : Nat) (s : State) (f : Nat) : State :=
  if s.frontierFor f then s.fput p f else (s.fput p f).scrubAll f 512

/-- A checkpoint husk becomes the one placeable husk of its context, for the partition's next turn (R345 step 5). -/
def restoreContext (p cut : Nat) (s : State) (h : Nat × List Byte) : State :=
  match s.husks.find? (fun k => decide (k.kind = 1 ∧ k.handle = h.1 ∧ k.gt = cut ∧ k.part = p)) with
  | none => s
  | some k =>
    match k.saved with
    | none => s
    | some b =>
      if !s.huskOpens k h.2 then s
      else
        let s := { s with
          husks := s.husks.map (fun (x : Husk) => if x.handle = h.1 then { x with placeable := decide (x = k) } else x)
          blocks := AMap.put s.blocks h.1 { b with serial := k.serial + 1, place := .husk 0, halted := false } }
        s.setPart p (if s.holds p then { s.part p with later := (s.part p).later ++ [h.1] }
          else { s.part p with awaiting := (s.part p).awaiting ++ [h.1] })

/-- Launches return with their task records (R345): each as it stood at the cut, with the hardware fields its record holds. One begun after
the cut goes by its record as well. -/
def restoreLaunch (s : State) (l : Nat × Launch) : State :=
  let cmd := match l.2.cmd with
    | some c => if (AMap.get? s.cmds c).isSome then some c else none
    | none => none
  let l' : Launch :=
    match (vread s l.2.asid (l.2.recVa + 52) 12).2 with
    | .ok b => { l.2 with stepno := BitVec.ofNat 32 (fieldOf b 0 4), next := fieldOf b 4 4, done := fieldOf b 8 4 }
    | .error _ => l.2
  { s with launches := AMap.put s.launches l.1 { l' with cmd, gang := none } }

/-- The rollback proper (R345). -/
def rollBack (s : State) (p cut : Nat) (m : Manifest) : State :=
  let s := discardContexts s p
  let s := m.frames.foldl (restoreFrame p) s
  let omitted := (s.fot.filter (fun fe => decide (ftKind fe.2 = 1) && decide (ftPart fe.2 = p) && !ftPool fe.2 &&
    !m.frames.any (fun f => decide (f.1 = fe.1)))).map (·.1)
  let s := dropMaps (omitted.foldl (dropFrame p) s) p
  let saved := (((s.part p).images.find? (fun i => decide (i.1 = cut))).map (·.2)).getD []
  let newer := s.launches.filter (fun l => decide (l.2.part = some p) && !saved.any (fun x => decide (x.1 = l.1)))
  let s := (saved ++ newer.map (fun (l : Nat × Launch) => (l.1, { l.2 with again := [], fails := [], onPage := [] }))).foldl restoreLaunch s
  m.husks.foldl (restoreContext p cut) s

/-- A rollback goes on: what it reads from the host may have to come first (R345, R452). -/
def rollStep (s : State) (p cut : Nat) : State :=
  let done (s : State) : State :=
    ((s.fetchDone (rollReader p)).setPart p { s.part p with roll := none }).setRegF p 0x6091 2 1 0
  let refuse (s : State) (f : Nat) : State :=
    ((done s).record { cls := clsCKP, part := some p, frame := f, tier := if f = noFrame then noTier else s.tierOf f } .none).1
  match (s.part p).ckpt with
  | none => refuse s noFrame
  | some c =>
    if c.stream.isSome then s
    else match readManifest s p cut c with
      | (s, .ok m) => done (rollBack s p cut m)
      | (s, .error .wait) => s
      | (s, .error _) =>
        let f := match (vread s c.asid c.root 8).2 with
          | .ok r => (match (translate s none c.asid (ofBytes r) .load).2 with | .mem pa _ _ _ _ _ => pa / 65536 | _ => noFrame)
          | .error _ => noFrame
        refuse s f

/-- A write of `ckproll` (R345): a rollback starts unless one runs. -/
def startRoll (s : State) (p cut : Nat) : State :=
  if (s.part p).roll.isSome then s
  else rollStep ((s.setPart p { s.part p with roll := some cut }).setRegF p 0x6091 2 1 1) p cut

/-- The operator's or owner's rollback request, and its progress (R345). -/
def execCkproll (part : Nat) (cutgt : W64) (s : State) : Out :=
  .next (
    match (s.part part).roll with
    | some c => if c = cutgt.toNat then rollStep s part c else s
    | none => startRoll s part cutgt.toNat)

end Sys2Proof.Machine
end

