-- ==== Sys2Proof/Machine/Trans.lean ====
section
/-! DEFINITION. The transcendental functions of R217. The spec bounds the error and leaves the result open inside the
bound: the result is the module's own value (`Config.trans`, assumption log 9) where it lies within the bound, and the
nearest F32 value otherwise. Exact results are enclosed by fixed-point numbers of 512 fractional bits. -/

namespace Sys2Proof.Machine

/-- Fractional bits of the fixed-point numbers. -/
def fpBits : Nat := 512
/-- One, in fixed point. -/
def fpOne : Int := 2 ^ 512
/-- Product in fixed point. -/
def fpMul (a b : Int) : Int := a * b / fpOne
/-- Quotient in fixed point. -/
def fpDiv (a b : Int) : Int := a * fpOne / b
/-- A finite value in fixed point. -/
def fpOf (neg : Bool) (m : Nat) (e : Int) : Int :=
  let x : Int := if 0 ≤ e + 512 then m * 2 ^ (e + 512).toNat else m / 2 ^ (-(e + 512)).toNat
  if neg then -x else x

/-- `Σ t / k!`: the exponential series from a term, for `fuel` terms. -/
def expSeries : Nat → Nat → Int → Int → Int
  | 0, _, _, _ => 0
  | fuel + 1, k, t, x => t + expSeries fuel (k + 1) (fpMul t x / (k + 1)) x

/-- `e ^ x` for `0 ≤ x < 1`. -/
def fpExpUnit (x : Int) : Int := expSeries 120 0 fpOne x

/-- `Σ ± z ^ (2k+1) / (2k+1)`: the series of the inverse tangent (`alt`) or its hyperbolic twin. -/
def atanSeries (alt : Bool) : Nat → Nat → Int → Int → Int
  | 0, _, _, _ => 0
  | fuel + 1, k, p, z2 =>
    let t := p / (2 * k + 1)
    (if alt && decide (k % 2 = 1) then -t else t) + atanSeries alt fuel (k + 1) (fpMul p z2) z2

/-- Inverse tangent or its hyperbolic twin of `z`, `|z| ≤ 1/3`. -/
def fpAtan (alt : Bool) (z : Int) : Int := atanSeries alt 200 0 z (fpMul z z)

/-- `ln 2`. -/
def fpLn2 : Int := 2 * fpAtan false (fpOne / 3)
/-- `π / 2`. -/
def fpHalfPi : Int := 8 * fpAtan true (fpOne / 5) - 2 * fpAtan true (fpOne / 239)

/-- `2 ^ x`. -/
def fpExp2 (x : Int) : Int :=
  let n := x / fpOne
  let y := fpExpUnit (fpMul (x - n * fpOne) fpLn2)
  if 0 ≤ n then y * 2 ^ n.toNat else y / 2 ^ (-n).toNat

/-- `e ^ (-x)` for `x ≥ 0`. -/
def fpExpNeg (x : Int) : Int := fpExp2 (-(fpDiv x fpLn2))

/-- `log₂` of `m * 2 ^ e`, `m > 0`. -/
def fpLog2 (m : Nat) (e : Int) : Int :=
  let k : Int := bitLen m - 1
  let y := fpOf false m (-k)
  let ln := 2 * fpAtan false (fpDiv (y - fpOne) (y + fpOne))
  (k + e) * fpOne + fpDiv ln fpLn2

/-- `Σ (-1)^k t`: the sine or cosine series from a term `t` of degree `d`. -/
def trigSeries : Nat → Nat → Int → Int → Int
  | 0, _, _, _ => 0
  | fuel + 1, d, t, x2 => t - trigSeries fuel (d + 2) (fpMul t x2 / ((d + 1) * (d + 2))) x2

/-- Sine (`shift = 0`) or cosine (`shift = 1`) of a fixed-point angle: reduced by quarter turns. -/
def fpTrig (shift : Int) (x : Int) : Int :=
  let n := x / fpHalfPi
  let r := x - n * fpHalfPi
  let k := (n + shift) % 4
  let y := if k % 2 = 0 then trigSeries 70 1 r (fpMul r r) else trigSeries 70 0 fpOne (fpMul r r)
  if k < 2 then y else -y

/-- The exponent of F32's spacing at a fixed-point magnitude (R217). -/
def ulpExp (x : Int) : Int := max ((bitLen x.natAbs : Int) - 513) (-126) - 23

/-- The bound of 2 ulp at an exact result, in fixed point. -/
def twoUlp (x : Int) : Int := fpOf false 2 (ulpExp x)

/-- An F32 result in fixed point; ±∞ stands for ±2^128. -/
def fpOfBits (r : W32) : Option Int :=
  match F32.decode r.toNat with
  | .nan => none
  | .inf s => some (fpOf s 1 128)
  | .fin s m e => some (fpOf s m e)

/-- The result of an instruction for an exact value: beyond F32's range ±∞, below its subnormal range ±0; the module's own value when it is within the
bound; else the nearest F32 value (R217). -/
def pick (op : Nat) (a : W32) (exact bound : Int) : Nat :=
  let neg := decide (exact < 0)
  if fpOf false 1 128 ≤ (exact.natAbs : Int) then F32.infBits neg
  else if (exact.natAbs : Int) < fpOf false 1 (-149) then F32.round 0 (.fin neg 0 0) 0
  else
    let r := Config.trans op a
    match fpOfBits r with
    | some x => if ((x - exact).natAbs : Int) ≤ bound + 2 ^ 64 then r.toNat else F32.round 0 (.fin neg exact.natAbs (-512)) 0
    | none => F32.round 0 (.fin neg exact.natAbs (-512)) 0

/-- The larger of 2 ulp and 2^-24 absolute (R217). -/
def smoothBound (x : Int) : Int := max (twoUlp x) (fpOf false 1 (-24))

/-- `frcp` (R217): one of the two F32 values nearest the exact reciprocal. -/
def rcpBits (a : W32) : Nat :=
  match F32.decode a.toNat with
  | .nan => F32.nanBits
  | .inf s => F32.round 0 (.fin s 0 0) 0
  | .fin s m e =>
    if m = 0 then F32.infBits s
    else
      let q := 2 ^ 400 / m
      let x : FV := .fin s (2 * q + b2n (decide (q * m ≠ 2 ^ 400))) (-e - 401)
      if (bitLen q : Int) - 400 - e > 128 then F32.infBits s
      else F32.round (if Config.rcpUpper a then 3 else 2) x 0

/-- `frsq` (R217). -/
def rsqBits (a : W32) : Nat :=
  match F32.decode a.toNat with
  | .nan => F32.nanBits
  | .inf s => if s then F32.nanBits else 0
  | .fin s m e =>
    if m = 0 then F32.infBits s
    else if s then F32.nanBits
    else
      let x : Int := isqrt (2 ^ (1024 + (if e ≤ 0 then (-e).toNat else 0)) / (m * 2 ^ e.toNat))
      pick 0x051 a x (twoUlp x)

/-- `fex2` (R217): exact for integral operands with a representable result. -/
def ex2Bits (a : W32) : Nat :=
  match F32.decode a.toNat with
  | .nan => F32.nanBits
  | .inf s => if s then 0 else F32.infBits false
  | .fin s m e =>
    let v : FV := .fin s m e
    if v.cmp (.fin false 128 0) ≥ 0 then F32.infBits false
    else if v.cmp (.fin true 200 0) ≤ 0 then 0
    else
      let x := fpOf s m e
      if x % fpOne = 0 ∧ 0 ≤ e + 512 ∧ -149 ≤ x / fpOne then F32.round 0 (.fin false 1 (x / fpOne)) 0
      else
        let y := fpExp2 x
        pick 0x053 a y (twoUlp y)

/-- `flg2` (R217): exact for powers of two. -/
def lg2Bits (a : W32) : Nat :=
  match F32.decode a.toNat with
  | .nan => F32.nanBits
  | .inf s => if s then F32.nanBits else F32.infBits false
  | .fin s m e =>
    if m = 0 then F32.infBits true
    else if s then F32.nanBits
    else if m = 2 ^ (bitLen m - 1) then F32.round 0 (FV.ofInt ((bitLen m : Int) - 1 + e)) 0
    else
      let x := fpLog2 m e
      let v : FV := .fin s m e
      let near := decide (0 ≤ v.cmp (.fin false 1 (-1))) && decide (v.cmp (.fin false 2 0) ≤ 0)
      pick 0x054 a x (if near then fpOf false 1 (-22) else twoUlp x)

/-- `fsin` and `fcos` (R217): exact range reduction. -/
def trigBits (cosine : Bool) (a : W32) : Nat :=
  match F32.decode a.toNat with
  | .nan => F32.nanBits
  | .inf _ => F32.nanBits
  | .fin s m e =>
    if m = 0 then (if cosine then 0x3F800000 else a.toNat)
    else
      let x := fpTrig (if cosine then 1 else 0) (fpOf s m e)
      pick (if cosine then 0x056 else 0x055) a x (smoothBound x)

/-- `fsig` (R217). -/
def sigBits (a : W32) : Nat :=
  match F32.decode a.toNat with
  | .nan => F32.nanBits
  | .inf s => if s then 0 else 0x3F800000
  | .fin s m e =>
    if m = 0 then 0x3F000000
    else
      let v : FV := .fin false m e
      let ex : Int := if v.cmp (.fin false 300 0) ≥ 0 then 0 else fpExpNeg (fpOf false m e)
      let x := if s then fpDiv ex (fpOne + ex) else fpDiv fpOne (fpOne + ex)
      pick 0x057 a x (smoothBound x)

/-- `ftanh` (R217). -/
def tanhBits (a : W32) : Nat :=
  match F32.decode a.toNat with
  | .nan => F32.nanBits
  | .inf s => if s then 0xBF800000 else 0x3F800000
  | .fin s m e =>
    if m = 0 then a.toNat
    else
      let v : FV := .fin false m e
      let ex : Int := if v.cmp (.fin false 300 0) ≥ 0 then 0 else fpExpNeg (2 * fpOf false m e)
      let y := fpDiv (fpOne - ex) (fpOne + ex)
      let x := if s then -y else y
      pick 0x058 a x (smoothBound x)

end Sys2Proof.Machine
end

