-- ==== Sys2Proof/Machine/Float.lean ====
section
/-! DEFINITION. Floating-point arithmetic, comparison, classification and the transcendentals (R207–R217). -/

namespace Sys2Proof.Machine

/-- The format of a type code TY or of its elements (R178). -/
def tyFmt (t : Nat) : Fmt := if t = 0 then F32 else if t = 1 then F16 else BF16
/-- The bits of element `i` of a register of a type (R93). -/
def elemOf (t i : Nat) (x : W32) : Nat := if t = 0 then x.toNat else fldN x (16 * i) 16
/-- A register of a type from its elements (R93). -/
def packElems (t : Nat) (f : Nat → Nat) : W32 :=
  if t = 0 then BitVec.ofNat 32 (f 0) else BitVec.ofNat 32 (f 0 % 65536 + 65536 * (f 1 % 65536))

/-- ABS, then NEG, on the bits of one element (R209). -/
def modSign (f : Fmt) (abs neg : Bool) (x : Nat) : Nat :=
  let s := 2 ^ (f.ew + f.fw)
  let y := if abs then x % s else x
  if neg then (if s ≤ y then y - s else y + s) else y

/-- Element `i` of source `k` (0 SA, 1 SB, 2 SC) of a floating-point word, with its source modifiers (R209). -/
def fsrc (v : View) (h : Head) (o : F3) (k l i : Nat) : Nat :=
  let x := if k = 0 then o.sa else if k = 1 then o.sb else o.sc
  modSign (tyFmt (ty o)) (bit o.mod (3 + k)) (bit o.mod k) (elemOf (ty o) i (v.src h (bit o.mod (13 + k)) x l))

/-- The value of a source element. -/
def fval (v : View) (h : Head) (o : F3) (k l i : Nat) : FV := (tyFmt (ty o)).decode (fsrc v h o k l i)

/-- The tags of the first `n` sources are the type's (R208). -/
def srcTags (n : Nat) (v : View) (h : Head) (o : F3) (l : Nat) : Bool :=
  (decide (n < 1) || v.tagOk h (bit o.mod 13) o.sa.toNat (tagTy (ty o)) l) &&
  (decide (n < 2) || v.tagOk h (bit o.mod 14) o.sb.toNat (tagTy (ty o)) l) &&
  (decide (n < 3) || v.tagOk h (bit o.mod 15) o.sc.toNat (tagTy (ty o)) l)

/-- A floating-point word of `n` checked sources that writes, for each element, the bits a function gives (R208, R211). -/
def floatOp (i : Instr) (h : Head) (o : F3) (n : Nat) (f : View → Nat → Nat → Nat) (s : State) : Out :=
  aluTagged i h (fun v l => srcTags n v h o l)
    (fun v l => putReg h.u o.dst.toNat l (tagTy (ty o)) (packElems (ty o) (fun e => f v l e))) s

/-- Round a value into the word's format in its rounding mode. -/
def rndTo (o : F3) (x : FV) : Nat := (tyFmt (ty o)).round (rnd o) x 0

/-- `fadd` (R211). -/
def execFadd (h : Head) (o : F3) (s : State) : Out :=
  floatOp (.fadd h o) h o 2 (fun v l e => rndTo o ((fval v h o 0 l e).add (rnd o) (fval v h o 1 l e))) s
/-- `fsub` (R211). -/
def execFsub (h : Head) (o : F3) (s : State) : Out :=
  floatOp (.fsub h o) h o 2 (fun v l e => rndTo o ((fval v h o 0 l e).add (rnd o) (fval v h o 1 l e).neg)) s
/-- `fmul` (R211). -/
def execFmul (h : Head) (o : F3) (s : State) : Out :=
  floatOp (.fmul h o) h o 2 (fun v l e => rndTo o ((fval v h o 0 l e).mul (fval v h o 1 l e))) s
/-- `ffma` (R211): one rounding. -/
def execFfma (h : Head) (o : F3) (s : State) : Out :=
  floatOp (.ffma h o) h o 3 (fun v l e =>
    rndTo o (((fval v h o 0 l e).mul (fval v h o 1 l e)).add (rnd o) (fval v h o 2 l e))) s

/-- minimumNumber and maximumNumber on bits (R212): −0 is below +0. -/
def minMaxBits (f : Fmt) (isMax : Bool) (a b : Nat) : Nat :=
  let x := f.decode a
  let y := f.decode b
  if x.isNan then (if y.isNan then f.nanBits else b)
  else if y.isNan then a
  else
    let c := x.cmp y
    let aLess := decide (c < 0) || (decide (c = 0) && x.isNeg)
    if aLess != isMax then a else b

/-- `fmin` (R212). -/
def execFmin (h : Head) (o : F3) (s : State) : Out :=
  floatOp (.fmin h o) h o 2 (fun v l e => minMaxBits (tyFmt (ty o)) false (fsrc v h o 0 l e) (fsrc v h o 1 l e)) s
/-- `fmax` (R212). -/
def execFmax (h : Head) (o : F3) (s : State) : Out :=
  floatOp (.fmax h o) h o 2 (fun v l e => minMaxBits (tyFmt (ty o)) true (fsrc v h o 0 l e) (fsrc v h o 1 l e)) s

/-- A condition on two values, true when unordered as the flag says (R215). -/
def condFloat (c : Nat) (un : Bool) (a b : FV) : Bool :=
  if a.isNan || b.isNan then un else condInt c (a.cmp b) 0

/-- EL of a comparison (R215). -/
def elSel (o : F3) : Nat := b2n (bit o.mod 6)

/-- `fcmp` (R215). -/
def execFcmp (h : Head) (o : F3) (s : State) : Out :=
  aluTagged (.fcmp h o) h (fun v l => srcTags 2 v h o l)
    (fun v l => putPrd h.u (fldN o.dst 0 3) l
      (condFloat (fldN o.dst 3 3) (bit o.dst 6) (fval v h o 0 l (elSel o)) (fval v h o 1 l (elSel o)))) s

/-- `fmuli` (R211). -/
def execFmuli (h : Head) (o : FI) (s : State) : Out :=
  aluTagged (.fmuli h o) h (fun v l => v.tagOk h false o.sa.toNat tagF32 l)
    (fun v l => putReg h.u o.dst.toNat l tagF32 (BitVec.ofNat 32
      (F32.round 0 ((F32.decode (v.src h false o.sa l).toNat).mul (F32.decode o.imm.toNat)) 0))) s
/-- `faddi` (R211). -/
def execFaddi (h : Head) (o : FI) (s : State) : Out :=
  aluTagged (.faddi h o) h (fun v l => v.tagOk h false o.sa.toNat tagF32 l)
    (fun v l => putReg h.u o.dst.toNat l tagF32 (BitVec.ofNat 32
      (F32.round 0 ((F32.decode (v.src h false o.sa l).toNat).add 0 (F32.decode o.imm.toNat)) 0))) s

/-- The sum of three values as one fused operation: two opposite infinities anywhere among them give NaN; an exact zero
sum of signed zeros keeps a common sign (R94, R213). -/
def sum3 (mode : Nat) (x y z : FV) : FV :=
  if x.isZero && y.isZero && z.isZero then
    (if x.isNeg == y.isNeg && y.isNeg == z.isNeg then x else .fin (decide (mode = 2)) 0 0)
  else
    match (x.add mode y).add mode z with
    | .fin sg m e => if m = 0 then .fin (decide (mode = 2)) 0 e else .fin sg m e
    | r => r

/-- `fdot2` (R213). -/
def execFdot2 (h : Head) (o : F3) (s : State) : Out :=
  aluTagged (.fdot2 h o) h
    (fun v l => srcTags 2 v h o l && v.tagOk h (bit o.mod 15) o.sc.toNat tagF32 l)
    (fun v l =>
      let c := F32.decode (modSign F32 (bit o.mod 5) (bit o.mod 2) (v.src h (bit o.mod 15) o.sc l).toNat)
      putReg h.u o.dst.toNat l tagF32 (BitVec.ofNat 32
        (F32.round (rnd o) (sum3 (rnd o) ((fval v h o 0 l 0).mul (fval v h o 1 l 0)) ((fval v h o 0 l 1).mul (fval v h o 1 l 1)) c) 0))) s

/-- The class bit of an element's bits (R216). -/
def classOf (f : Fmt) (x : Nat) : Nat :=
  match f.decode x with
  | .nan => 8
  | .inf s => if s then 0 else 7
  | .fin s m _ =>
    if m = 0 then (if s then 3 else 4)
    else if m < 2 ^ f.fw then (if s then 2 else 5)
    else (if s then 1 else 6)

/-- `fclass` (R216): the mask operand is exempt from the tag check. -/
def execFclass (h : Head) (o : F3) (s : State) : Out :=
  aluTagged (.fclass h o) h (fun v l => srcTags 1 v h o l)
    (fun v l => putPrd h.u o.dst.toNat l
      (bit (v.src h (bit o.mod 14) o.sb l) (classOf (tyFmt (ty o)) (fsrc v h o 0 l (elSel o))))) s

/-- `frnd` (R214). -/
def execFrnd (h : Head) (o : F3) (s : State) : Out :=
  floatOp (.frnd h o) h o 1 (fun v l e => rndTo o ((fval v h o 0 l e).integral (rnd o))) s

/-- A transcendental on each element: widened exactly to F32, computed, rounded rn to the element format (R217). -/
def transOp (i : Instr) (h : Head) (o : F3) (f : W32 → Nat) (s : State) : Out :=
  floatOp i h o 1 (fun v l e =>
    let a : W32 := BitVec.ofNat 32 (F32.round 0 (fval v h o 0 l e) 0)
    if ty o = 0 then f a else (tyFmt (ty o)).round 0 (F32.decode (f a)) 0) s

/-- `frcp` (R217). -/
def execFrcp (h : Head) (o : F3) (s : State) : Out := transOp (.frcp h o) h o rcpBits s
/-- `frsq` (R217). -/
def execFrsq (h : Head) (o : F3) (s : State) : Out := transOp (.frsq h o) h o rsqBits s
/-- `fsqrt` (R217): correctly rounded directly into the element format. -/
def execFsqrt (h : Head) (o : F3) (s : State) : Out :=
  floatOp (.fsqrt h o) h o 1 (fun v l e => rndTo o (fval v h o 0 l e).sqrt) s
/-- `fex2` (R217). -/
def execFex2 (h : Head) (o : F3) (s : State) : Out := transOp (.fex2 h o) h o ex2Bits s
/-- `flg2` (R217). -/
def execFlg2 (h : Head) (o : F3) (s : State) : Out := transOp (.flg2 h o) h o lg2Bits s
/-- `fsin` (R217). -/
def execFsin (h : Head) (o : F3) (s : State) : Out := transOp (.fsin h o) h o (trigBits false) s
/-- `fcos` (R217). -/
def execFcos (h : Head) (o : F3) (s : State) : Out := transOp (.fcos h o) h o (trigBits true) s
/-- `fsig` (R217). -/
def execFsig (h : Head) (o : F3) (s : State) : Out := transOp (.fsig h o) h o sigBits s
/-- `ftanh` (R217). -/
def execFtanh (h : Head) (o : F3) (s : State) : Out := transOp (.ftanh h o) h o tanhBits s

end Sys2Proof.Machine
end

