-- ==== Sys2Proof/Machine/Transfers.lean ====
section
/-! DEFINITION. What the engines do with submitted copies, gathers, scatters and `tmld`: their order, their accesses to memory,
scratchpads, the host and peers, their failures and their retiring (R124, R141, R287, R289, R290, R380, R381, R413, R420). -/

namespace Sys2Proof.Machine

/-! ### Order and retiring -/

/-- Two operations are of one submitter and class: an engine performs and retires them in order (R276). -/
def EngOp.sameLine (a b : EngOp) : Bool :=
  match a.owner, b.owner with
  | .group h gi _, .group h' gi' _ => decide (h = h' ∧ gi = gi' ∧ a.cls = b.cls)
  | _, _ => false

/-- No earlier operation of the same submitter and class is outstanding. -/
def engFirst (s : State) (id : Nat) (o : EngOp) : Bool := !s.ops.any (fun x => decide (x.1 < id) && x.2.sameLine o)

/-- One less of a class is outstanding at a gate depth (R141, R237): in the group's counters, or in the caller's image. -/
def Group.uncount (g : Group) (depth cls : Nat) : Group :=
  let dec (c : Counters) : Counters := c.set cls (c.get cls - 1)
  let n := g.gates.length
  if depth < n then
    { g with gates := g.gates.modify (n - 1 - depth) (fun f => { f with counters := dec f.counters }) }
  else { g with counters := dec g.counters }

/-- The failure of an operation is handed over: to the group's `waitc`, to the owner once the group has exited, as the kill of
its group, or to the owner of a ring command (R380, R420, R437). -/
def deliverFailure (s : State) (o : EngOp) : State :=
  match o.fail with
  | none => s
  | some f =>
    match o.owner with
    | .cmd _ =>
      (s.record
        { cls := f.cls, vaddr := f.vaddr, kind := f.kind, part := o.part, frame := f.frame, tier := f.tier, unit := f.unit
          sp := decide (f.cls = clsSPV), ukind := if f.cls = clsECC then 7 else 0 } (if o.part.isSome then .queue else .oper)).1
    | .group h gi _ =>
      match AMap.get? s.blocks h with
      | none => s
      | some b =>
        match b.groups[gi]? with
        | none => s
        | some g =>
          if o.kill then
            if g.exited = allLanes then s
            else
              killGroup (s.record
                { s.recOf h gi f.cls with
                  kill := true, iaddr := f.iaddr, vaddr := f.vaddr, kind := f.kind, lanes := f.mask, frame := f.frame, tier := f.tier
                  unit := f.unit, ukind := 7 } (g.ownerTo b.part?)).1 h gi
          else
            let s := s.modGroup h gi (fun g => { g with failures := g.failures ++ [f] })
            if g.exited = allLanes then flushFailures s h gi 0 else s

/-- An operation retires: its counter falls, its failure is handed over, and what its frames kept waiting is tried again
(R124, R141, R380). -/
def retireOp (s : State) (id : Nat) (o : EngOp) : State :=
  let s := { s.fetchDone (opReader id) with
    ops := AMap.del s.ops id, jobs := s.jobs.filter (fun j => j.2.finished || decide (j.2.op ≠ some id)) }
  let s := match o.owner with
    | .group h gi d => s.modGroup h gi (fun g => g.uncount d o.cls)
    | .cmd _ => s
  (if o.cancelled then s else deliverFailure s o).retryFrames

/-! ### Accesses of an engine -/

/-- A range cut where a 4 KiB page ends. -/
def cutPages : Nat → W64 → Nat → List (W64 × Nat)
  | 0, _, _ => []
  | fuel + 1, va, n =>
    if n = 0 then []
    else
      let m := min n (4096 - va.toNat % 4096)
      (va, m) :: cutPages fuel (va + BitVec.ofNat 64 m) (n - m)

/-- The cuts of a range of `n` bytes. -/
def pagesOf (va : W64) (n : Nat) : List (W64 × Nat) := cutPages (n / 4096 + 2) va n

/-- Where a piece of an operand lies, once judged. -/
inductive Piece where
  /-- A block's scratchpad: its handle and the block offset. -/
  | sp (h off n : Nat)
  /-- Device memory. -/
  | dev (pa n : Nat)
  /-- A host or peer page. -/
  | away (t : Tr) (va : W64) (n : Nat)
  /-- A check fails: class, frame, tier and unit. -/
  | bad (cls frame tier unit : Nat)
  /-- A missing page, and the address. -/
  | gone (k : PageKey) (va : W64)

/-- Bytes of a piece. -/
def Piece.size : Piece → Nat
  | .sp _ _ n => n
  | .dev _ n => n
  | .away _ _ n => n
  | _ => 0

/-- Judge a range of an operation within one page (R403). -/
def judgePiece (s : State) (a : Nat) (k : Acc) (va : W64) (n : Nat) : State × Piece :=
  match judge s none a k va 1 with
  | (s, .mem pa _ _ _ _ _) => (s, .dev pa n)
  | (s, .fail c f t) => (s, .bad c f t 0)
  | (s, .firstTouch) => (s, .bad clsFTP noFrame noTier 0)
  | (s, .missing f _ _) => (s, .gone (.frame f) va)
  | (s, .ecc f u) => (s, .bad clsECC f (s.tierOf f) u)
  | (s, t) => (s, .away t va n)

/-- Judge ranges in order. -/
def judgePieces (a : Nat) (k : Acc) : List (W64 × Nat) → State → State × List Piece
  | [], s => (s, [])
  | (va, n) :: rest, s =>
    let (s, p) := judgePiece s a k va n
    let (s, ps) := judgePieces a k rest s
    (s, p :: ps)

/-- Judge one side of a transfer: a scratchpad range lies in a resident block of the partition on the cluster (R289, R414); a callee
of an operator gate has none (R238). -/
def judgeSide (s : State) (o : EngOp) (k : Acc) (x : Side) (n : Nat) : State × List Piece :=
  if x.1 then
    match s.spHome o.cluster o.part x.2.toNat n, o.sp with
    | some (h, off), true => (s, [.sp h off n])
    | _, _ => (s, [.bad clsSPV noFrame noTier 0])
  else judgePieces o.asid.toNat k (pagesOf x.2 n) s

/-- Judge the sources and destinations of moves, in order. -/
def judgeMoves (o : EngOp) : List (Side × Side × Nat) → State → State × List (List Piece × List Piece × W64)
  | [], s => (s, [])
  | (x, y, n) :: ms, s =>
    let (s, ps) := judgeSide s o .block x n
    let (s, qs) := judgeSide s o .blockStore y n
    let (s, rest) := judgeMoves o ms s
    (s, (ps, qs, y.2) :: rest)

/-- The first failed check among pieces: class, frame, tier and unit. -/
def firstBad (ps : List Piece) : Option (Nat × Nat × Nat × Nat) :=
  ps.findSome? (fun p => match p with | .bad c f t u => some (c, f, t, u) | _ => none)

/-- The missing pages among pieces, each with an address. -/
def gonePages (ps : List Piece) : List (PageKey × W64) :=
  ps.filterMap (fun p => match p with | .gone k va => some (k, va) | _ => none)

/-- An operation waits at the engine for a missing page (R413): one MSP record, unless the issuing block counts the page. -/
def engMissing (s : State) (id : Nat) (k : PageKey) (va : W64) : State :=
  match AMap.get? s.ops id with
  | none => s
  | some o =>
    if o.waits.contains k then s
    else
      let s := { s with ops := AMap.put s.ops id { o with waits := o.waits ++ [k] } }
      let f := match k with | .frame f => f | .host _ _ => noFrame
      let tier := match k with | .frame f => s.tierOf f | .host _ _ => 2
      match o.owner with
      | .cmd _ =>
        (s.record { cls := clsMSP, vaddr := va, kind := 5, part := o.part, frame := f, tier } (if o.part.isSome then .queue else .oper)).1
      | .group h gi _ =>
        match AMap.get? s.blocks h with
        | none => s
        | some b =>
          if b.missing.contains k then s
          else
            let rcpt := match b.groups[gi]? with | some g => g.ownerTo b.part? | none => .queue
            (s.record { s.recOf h gi clsMSP with iaddr := o.iaddr, vaddr := va, kind := 5, frame := f, tier } rcpt).1

/-- A byte read by an engine; none where an uncorrectable error keeps it (R420). -/
abbrev EByte := Option Byte

/-- The outcome of an engine's read. -/
inductive EngRd where
  /-- The bytes, with the frame, tier and unit of the first uncorrectable error met. -/
  | ok (bs : List EByte) (ecc : Option (Nat × Nat × Nat))
  /-- Lines of the host or a peer are on their way. -/
  | wait
  /-- A check fails: class, frame, tier and unit. -/
  | fail (cls frame tier unit : Nat)
  /-- A missing page. -/
  | gone (k : PageKey) (va : W64)

/-- Read one piece. -/
def readPiece (s : State) (id a : Nat) (p : Piece) : State × EngRd :=
  match p with
  | .bad c f t u => (s, .fail c f t u)
  | .gone k va => (s, .gone k va)
  | .sp h off n =>
    match AMap.get? s.blocks h with
    | none => (s, .fail clsSPV noFrame noTier 0)
    | some b =>
      let core := b.core?.getD 0
      let bad (i : Nat) : Bool := s.spBroken core b (off + i)
      let bs := b.spBytes off n
      (s, .ok ((List.range n).map (fun i => if bad i then none else bs[i]?))
        (if (List.range n).any bad then some (noFrame, noTier, 0x100 + core) else none))
  | .dev pa n =>
    let err (i : Nat) : Option Nat := s.eccUnit (pa + i) 1 false
    let f := pa / 65536
    (s, .ok ((List.range n).map (fun i => if (err i).isSome then none else some (s.byte (pa + i))))
      (((List.range n).findSome? err).map (fun u => (f, s.tierOf f, u))))
  | .away _ va n =>
    match fetchVia (opReader id) a (n / 64 + 2) s va n with
    | (s, .ok bs) => (s, .ok (bs.map some) none)
    | (s, .wait) => (s, .wait)
    | (s, .fail c f t u _) => (s, .fail c f t u)
    | (s, .missing f _ va) => (s, .gone (.frame f) va)

/-- Read pieces in order; requests to the host and peers leave for all of them together. -/
def readPieces' (id a : Nat) : List Piece → State → State × EngRd
  | [], s => (s, .ok [] none)
  | p :: ps, s =>
    match readPiece s id a p with
    | (s, .ok bs e) =>
      match readPieces' id a ps s with
      | (s, .ok more e') => (s, .ok (bs ++ more) (e.or e'))
      | r => r
    | (s, .wait) =>
      match readPieces' id a ps s with
      | (s, .ok _ _) => (s, .wait)
      | r => r
    | r => r

/-- Bytes with every destination unit of 8 bytes that would take an unread byte left out whole (R420). -/
def wholeUnits (at_ : Nat) (bs : List EByte) : List EByte :=
  let n := bs.length
  (List.range n).map (fun i =>
    let u := (at_ + i) / 8
    if (List.range 8).any (fun j => decide (at_ ≤ 8 * u + j ∧ 8 * u + j < at_ + n) && decide (bs.getD (8 * u + j - at_) none = none)) then none
    else bs.getD i none)

/-- Runs of bytes that are there, each with its offset. -/
def runsFrom : Nat → List EByte → List (Nat × List Byte)
  | _, [] => []
  | k, none :: bs => runsFrom (k + 1) bs
  | k, some b :: bs =>
    match runsFrom (k + 1) bs with
    | (j, r) :: more => if j = k + 1 then (k, b :: r) :: more else (k, [b]) :: (j, r) :: more
    | [] => [(k, [b])]

/-- Write bytes of one line of device memory: a partial write of a line with an error is not performed and is reported to the
writer's partition (R420). -/
def writeLine (o : EngOp) (s : State) (pa : Nat) (bs : List Byte) : State :=
  match s.physWrite pa bs with
  | .ok s => s
  | .error u =>
    let f := pa / 65536
    let r : Rec := match o.owner with | .group h gi _ => s.recOf h gi clsECC | .cmd _ => { cls := clsECC, part := o.part }
    (s.record { r with iaddr := o.iaddr, vaddr := o.va, kind := 2, frame := f, tier := s.tierOf f, unit := u, ukind := 7 }
      (if o.part.isSome then .queue else .oper)).1

/-- Write bytes of one line of a scratchpad allocation: a whole line replaces one with an error, a partial write of it is not
performed and is reported (R420). -/
def writeSpLine (o : EngOp) (h : Nat) (s : State) (off : Nat) (bs : List Byte) : State :=
  match AMap.get? s.blocks h with
  | none => s
  | some b =>
    let core := b.core?.getD 0
    if s.spBroken core b off then
      if bs.length = 128 then
        let c := s.core core
        (s.setCore core { c with spBad := c.spBad.filter (fun l => decide (l ≠ (b.spOff + off) / 128)) }).modBlock h (fun b => b.spPut off bs)
      else
        let r : Rec := match o.owner with | .group h gi _ => s.recOf h gi clsECC | .cmd _ => { cls := clsECC, part := o.part }
        (s.record { r with iaddr := o.iaddr, vaddr := o.va, kind := 2, sp := true, unit := 0x100 + core, ukind := 7 }
          (if o.part.isSome then .queue else .oper)).1
    else s.modBlock h (fun b => b.spPut off bs)

/-- Write a run of bytes of a scratchpad allocation, line by line. -/
def writeSpLines (o : EngOp) (h : Nat) : Nat → State → Nat → List Byte → State
  | 0, s, _, _ => s
  | fuel + 1, s, off, bs =>
    if bs.isEmpty then s
    else
      let m := 128 - off % 128
      writeSpLines o h fuel (writeSpLine o h s off (bs.take m)) (off + m) (bs.drop m)

/-- Write a run of bytes at a physical address, line by line. -/
def writeLines (o : EngOp) : Nat → State → Nat → List Byte → State
  | 0, s, _, _ => s
  | fuel + 1, s, pa, bs =>
    if bs.isEmpty then s
    else
      let m := 128 - pa % 128
      writeLines o fuel (writeLine o s pa (bs.take m)) (pa + m) (bs.drop m)

/-- An access of an engine operation to a host or peer page. -/
def engRemote (s : State) (id : Nat) (o : EngOp) (kind : AccKind) (va : W64) (w : Nat) (data : List Byte) (t : Tr) : Option Remote :=
  (s.hwRemote o.asid.toNat .post kind va data w t).map (fun r => { r with hw := none, eng := some id, auth := o.auth })

/-- Send a run of bytes to a host or peer page, each access within one host page or one line of the target (R126, R322);
while the host link is down the operation fails with REM (R455). -/
def sendRun (id : Nat) (o : EngOp) (t : Tr) : Nat → State → W64 → Nat → List Byte → State
  | 0, s, _, _, _ => s
  | fuel + 1, s, va, off, bs =>
    if bs.isEmpty then s
    else if t.isHost && !s.host.linkUp then s.failOp id clsREM t.leafFrame 2 0
    else
      let n := t.pieceLen va off
      match engRemote s id o .store va (min n bs.length) (bs.take n) (t.shift off) with
      | some x => sendRun id o t fuel (s.sendRemote x) (va + BitVec.ofNat 64 n) (off + n) (bs.drop n)
      | none => s

/-- Write one piece. -/
def writePiece (s : State) (id : Nat) (o : EngOp) (p : Piece) (bs : List EByte) : State :=
  match p with
  | .sp h off _ =>
    (runsFrom 0 bs).foldl (fun s r => writeSpLines o h (r.2.length / 128 + 2) s (off + r.1) r.2) s
  | .dev pa n => (runsFrom 0 bs).foldl (fun s r => writeLines o (n / 128 + 2) s (pa + r.1) r.2) s
  | .away t va _ =>
    (runsFrom 0 bs).foldl (fun s r => sendRun id o t (r.2.length / 128 + 2) s (va + BitVec.ofNat 64 r.1) r.1 r.2) s
  | _ => s

/-- Write pieces in order. -/
def writePieces (id : Nat) (o : EngOp) : List Piece → List EByte → State → State
  | [], _, s => s
  | p :: ps, bs, s => writePieces id o ps (bs.drop p.size) (writePiece s id o p (bs.take p.size))

/-- Accesses of an operation to the host or peers are outstanding. -/
def State.engBusy (s : State) (id : Nat) : Bool :=
  s.remotes.any (fun x => decide (x.2.eng = some id) || decide (x.2.hw = some (.fetch (opReader id))))

/-! ### Performing an operation -/

/-- What an operation's reads come to, in order: the bytes of every range. -/
def readAll (id a : Nat) : List (List Piece) → State → State × Except EngRd (List (List EByte) × Option (Nat × Nat × Nat))
  | [], s => (s, .ok ([], none))
  | ps :: rest, s =>
    match readPieces' id a ps s with
    | (s, .ok bs e) =>
      match readAll id a rest s with
      | (s, .ok (more, e')) => (s, .ok (bs :: more, e.or e'))
      | r => r
    | (s, .wait) =>
      match readAll id a rest s with
      | (s, .ok _) => (s, .error .wait)
      | r => r
    | (s, r) => (s, .error r)

/-- KIND of the failure of a check on an engine's operand: 6 for an uncorrectable error in its walk (R406, R407). -/
def checkKind (cls : Nat) : Nat := if cls = clsECC then 6 else 5

/-- An operation ends with a failed check and retires once nothing of it is outstanding. -/
def failAndRetire (s : State) (id : Nat) (cls frame tier unit : Nat) : State :=
  let s := s.failOp id cls frame tier unit (checkKind cls)
  let s := if cls = clsECC then { s with ops := AMap.modify s.ops id (fun o => { o with kill := true }) } else s
  match AMap.get? s.ops id with
  | none => s
  | some o => if s.engBusy id then s else retireOp s id o

/-- A read ended otherwise than with bytes. -/
def readStopped (s : State) (id : Nat) : EngRd → State
  | .fail c f t u => failAndRetire s id c f t u
  | .gone k va => engMissing s id k va
  | _ => s

/-- An uncorrectable error met by a read is noted: its group is killed when the operation retires (R420). -/
def noteEcc (s : State) (id : Nat) (e : Option (Nat × Nat × Nat)) : State :=
  match e with
  | none => s
  | some (f, t, u) =>
    let s := s.failOp id clsECC f t u
    { s with ops := AMap.modify s.ops id (fun o => { o with kill := true }) }

/-- An operation whose writes are all made retires once none of its accesses is outstanding. -/
def allSent (s : State) (id : Nat) : State :=
  let s := { s with ops := AMap.modify s.ops id (fun o => { o with sent := true }) }
  match AMap.get? s.ops id with
  | none => s
  | some o => if s.engBusy id then s else retireOp s id o

/-- Perform the moves of a copy (R289): everything is judged first, then every source is read, then the destinations are written in
order. DESIGN CHOICE: of an overlap every unit takes the value from before the copy (log 32). -/
def performMoves (s : State) (id : Nat) (o : EngOp) (ms : List (Side × Side × Nat)) : State :=
  let (s, js) := judgeMoves o ms s
  let all := js.flatMap (fun j => j.1 ++ j.2.1)
  match firstBad all with
  | some (c, f, t, u) => failAndRetire s id c f t u
  | none =>
    match gonePages all with
    | k :: ks => (k :: ks).foldl (fun s k => engMissing s id k.1 k.2) s
    | [] =>
      match readAll id o.asid.toNat (js.map (·.1)) s with
      | (s, .error r) => readStopped s id r
      | (s, .ok (data, e)) =>
        let s := noteEcc s id e
        allSent ((js.zip data).foldl (fun s jd => writePieces id o jd.1.2.1 (wholeUnits jd.1.2.2.toNat jd.2) s) s) id

/-- A move of a gather or scatter has been made, or why not. -/
inductive Moved where
  /-- The element is moved. -/
  | yes
  /-- The operation waits, or has failed. -/
  | no

/-- Read a range of an operation; one that may see the operation's own earlier writes to the host or a peer waits for them. -/
def readSide (s : State) (id : Nat) (o : EngOp) (ps : List Piece) : State × EngRd :=
  if ps.any (fun p => match p with | .away _ _ _ => true | _ => false) && s.remotes.any (fun x => decide (x.2.eng = some id)) then (s, .wait)
  else readPieces' id o.asid.toNat ps s

/-- An operation names further frames, which stay pinned until it retires (R276). -/
def State.pinMore (s : State) (id : Nat) (fs : List Nat) : State :=
  { s with ops := AMap.modify s.ops id (fun o => { o with frames := (o.frames ++ fs).eraseDups }) }

/-- One element of a gather or scatter (R290): its index is read, its sides are judged, and it is moved whole, after every earlier
one. What an uncorrectable error keeps from being read is not written (R420). -/
def moveElement (scatter : Bool) (s : State) (id : Nat) (o : EngOp) (e : Nat) : State × Moved :=
  let (s, ps) := judgeSide s o .block (false, fieldA o.block 8 + BitVec.ofNat 64 (4 * e)) 4
  match readSide s id o ps with
  | (s, .ok _ (some x)) => (noteEcc s id (some x), .yes)
  | (s, .ok bs none) =>
    let m := gatherMove o.block scatter e (BitVec.ofNat 32 (ofBytes (bs.map (fun b => b.getD 0))))
    let s := s.pinMore id (moveFrames s o.asid.toNat [m])
    let (s, js) := judgeMoves o [m] s
    let all := js.flatMap (fun j => j.1 ++ j.2.1)
    match firstBad all with
    | some (c, f, t, u) => (failAndRetire s id c f t u, .no)
    | none =>
      match gonePages all with
      | k :: ks => ((k :: ks).foldl (fun s k => engMissing s id k.1 k.2) s, .no)
      | [] =>
        match readSide s id o (js.flatMap (·.1)) with
        | (s, .ok data x) =>
          let s := writePieces id o (js.flatMap (·.2.1)) (wholeUnits m.2.1.2.toNat data) (noteEcc s id x)
          (s.fetchDone (opReader id), .yes)
        | (s, r) => (readStopped s id r, .no)
  | (s, r) => (readStopped s id r, .no)

/-- The elements of a gather or scatter from one on, in ascending order, as far as none waits or fails. -/
def moveElements (scatter : Bool) (id : Nat) (o : EngOp) : List Nat → State → State
  | [], s => allSent s id
  | e :: es, s =>
    match moveElement scatter s id o e with
    | (s, .yes) => moveElements scatter id o es { s with ops := AMap.modify s.ops id (fun o => { o with upto := e + 1 }) }
    | (s, .no) => s

/-- Go on with a gather or scatter (R290). The frames that its indices name, as memory holds them now, are pinned (R276). -/
def performGather (s : State) (id : Nat) (o : EngOp) (scatter : Bool) : State :=
  moveElements scatter id o ((List.range (fieldOf o.block 24 4)).drop o.upto) (s.pinMore id (gatherFrames s o.asid.toNat o.block scatter))

/-- A tree-mask table from a parent array: an entry that is not below its index stands as 0xFF (R287, R381). -/
def treeOf (bs : List Byte) : List Byte :=
  (List.range bs.length).map (fun i => let b := bs.getD i 0xFF; if b.toNat < i then b else 0xFF)

/-- Perform a `tmld` (R287) with the parent array it captured: the new table replaces the old one for what the group submits after
it. -/
def performTmld (s : State) (id : Nat) (o : EngOp) (n : Nat) : State :=
  let bs := o.block
  let bad := (List.range n).any (fun i => decide (i ≤ (bs.getD i 0xFF).toNat) && decide (bs.getD i 0xFF ≠ 0xFF))
  let s := if bad then s.failOp id clsCBK noFrame noTier 0 else s
  let s := match o.owner with
    | .group h gi _ => s.modGroup h gi (fun g => { g with tree := treeOf bs })
    | .cmd _ => s
  match AMap.get? s.ops id with
  | some o => retireOp s id o
  | none => s

/-- The quarter requests of a matrix operation are all done. -/
def matDone (s : State) (id : Nat) : Bool :=
  !s.clusters.any (fun c => c.2.reqs.any (fun r => decide (r.op = id))) &&
  !s.blocks.any (fun b => b.2.conts.any (fun r => decide (r.op = id)))

/-- The copy engine that serves an operation (R18): one of the four of its cluster's die. DESIGN CHOICE: which of the four, and which of
the 32 a copy of a ring's command uses, the spec does not say (log 23). -/
def EngOp.copyEngine (o : EngOp) : Nat :=
  if Config.clusters ≤ o.cluster then o.seq % 32 else 4 * (o.cluster / 24) + o.cluster % 24 / 6

/-- What an operation draws its ticks of the frame from (R315). -/
def EngOp.activity (o : EngOp) : Option Activity :=
  match o.kind with
  | .copy | .gather | .scatter => some (.copyEngine o.copyEngine)
  | .coll _ => some .collective
  | _ => none

/-- An engine may work on an operation: its order, its missing pages, the calendar and its budget allow it. -/
def engMay (s : State) (id : Nat) (o : EngOp) : Bool :=
  engFirst s id o && o.waits.isEmpty && s.mayTransfer &&
  (match o.activity with | some a => !s.paused.contains a | none => true)

/-- The work of one operation, when nothing keeps its engine from it. -/
def engWork (s : State) (id : Nat) (o : EngOp) : State :=
  let s := match o.activity with | some a => s.act a | none => s
  match o.kind with
  | .mat => s
  | .tmld n => performTmld s id o n
  | .copy => performMoves s id o (copyMoves o.block)
  | .gather => performGather s id o false
  | .scatter => performGather s id o true
  | .coll _ => s

end Sys2Proof.Machine
end

