-- ==== Sys2Proof/Machine/Passes.lean ====
section
/-! DEFINITION. The matrix engines: passes, their arithmetic, `mmt`'s mask, `mmam`'s failures, and the sillage check
(R105, R109–R112, R282, R284–R288, R398, R417). -/

namespace Sys2Proof.Machine

/-! ### Operands -/

/-- K of a request: elements of a k-block (R281). -/
def MReq.k (r : MReq) : Nat := kOf (tag16 r.atag) r.afmt
/-- Scale bytes of a k-block of one row or column (R281). -/
def MReq.ns (r : MReq) : Nat := r.k / 32

/-- Element `k` of 32 bytes of a narrow format, with its scale code (R102). -/
def narrowElem (f : W32) (bs : List Byte) (scale k : Nat) : FV :=
  let code := if nfW f ≤ 4 then (bs.getD (k / 2) 0).toNat / 16 ^ (k % 2) % 16 else (bs.getD k 0).toNat
  nfDecode f scale code

/-- Element `k` of 32 bytes of 16-bit elements. -/
def halfElem (f : Fmt) (bs : List Byte) (k : Nat) : FV := f.decode (fieldOf bs (2 * k) 2)

/-- The elements of row `i` of A in the request's next k-block (R281). -/
def MReq.rowA (r : MReq) (i : Nat) : List FV :=
  let bs := ((r.a.getD i []).drop (32 * r.next)).take 32
  let sc (k : Nat) : Nat := ((r.ascales.getD i []).getD (r.next * r.ns + k / 32) 0).toNat
  (List.range r.k).map (fun k =>
    if r.atag = 2 then halfElem F16 bs k else if r.atag = 3 then halfElem BF16 bs k else narrowElem r.afmt bs (sc k) k)

/-- The elements of a column of B, from its bytes and its scale bytes. -/
def MReq.colB (r : MReq) (bs scales : List Byte) : List FV :=
  (List.range r.k).map (fun k =>
    if r.bty = 1 then halfElem F16 bs k else if r.bty = 2 then halfElem BF16 bs k
    else narrowElem r.bfmt bs (scales.getD (k / 32) 0).toNat k)

/-- B carries block scales. -/
def MReq.bScaled (r : MReq) : Bool := decide (r.bty = 0) && decide (nfScm r.bfmt = 2)

/-- The address of a column of the next k-block. -/
def MReq.column (r : MReq) (c : Nat) : W64 := columnAddr r.baddr r.kstride r.cstride r.next c

/-- The address of the scales of the next k-block. -/
def MReq.scalesAt (r : MReq) : W64 := r.bscales + BitVec.ofNat 64 (64 * r.next)

/-- The ranges of B that the next pass reads: its columns, then its scales. -/
def MReq.ranges (r : MReq) : List (W64 × Nat) :=
  (List.range 32).map (fun c => (r.column c, 32)) ++ (if r.bScaled then [(r.scalesAt, 32 * r.ns)] else [])

/-- Read a range of a cluster's scratchpads for a pass: bytes of no resident allocation hold no stated value. -/
def scratchRange (s : State) (cluster : Nat) (part : Option Nat) (x : W64 × Nat) : State × EngRd :=
  match s.spHome cluster part x.1.toNat x.2 with
  | some (h, off) => readPiece s 0 0 (.sp h off x.2)
  | none =>
    ({ s with fresh := s.fresh + x.2 }, .ok ((List.range x.2).map (fun i => some (BitVec.ofNat 8 (Config.freeValue (s.fresh + i))))) none)

/-- Read ranges of the scratchpads in order. -/
def scratchRanges (cluster : Nat) (part : Option Nat) : List (W64 × Nat) → State → State × EngRd
  | [], s => (s, .ok [] none)
  | x :: xs, s =>
    match scratchRange s cluster part x with
    | (s, .ok bs e) =>
      match scratchRanges cluster part xs s with
      | (s, .ok more e') => (s, .ok (bs ++ more) (e.or e'))
      | r => r
    | r => r

/-- Read ranges of B for a request, page by page. -/
def readRanges (s : State) (cluster : Nat) (r : MReq) (xs : List (W64 × Nat)) : State × EngRd :=
  if r.scratch then scratchRanges cluster r.part xs s
  else
    let (s, ps) := judgePieces r.asid.toNat .block (xs.flatMap (fun x => pagesOf x.1 x.2)) s
    readPieces' r.op r.asid.toNat ps s

/-- Read B for the next pass of a request. -/
def readB (s : State) (cluster : Nat) (r : MReq) : State × EngRd := readRanges s cluster r r.ranges

/-- The scale bytes of B that a fused request takes: those of the chosen request where they lie at the same address, else its own. -/
def ownScales (s : State) (cluster : Nat) (r x : MReq) (shared : List EByte) (ecc : Option (Nat × Nat × Nat)) : State × EngRd :=
  if x.bScaled = false ∨ (x.scalesAt = r.scalesAt ∧ x.asid = r.asid) then (s, .ok shared ecc)
  else readRanges s cluster x [(x.scalesAt, 32 * x.ns)]

/-! ### Arithmetic (R105) -/

/-- The exact sum of the products of two element lists, rounded into F48. -/
def dotF48 (a b : List FV) : FV :=
  match (a.zip b).map (fun p => FV.mul p.1 p.2) with
  | [] => .fin false 0 0
  | p :: ps => F48.decode (F48.round 0 (ps.foldl (FV.add 0) p) 0)

/-- One k-block applied to an element. -/
def applyBlock (c : BitVec 48) (a b : List FV) : BitVec 48 :=
  BitVec.ofNat 48 (F48.round 0 (FV.add 0 (F48.decode c.toNat) (dotF48 a b)) 0)

/-- The shadow datapath's value for an element (R110). -/
def shadowValue (c : BitVec 48) (a b : List FV) : Nat :=
  (a.zip b).foldl (fun u p => F32.round 0 (FV.add 0 (F32.decode u) (FV.mul p.1 p.2)) 0) (F32.round 0 (F48.decode c.toNat) 0)

/-- The deviation of an element (R110). -/
def deviation (after : BitVec 48) (u : Nat) : Nat :=
  let v := F32.round 0 (F48.decode after.toNat) 0
  let nan (x : Nat) : Bool := (F32.decode x).isNan
  if nan v && nan u then 0
  else if nan v || nan u then 0xFFFFFFFF
  else min 0xFFFFFFFF (ordF32 v - ordF32 u).natAbs

/-! ### The tree mask (R288) -/

/-- Node `j` is reached from node `i` by following parents. -/
def follows (t : List Byte) (j : Nat) : Nat → Nat → Bool
  | 0, _ => false
  | fuel + 1, i =>
    if i = j then true
    else match t[i]? with
      | some p => if p = 0xFF then false else follows t j fuel p.toNat
      | none => false

/-- Whether a tree-mask table allows an element. -/
def allowed (t : List Byte) (i j : Nat) : Bool := decide (i < t.length) && decide (j < t.length) && follows t j 257 i

/-- −∞ in F48. -/
def negInf48 : BitVec 48 := 0xFFE000000000#48

/-! ### A pass (R284) -/

/-- The rows of a request's quarter that take part. -/
def MReq.rowList (r : MReq) : List Nat := (List.range 8).filter (fun i => bit r.rows i)

/-- Apply the next k-block of a request to its tile; answers the largest deviation of its elements. -/
def passOn (r : MReq) (cols : List (List FV)) (tree : List Byte) (b : Block) : Block × Nat :=
  r.rowList.foldl (fun acc i =>
    let a := r.rowA i
    let row := 8 * r.q + i
    (List.range 32).foldl (fun (acc : Block × Nat) c =>
      let before := acc.1.elem r.tile row c
      let col := cols.getD c []
      let after := applyBlock before a col
      let stored := match r.tree with
        | some (qoff, koff) => if allowed tree (qoff + row) (koff + c) then after else negInf48
        | none => after
      (acc.1.setElem r.tile row c stored, max acc.2 (deviation after (shadowValue before a col)))) acc) (b, 0)

/-- Apply a pass of one request in the state. -/
def passReq (s : State) (r : MReq) (cols : List (List FV)) : State × Nat :=
  match AMap.get? s.blocks r.handle with
  | none => (s, 0)
  | some b =>
    let tree := match b.groups[r.gi]? with | some g => g.tree | none => []
    let (b, d) := passOn r cols tree b
    ({ s with blocks := AMap.put s.blocks r.handle b }, d)

/-- A request may be granted: the oldest of its group, quarter and tile, with no earlier `tmld` of its group outstanding, and for
`mmam` while transfers may start (R276, R284, R287, R313). -/
def eligibleReq (s : State) (older : List MReq) (r : MReq) : Bool :=
  !older.any (fun x => decide (x.handle = r.handle ∧ x.gi = r.gi ∧ x.q = r.q ∧ x.tile = r.tile)) &&
  !s.ops.any (fun o => decide (o.1 < r.op) && (match o.2.kind, o.2.owner with
    | .tmld _, .group h gi _ => decide (h = r.handle ∧ gi = r.gi)
    | _, _ => false)) &&
  (r.scratch || s.mayTransfer)

/-- The eligible requests of a table, oldest first. -/
def eligibleReqs (s : State) : List MReq → List MReq → List MReq
  | _, [] => []
  | older, r :: rs => (if eligibleReq s older r then [r] else []) ++ eligibleReqs s (older ++ [r]) rs

/-- The request a grant chooses (R284 step 1). -/
def chosenReq (s : State) (es : List MReq) : Option MReq :=
  (es.find? (fun r => match r.part with | some p => s.isPrio p | none => false)).or es.head?

/-- Two pieces of B lie at one resolved address (R285). -/
def Piece.same : Piece → Piece → Bool
  | .dev pa n, .dev pb m => decide (pa = pb ∧ n = m)
  | .away (.host ha _ _ _) _ n, .away (.host hb _ _ _) _ m => decide (ha = hb ∧ n = m)
  | .away (.peer t a _ _ _) _ n, .away (.peer t' a' _ _ _) _ m => decide (t = t' ∧ a = a' ∧ n = m)
  | _, _ => false

/-- The resolved addresses of the columns of a request's next k-block. -/
def MReq.pieces (r : MReq) (s : State) : List Piece :=
  (judgePieces r.asid.toNat .block (((List.range 32).map r.column).flatMap (fun a => pagesOf a 32)) s).2

/-- The next k-blocks of two requests have the same B address: in the scratchpads, or column by column as resolved (R284, R285). -/
def sameB (s : State) (r x : MReq) : Bool :=
  if r.scratch then x.scratch && (List.range 32).all (fun c => decide (x.column c = r.column c))
  else
    let ps := r.pieces s
    let qs := x.pieces s
    !x.scratch && decide (ps.length = qs.length) && (ps.zip qs).all (fun p => p.1.same p.2)

/-- A request may join a pass (R284 step 2). -/
def fusible (s : State) (r x : MReq) : Bool := sameB s r x && decide (x.bty = r.bty ∧ x.bfmt = r.bfmt) && decide (x.k = r.k)

/-- The requests of a pass: the chosen one and those fused with it. -/
def fused (s : State) (r : MReq) (es : List MReq) : List MReq :=
  es.foldl (fun acc x =>
    if acc.length < 4 && !acc.any (fun y => decide (y.q = x.q)) && fusible s r x then acc ++ [x] else acc) [r]

/-- Requests of a pass advance one k-block, and leave the table when they are done. -/
def advanceReqs (pass reqs : List MReq) : List MReq :=
  reqs.filterMap (fun r =>
    if pass.contains r then (if r.next + 1 < r.n then some { r with next := r.next + 1 } else none) else some r)

/-! ### Sillage (R109–R112, R417) -/

/-- The 32 bytes of a sillage entry (R111). -/
def sillageBytes (gt : Nat) (r : MReq) (dev cluster phys qmask : Nat) : List Byte :=
  toBytes gt 8 ++ toBytes r.iaddr.toNat 8 ++ toBytes dev 4 ++ toBytes r.handle 4 ++ toBytes cluster 2 ++ toBytes phys 1 ++
    toBytes qmask 1 ++ toBytes r.next 1 ++ [0, 0, 0]

/-- A sillage entry of a partition is on its way to the host or a peer. -/
def State.sillAway (s : State) (p : Nat) : Bool :=
  s.remotes.any (fun x => match x.2.hw with | some (.sill q _) => decide (q = p) | _ => false)

/-- A sillage entry is written, and HEAD and SILL advance, or it is lost and counted (R112, R417). -/
def sillEnd (s : State) (p next : Nat) (written : Bool) : State :=
  if written then (s.setRegF p 0x6003 0 16 next).setReg 0 (0x7000 + 32 * p + 12) (s.reg 0 (0x7000 + 32 * p + 12) + 1)
  else s.satInc p 0x6004

/-- Write a sillage entry into a partition's ring, or count it as lost (R112, R417): one on a host or peer page counts once it is
acknowledged. -/
def sillWrite (s : State) (p : Nat) (bs : List Byte) : State :=
  let head := s.regF p 0x6003 0 16
  let tail := s.regF p 0x6003 16 16
  let size := s.regF p 0x6002 0 16
  let next := (head + 1) % size
  if size = 0 ∨ next = tail then sillEnd s p next false
  else match vpost s (16 * p) (.sill p next) (s.reg64 p 0x6000 + BitVec.ofNat 64 (32 * head)) bs with
    | (s, some _) => sillEnd s p next false
    | (s, none) => if s.sillAway p then s else sillEnd s p next true

/-- The entries that wait behind one on its way are written in turn, as long as none is on its way again. -/
def sillQueue (p : Nat) : Nat → State → State
  | 0, s => s
  | n + 1, s =>
    match (s.part p).sill with
    | [] => s
    | bs :: rest => if s.sillAway p then s else sillQueue p n (sillWrite (s.setPart p { s.part p with sill := rest }) p bs)

/-- A sillage entry for a partition's ring: the engine does not wait for it (R417). -/
def pushSillage (s : State) (p : Nat) (bs : List Byte) : State :=
  if s.sillAway p then s.setPart p { s.part p with sill := (s.part p).sill ++ [bs] } else sillWrite s p bs

/-- A sillage entry on a host or peer page has been written, or has not. -/
def sillDone (s : State) (p next : Nat) (written : Bool) : State := sillQueue p (s.part p).sill.length (sillEnd s p next written)

/-- A pass of a partition is counted, and sampled where its count says so (R109). -/
def countPass (s : State) (cluster : Nat) (r : MReq) (pass : List MReq) (dev : Nat) : State :=
  match r.part with
  | none => s
  | some p =>
    let c := s.cluster cluster
    let n := AMap.getD c.passes p 0 + 1
    let s := s.setCluster cluster { c with passes := AMap.put c.passes p n }
    if s.regF p 0x6002 0 16 = 0 ∨ n % 2 ^ s.regF p 0x6002 16 5 ≠ 0 then s
    else
      let phys := ((AMap.get? s.blocks r.handle).bind (fun b => b.phys[r.tile]?)).getD 0
      pushSillage s p (sillageBytes s.gt r dev cluster phys (pass.foldl (fun m x => m + 2 ^ x.q) 0))

/-! ### Failures of `mmam` (R398) -/

/-- A block ends because its B could not be fetched: the operation goes no further, the block's groups are killed, its tiles cleared,
the owner is told, and once the block is done its index is restarted, waits for a page, or counts as complete at its third end.
DEDUCED: a further such failure of the block's other operations, which go on (R366), only ends the operation (log 36). -/
def mmamFail (s : State) (r : MReq) (cls frame tier unit kind : Nat) (page : Option PageKey) (va : W64) : State :=
  let other (x : MReq) : Bool := decide (x.op ≠ r.op)
  let s := serveAll { s.fetchDone (opReader r.op) with
    clusters := s.clusters.map (fun c => (c.1, { c.2 with reqs := c.2.reqs.filter other }))
    ops := AMap.modify s.ops r.op (fun o => { o with cancelled := true }) }
  match AMap.get? s.blocks r.handle with
  | none => s
  | some b =>
    let s := s.modBlock r.handle (fun b => { b with conts := b.conts.filter other })
    if b.redo ≠ Redo.no then s
    else
      let s := (s.record
        { s.recOf r.handle r.gi cls with
          kill := true, iaddr := r.iaddr, vaddr := va, kind, frame, tier, unit, ukind := if cls = clsECC then 7 else 0 } .queue).1
      let s := (List.range b.groups.length).foldl (fun s gi => flushRemote (killGroup s r.handle gi) r.handle gi) s
      s.modBlock r.handle (fun b =>
        { b with tiles := [], missing := [], redo := match page with | some k => .page (some k) | none => .failed })

/-! ### The event -/

/-- What a request of a pass reads of B: its scale bytes, and an uncorrectable error met. -/
abbrev PassRead := MReq × List EByte × Option (Nat × Nat × Nat)

/-- The scales of every request of a pass, in order; the first that cannot be read stops the pass, with what its read came to. -/
def passReads (cluster : Nat) (r : MReq) (shared : List EByte) (ecc : Option (Nat × Nat × Nat)) :
    List MReq → State → State × Except (MReq × EngRd) (List PassRead)
  | [], s => (s, .ok [])
  | x :: xs, s =>
    match ownScales s cluster r x shared ecc with
    | (s, .ok bs e) =>
      match passReads cluster r shared ecc xs s with
      | (s, .ok l) => (s, .ok ((x, bs, ecc.or e) :: l))
      | e => e
    | (s, e) => (s, .error (x, e))

/-- The pass of a chosen request with B's bytes at hand. DESIGN CHOICE: a pass whose B meets an uncorrectable error in a scratchpad does
no arithmetic for the requests it touches, and counts as performed, its sample with DEV 0 (R109, R420; log 58). -/
def grantPass (s : State) (cluster : Nat) (r : MReq) (bs : List EByte) (pass : List PassRead) : State :=
  let s := pass.foldl (fun (s : State) (x : PassRead) => s.fetchDone (opReader x.1.op)) s
  let raw := bs.map (fun (b : EByte) => Option.getD b 0)
  let (s, dev) := pass.foldl (fun (acc : State × Nat) (x : PassRead) =>
    match x.2.2 with
    | some e => (noteEcc acc.1 x.1.op (some e), acc.2)
    | none =>
      let sc := x.2.1.map (fun (b : EByte) => Option.getD b 0)
      let (s, d) := passReq acc.1 x.1 ((List.range 32).map (fun c =>
        x.1.colB ((raw.drop (32 * c)).take 32) ((sc.drop (x.1.ns * c)).take x.1.ns)))
      (s, max acc.2 d)) (s, 0)
  let reqs := pass.map (fun (x : PassRead) => x.1)
  let c := s.cluster cluster
  let s := s.setCluster cluster { c with reqs := advanceReqs reqs c.reqs }
  serveWaiting (countPass s cluster r reqs dev) cluster

/-- B of a request could not be read: its line is on its way, or its block ends. -/
def passStopped (s : State) (x : MReq) (e : EngRd) : State :=
  match e with
  | .wait => s
  | .ok _ none => s
  | .ok _ (some (f, t, u)) => mmamFail s x clsECC f t u 5 none x.baddr
  | .fail c f t u => mmamFail s x c f t u (checkKind c) none x.baddr
  | .gone k va =>
    let f := match k with | .frame f => f | .host _ _ => noFrame
    mmamFail s x clsMSP f (match k with | .frame f => s.tierOf f | .host _ _ => 2) 0 5 (some k) va

/-- An uncorrectable error in memory fails the fetch of an `mmam`; one in a scratchpad is noted (R398, R420). -/
def EngRd.ends (e : EngRd) (r : MReq) : Bool :=
  match e with
  | .ok _ x => !r.scratch && x.isSome
  | _ => true

/-- The matrix arbiter grants a pass (R284). -/
def execMatrixPass (cluster : Nat) (s : State) : Out :=
  .next (
    let es := eligibleReqs s [] (s.cluster cluster).reqs
    match chosenReq s es with
    | none => s
    | some r =>
      if (AMap.get? s.blocks r.handle).isNone then
        let c := s.cluster cluster
        s.setCluster cluster { c with reqs := c.reqs.filter (fun x => decide (x.handle ≠ r.handle)) }
      else
        match readB s cluster r with
        | (s, .ok bs e) =>
          if (EngRd.ok bs e).ends r then passStopped s r (.ok bs e)
          else match passReads cluster r (bs.drop 1024) e (fused s r es) s with
            | (s, .ok l) =>
              match l.find? (fun x => (EngRd.ok x.2.1 x.2.2).ends x.1) with
              | some x => passStopped s x.1 (.ok x.2.1 x.2.2)
              | none => grantPass s cluster r bs l
            | (s, .error (x, e)) => passStopped s x e
        | (s, e) => passStopped s r e)

end Sys2Proof.Machine
end

