-- ==== Sys2Proof/Machine/SysRegs.lean ====
section
/-! DEFINITION. System registers: the fields each authority may read and write (R11, R84 and the register tables of every
chapter), values, the latch shadow (R85), the instance a number names (R83), values out of range (R376) and the effects of writes. -/

namespace Sys2Proof.Machine

/-! ### Rights (R11, R84) -/

/-- The fields of a register word that the operator and the owner may read and write, as masks. The auditor's rights are the
counter range alone (R40). -/
structure FieldRights where
  opR : Nat := 0
  opW : Nat := 0
  owR : Nat := 0
  owW : Nat := 0

/-- Bits `hi` to `lo`. -/
def bitsAt (hi lo : Nat) : Nat := 2 ^ (hi + 1) - 2 ^ lo
/-- All 32 bits. -/
def all32 : Nat := bitsAt 31 0
/-- R for the owner. -/
def owRead (m : Nat) : FieldRights := { owR := m }
/-- RW for the owner. -/
def owBoth (m : Nat) : FieldRights := { owR := m, owW := m }
/-- R for the operator. -/
def opRead (m : Nat) : FieldRights := { opR := m }
/-- RW for the operator. -/
def opBoth (m : Nat) : FieldRights := { opR := m, opW := m }
/-- R for both. -/
def anyRead (m : Nat) : FieldRights := { opR := m, owR := m }
/-- RW for the operator, R for the owner. -/
def opBothOwRead (m : Nat) : FieldRights := { opR := m, opW := m, owR := m }
/-- R for the operator, RW for the owner. -/
def opReadOwBoth (m : Nat) : FieldRights := { opR := m, owR := m, owW := m }
/-- A 64-bit register's address field from bit `lo` to bit 55, in its even or odd word. -/
def addrField (odd : Bool) (lo : Nat) : Nat := if odd then bitsAt 23 0 else bitsAt 31 lo
/-- The fields of a root register (R114). -/
def rootField (odd : Bool) : Nat := if odd then bitsAt 15 0 else bitsAt 31 13 + 1

/-- A number is the odd one of its pair. -/
def isOdd (n : Nat) : Bool := decide (n % 2 = 1)

/-- Group registers (R33, R64, R86, R362). -/
def groupRights (n : Nat) : FieldRights :=
  if n = 7 then owRead (bitsAt 23 0)
  else if n ≤ 8 then owRead all32
  else if n = 0x10 ∨ n = 0x11 then anyRead all32
  else if n = 0x12 then owRead all32
  else if n = 0x14 ∨ n = 0x15 then owBoth (addrField (isOdd n) 6)
  else if n = 0x16 then owBoth (bitsAt 15 0)
  else if n = 0x17 then owBoth (bitsAt 2 0)
  else if 0x18 ≤ n ∧ n ≤ 0x1B then owBoth all32
  else if 0x20 ≤ n ∧ n ≤ 0x23 then owRead all32
  else if n = 0x4C ∨ n = 0x6C ∨ n = 0x4D ∨ n = 0x6D then owBoth (addrField (isOdd n) 3)
  else if 0x40 ≤ n ∧ n < 0x80 then owRead all32
  else {}

/-- Block registers (R87, R121, R131, R264). -/
def blockRights (n : Nat) : FieldRights :=
  if n ≤ 0x1007 then anyRead all32
  else if n = 0x1010 then owBoth 1
  else if n = 0x1011 then owRead all32
  else if n = 0x1012 ∨ n = 0x1014 then anyRead all32
  else if n = 0x1015 then anyRead (bitsAt 23 0)
  else {}

/-- Core registers (R37, R124, R304, R418, R419, R449). -/
def coreRights (n : Nat) : FieldRights :=
  let busy := bitsAt 31 31
  match n with
  | 0x2080 => { opR := bitsAt 16 0 + busy, opW := bitsAt 16 0 }
  | 0x2081 => opBoth all32
  | 0x2082 => { opR := bitsAt 5 0 + busy, opW := bitsAt 2 0 }
  | 0x2083 => opBoth all32
  | 0x2084 => opBoth all32
  | 0x2085 => { opR := bitsAt 22 0 + busy, opW := bitsAt 22 0 }
  | 0x2086 => opRead (bitsAt 2 0)
  | 0x2087 => { opR := bitsAt 8 0 + busy, opW := bitsAt 8 0 }
  | 0x2088 => opRead all32
  | 0x208A => { opW := all32 }
  | _ => {}

/-- Cluster and die registers (R88, R315). -/
def clusterDieRights (n : Nat) : FieldRights :=
  if n = 0x3000 ∨ n = 0x3001 then anyRead all32
  else if n = 0x3010 then anyRead (bitsAt 3 0)
  else if n = 0x3020 then opRead (bitsAt 15 0)
  else if n = 0x4000 then opRead (bitsAt 11 0)
  else if 0x4010 ≤ n ∧ n ≤ 0x4013 then opBoth (bitsAt 11 0)
  else {}

/-- The registers of a ring, by word, for the authority that owns it and, of a partition's ring, for the operator (R295,
R429). -/
def ringRights (k : Nat) (own : Nat → Nat → Nat → FieldRights) : FieldRights :=
  match k with
  | 0 => own (bitsAt 31 12) (bitsAt 31 12) (bitsAt 31 12)
  | 1 => own (bitsAt 23 0) (bitsAt 23 0) (bitsAt 23 0)
  | 2 => own (bitsAt 7 0) (bitsAt 5 0) (bitsAt 7 0)
  | 3 => own 0 (bitsAt 30 0) 0
  | 4 => own all32 0 all32
  | 5 => own (bitsAt 7 0) 0 (bitsAt 7 0)
  | 6 => own 0 all32 0
  | _ => {}

/-- Package registers (R37, R42, R89, R114, R235, R301, R303, R307, R314–R316, R321, R331, R358, R421, R438, R453, R467). -/
def packageRights (n : Nat) : FieldRights :=
  if n = 0x5000 ∨ n = 0x5001 ∨ (0x5010 ≤ n ∧ n ≤ 0x5013) then anyRead all32
  else if 0x5020 ≤ n ∧ n ≤ 0x502B then opBoth all32
  else if 0x5030 ≤ n ∧ n ≤ 0x5033 then { opR := bitsAt 23 0, opW := bitsAt 15 8, owR := bitsAt 23 0 }
  else if 0x5040 ≤ n ∧ n ≤ 0x5047 then opRead (if isOdd n then bitsAt 15 0 + bitsAt 31 31 else all32)
  else if n = 0x5050 then { opR := bitsAt 31 16 + 3, opW := 1, owR := bitsAt 31 16 + 3 }
  else if n = 0x5060 ∨ n = 0x5061 then opBoth (bitsAt 11 0)
  else if n = 0x5070 then { opW := 1 }
  else if n = 0x5080 then anyRead all32
  else if n = 0x5084 then opBoth (bitsAt 19 0)
  else if n = 0x5086 ∨ n = 0x5090 then opBoth (bitsAt 15 0)
  else if 0x50A0 ≤ n ∧ n ≤ 0x50A3 then opBothOwRead all32
  else if 0x50B0 ≤ n ∧ n ≤ 0x50B7 then { opR := bitsAt 2 0, opW := bitsAt 3 3 }
  else if n = 0x5100 then opRead all32
  else if n = 0x5110 ∨ n = 0x5111 then opBoth (addrField (isOdd n) 5)
  else if n = 0x5112 then { opR := bitsAt 23 0, opW := bitsAt 23 12 }
  else if n = 0x5113 then opBoth (bitsAt 11 0)
  else if n = 0x5114 then opBoth (bitsAt 1 0)
  else if n = 0x5115 then opBoth (bitsAt 15 0)
  else if n = 0x5116 then opBoth (bitsAt 25 0)
  else if n = 0x5120 ∨ n = 0x5121 then opBoth (addrField (isOdd n) 4)
  else if n = 0x5122 then opBoth (bitsAt 6 0)
  else if 0x5200 ≤ n ∧ n ≤ 0x52FF then anyRead (if isOdd n then all32 else bitsAt 8 0)
  else if 0x5300 ≤ n ∧ n ≤ 0x5381 then opBoth (rootField (isOdd n))
  else if n = 0x5400 ∨ n = 0x5401 then opBoth (addrField (isOdd n) 5)
  else if 0x5500 ≤ n ∧ n ≤ 0x557F then ringRights (n % 8) (fun r w _ => { opR := r, opW := w })
  else if 0x5600 ≤ n ∧ n ≤ 0x5609 then anyRead all32
  else if n = 0x5700 ∨ n = 0x5701 then opRead all32
  else if 0x5800 ≤ n ∧ n ≤ 0x59FF then opRead all32
  else if 0x5A00 ≤ n ∧ n ≤ 0x5A7F then opRead (bitsAt 15 0)
  else if 0x5B00 ≤ n ∧ n ≤ 0x5B7F ∧ n % 8 ≤ 5 then opBoth all32
  else {}

/-- Partition registers (R38, R90, R114, R126, R128, R235, R295, R315, R331, R335, R340, R355, R357, R417, R423, R429, R450). -/
def partitionRights (n : Nat) : FieldRights :=
  if n = 0x6000 ∨ n = 0x6001 then owBoth (addrField (isOdd n) 6)
  else if n = 0x6002 then owBoth (bitsAt 20 0)
  else if n = 0x6003 then { owR := all32, owW := bitsAt 31 16 }
  else if n = 0x6004 then opReadOwBoth (bitsAt 15 0)
  else if n = 0x6010 then anyRead all32
  else if n = 0x6020 then { owR := bitsAt 2 0 + bitsAt 31 31, owW := bitsAt 2 0 }
  else if n = 0x6021 then owBoth all32
  else if n = 0x6022 then owRead (bitsAt 1 0)
  else if n = 0x6030 then opBothOwRead (bitsAt 8 0)
  else if n = 0x6032 then opBothOwRead (bitsAt 11 0)
  else if n = 0x6034 then opBothOwRead (bitsAt 4 0)
  else if n = 0x6035 then anyRead (bitsAt 1 0)
  else if n = 0x6036 then anyRead all32
  else if n = 0x6038 ∨ n = 0x6039 then opBoth (addrField (isOdd n) 6)
  else if n = 0x603A then opBoth (bitsAt 15 0)
  else if n = 0x6040 ∨ n = 0x6041 then owBoth (addrField (isOdd n) 5)
  else if n = 0x6044 ∨ n = 0x6045 then owBoth (addrField (isOdd n) 16)
  else if n = 0x6050 ∨ n = 0x6051 then owBoth (addrField (isOdd n) 5)
  else if n = 0x6052 then { owR := bitsAt 29 0, owW := bitsAt 29 10 }
  else if n = 0x6053 then opReadOwBoth (bitsAt 15 0)
  else if n = 0x6054 then owBoth (bitsAt 1 0)
  else if n = 0x6055 then anyRead all32
  else if 0x6060 ≤ n ∧ n ≤ 0x607F then owBoth (rootField (isOdd n))
  else if n = 0x6080 then opBothOwRead all32
  else if n = 0x6082 then opBothOwRead (bitsAt 12 0)
  else if n = 0x6084 then opBothOwRead (bitsAt 19 0)
  else if n = 0x6086 then opBothOwRead (bitsAt 15 0)
  else if n = 0x6090 then opReadOwBoth (bitsAt 15 0)
  else if n = 0x6091 then anyRead (bitsAt 2 0)
  else if n = 0x6092 ∨ n = 0x6093 then anyRead all32
  else if n = 0x6094 ∨ n = 0x6095 then { opW := all32 }
  else if n = 0x6096 ∨ n = 0x6097 then opReadOwBoth (addrField (isOdd n) 0)
  else if 0x6100 ≤ n ∧ n ≤ 0x617F then ringRights (n % 8) (fun r w o => { opR := o, owR := r, owW := w })
  else {}

/-- The rights of a register word by its range (R83). -/
def fieldRights (n : Nat) : FieldRights :=
  if n < 0x1000 then groupRights n
  else if n < 0x2000 then blockRights n
  else if n < 0x3000 then coreRights n
  else if n < 0x5000 then clusterDieRights n
  else if n < 0x6000 then packageRights n
  else if n < 0x7000 then partitionRights n
  else {}

/-- What an authority may read of a register word; an owner of the counter range reads its own partition's block (R91). -/
def readMask (auth : Nat) (own : Option Nat) (n : Nat) : W32 :=
  BitVec.ofNat 32 (
    if 0x7000 ≤ n ∧ n < 0x8000 then
      (if auth = 0 then (match own with | some p => if n < 0x7800 ∧ (n - 0x7000) / 32 = p then all32 else 0 | none => 0) else all32)
    else if auth = 0 then (fieldRights n).owR
    else if auth = 1 then (fieldRights n).opR
    else 0)

/-- What an authority may write of a register word. -/
def writeMask (auth n : Nat) : W32 :=
  BitVec.ofNat 32 (if auth = 0 then (fieldRights n).owW else if auth = 1 then (fieldRights n).opW else 0)

/-- An even number of a 64-bit register (R85). -/
def isWide (n : Nat) : Bool :=
  decide (n % 2 = 0) &&
  ([0x0000, 0x0002, 0x0006, 0x0014, 0x0018, 0x001A, 0x0040, 0x0042, 0x004C, 0x0060, 0x0062, 0x006C, 0x1014, 0x3000, 0x5000, 0x5010,
    0x5110, 0x5120, 0x5400, 0x5700, 0x6000, 0x6038, 0x6040, 0x6044, 0x6050, 0x6080, 0x6092, 0x6094, 0x6096].contains n ||
   decide (0x5040 ≤ n ∧ n ≤ 0x5047) || decide (0x5200 ≤ n ∧ n ≤ 0x52FF) || decide (0x5300 ≤ n ∧ n ≤ 0x5381) ||
   (decide (0x5500 ≤ n ∧ n ≤ 0x557F) && decide (n % 8 = 0)) || decide (0x5800 ≤ n ∧ n ≤ 0x59FF) || decide (0x6060 ≤ n ∧ n ≤ 0x607F) ||
   (decide (0x6100 ≤ n ∧ n ≤ 0x617F) && decide (n % 8 = 0)) ||
   (decide (0x7000 ≤ n ∧ n < 0x7800) && decide ((n - 0x7000) % 32 < 12)) || decide (0x7900 ≤ n ∧ n ≤ 0x7907))

/-! ### Values -/

/-- Word `k` of a value. -/
def wordOf {n : Nat} (x : BitVec n) (k : Nat) : W32 := x.extractLsb' (32 * k) 32

/-- A slot as `pcs0` and `pcs1` show it (R64). -/
def pcsValue (x : Slot) : W64 := BitVec.ofNat 64 (b2n x.live + 2 * b2n x.arr + 8 * fldN x.pc 3 53)

/-- A save area as `hsv` shows it, by word (R362). -/
def hsvWord (v : Hsv) (k : Nat) : W32 :=
  if k < 2 then wordOf (pcsValue v.slot0) k
  else if k < 4 then wordOf (pcsValue v.slot1) (k - 2)
  else if k = 4 then v.slot0.mask
  else if k = 5 then v.slot1.mask
  else if k < 10 then wordOf (BitVec.ofNat 128 ((v.top.map DivEntry.toNat).getD 0)) (k - 6)
  else if k = 10 then BitVec.ofNat 32 v.depth
  else if k = 11 then BitVec.ofNat 32 (b2n v.dslot)
  else if k < 14 then wordOf v.rpc (k - 12)
  else if k = 14 then BitVec.ofNat 32 (v.cls.toNat + 256 * v.trapno.toNat)
  else if 16 ≤ k ∧ k < 24 then wordOf v.owner (k - 16)
  else 0

/-- A group register's value as of run start (R33, R64, R86, R248, R362). -/
def groupValue (v : View) (n : Nat) : W32 :=
  let g := v.g
  if n < 2 then wordOf (pcsValue g.rs.slot0) n
  else if n < 4 then wordOf (pcsValue g.rs.slot1) (n - 2)
  else if n = 4 then g.rs.slot0.mask
  else if n = 5 then g.rs.slot1.mask
  else if n < 8 then wordOf g.rs.divBase (n - 6)
  else if n = 8 then BitVec.ofNat 32 (g.rs.depth + 2048 * g.divLimit)
  else if n = 0x10 then BitVec.ofNat 32 (g.asid.toNat + 2048 * g.auth.toNat)
  else if n = 0x11 then BitVec.ofNat 32 g.gates.length
  else if n = 0x12 then BitVec.ofNat 32 (g.level + 4 * g.cls.toNat + 1024 * g.trapno.toNat)
  else if n = 0x14 ∨ n = 0x15 then wordOf g.tvt (n - 0x14)
  else if n = 0x16 then g.rs.prog.zeroExtend 32
  else if n = 0x17 then g.spfmask.zeroExtend 32
  else if n = 0x18 ∨ n = 0x19 then wordOf g.rs.rngseed (n - 0x18)
  else if n = 0x1A ∨ n = 0x1B then wordOf g.rs.rngctr (n - 0x1A)
  else if n = 0x20 then BitVec.ofNat 32 g.rs.counters.cpy
  else if n = 0x21 then BitVec.ofNat 32 g.rs.counters.mma
  else if n = 0x22 then BitVec.ofNat 32 g.rs.counters.gth
  else if n = 0x23 then BitVec.ofNat 32 g.rs.counters.col
  else if 0x40 ≤ n ∧ n < 0x60 then hsvWord g.hsv1 (n - 0x40)
  else if 0x60 ≤ n ∧ n < 0x80 then hsvWord g.hsv2 (n - 0x60)
  else 0

/-- A block register's value as of run start (R87, R121, R131, R264). -/
def blockValue (v : View) (n : Nat) : W32 :=
  if n ≤ 0x1007 then v.fm (n - 0x1000)
  else if n = 0x1010 then BitVec.ofNat 32 (b2n v.g.rs.tten)
  else if n = 0x1011 then v.g.rs.spbase
  else if n = 0x1012 then BitVec.ofNat 32 v.g.rs.mpc
  else if n = 0x1014 ∨ n = 0x1015 then wordOf v.b.constva (n - 0x1014)
  else 0

/-- A register of the module beyond groups and blocks, of an instance: as a system-register table and the clusters say
(R88, R89, R91). -/
def deviceValue (s : State) (y : Sys) (clusters : AMap Cluster) (inst n : Nat) : W32 :=
  if n = 0x3000 ∨ n = 0x3001 then
    wordOf (BitVec.ofNat 64 ({ s with sys := y, clusters := clusters }.ccount inst)) (n - 0x3000)
  else if n = 0x5000 ∨ n = 0x5001 then wordOf (BitVec.ofNat 64 y.gt) (n - 0x5000)
  else if 0x7800 ≤ n ∧ n < 0x7800 + Config.clusters then y.reg (n - 0x7800) 0x3020 &&& 0xFFFF#32
  else if 0x7900 ≤ n ∧ n < 0x7908 then y.reg 0 (n - 0x7900 + 0x5040)
  else y.reg inst n

/-- The instance that a number names (R83): with INST the one a value numbers, which may be none. DESIGN CHOICE: a number of the partition
range without INST names none for a group of no partition, so that it reads 0 and a write has no effect (log 58). -/
def instanceOf (v : View) (sel : Option Nat) (n : Nat) : Option Nat :=
  let named (bound : Nat) (own : Nat) : Option Nat :=
    match sel with
    | some k => if k < bound then some k else none
    | none => some own
  if n < 0x2000 then some 0
  else if n < 0x3000 then named Config.cores v.core
  else if n < 0x4000 then named Config.clusters v.cluster
  else if n < 0x5000 then named Config.dies (v.core / 96)
  else if n < 0x6000 then some 0
  else if n < 0x7000 then
    match sel with
    | some k => if k < Config.partitions then some k else none
    | none => v.b.part?
  else if n < 0x8000 then some 0
  else none

/-- A register word of the issuing group's view. -/
def View.regValue (v : View) (s : State) (inst n : Nat) : W32 :=
  if n < 0x1000 then groupValue v n
  else if n < 0x2000 then blockValue v n
  else deviceValue s v.g.rs.sys v.g.rs.clusters inst n

/-- A read through a latch shadow (R85): the value, and the shadow it leaves. -/
def latchRead (shadow : Option (Nat × W32)) (n : Nat) (val : Nat → W32) : W32 × Option (Nat × W32) :=
  if isWide n then (val n, some (n, val (n + 1)))
  else if isOdd n && isWide (n - 1) then
    match shadow with
    | some (t, x) => (if t = n - 1 then x else val n, shadow)
    | none => (val n, none)
  else (val n, shadow)

/-- An auditor's read captures WRAP of a regulator (R92): a read of the even word, or of the odd word unlatched. -/
def captures (auth : Nat) (shadow : Option (Nat × W32)) (n : Nat) : Option Nat :=
  if auth = 2 ∧ 0x7900 ≤ n ∧ n < 0x7908 ∧ (n % 2 = 0 ∨ shadow.map (·.1) ≠ some (n - 1)) then some ((n - 0x7900) / 2) else none

/-- A capture that takes WRAP = 1 clears the live WRAP; one that takes WRAP = 0 clears nothing (R92). `val` gives the words as they are
captured. -/
def clearWrap (s : State) (g : Option Nat) (val : Nat → W32) : State :=
  match g with
  | some g => if bit (val (0x7901 + 2 * g)) 31 then s.setRegF 0 (0x5041 + 2 * g) 31 1 0 else s
  | none => s

/-- An auditor's word of `energyhi` shows WRAP only while it is still live, so that one capture alone reports a wrap (R92). -/
def wrapOnce (s : State) (auth n : Nat) (x : W32) : W32 :=
  if auth = 2 ∧ 0x7900 ≤ n ∧ n < 0x7908 ∧ n % 2 = 1 ∧ !bit (s.reg 0 (n - 0x7900 + 0x5040)) 31 then x &&& 0x7FFFFFFF#32 else x

/-! ### Writes -/

/-- A field value outside its table's range, where the register states no clamp (R376): the register is unchanged. A write of `hqctl`
that waits in a ring's queue is judged when it takes effect (R295, R434). -/
def badValue (s : State) (inst n : Nat) (x : W32) : Bool :=
  if n = 0x2080 then decide (10 ≤ fldN x 0 4)
  else if n = 0x2082 then decide (5 ≤ fldN x 0 3)
  else if n = 0x2087 then decide (fldN x 7 2 = 3)
  else if 0x5030 ≤ n ∧ n ≤ 0x5033 then decide (fldN x 8 8 = 0)
  else if n = 0x5122 then decide (64 < fldN x 0 7)
  else if n = 0x6020 then decide (4 ≤ fldN x 0 3)
  else if n = 0x6030 then decide (fldN x 0 8 = 0)
  else if n = 0x6082 then decide (4096 < fldN x 0 13)
  else if (0x5500 ≤ n ∧ n ≤ 0x557F ∨ 0x6100 ≤ n ∧ n ≤ 0x617F) ∧ n % 8 = 2 then
    !bit (s.reg inst n) 5 && s.ringIn (if n < 0x6000 then 1024 + (n - 0x5500) / 8 else 16 * inst + (n - 0x6100) / 8) && lognBad x
  else false

/-- The fields of a mask take a value. -/
def State.putMasked (s : State) (inst n : Nat) (mask x : W32) : State :=
  s.setReg inst n ((s.reg inst n &&& ~~~ mask) ||| (x &&& mask))

/-- A value within bounds. -/
def clampN (lo hi x : Nat) : Nat := max lo (min hi x)

/-- A frame command is written (R37): a starting write has no effect while BUSY = 1. -/
def ftcmdWrite (s : State) (core : Nat) (x : W32) : State :=
  let put := s.putMasked core 0x2080 (BitVec.ofNat 32 (bitsAt 16 0)) x
  if fldN x 0 4 = 0 then put
  else if s.regF core 0x2080 31 1 = 1 then s
  else ftWrite put core (fldN x 0 4) (fldN x 4 6) (fldN x 10 6) (bit x 16)

/-- A tier command is written (R124). -/
def tiercmdWrite (s : State) (core : Nat) (x : W32) : State :=
  let put := s.putMasked core 0x2082 7 x
  if fldN x 0 3 = 0 then put
  else if s.regF core 0x2082 31 1 = 1 then s
  else tierRun put core (fldN x 0 3) (s.reg core 0x2083).toNat

/-- A token-queue command is written (R304). -/
def tqcmdWrite (s : State) (core : Nat) (x : W32) : State :=
  let put := s.putMasked core 0x2085 (BitVec.ofNat 32 (bitsAt 22 0)) x
  if fldN x 10 13 = 0 then put else tqRun put core (fldN x 0 10) (fldN x 10 13) (s.reg core 0x2084).toNat

/-- An eviction is written (R419). -/
def evcmdWrite (s : State) (core : Nat) (x : W32) : State :=
  let put := s.putMasked core 0x2087 (BitVec.ofNat 32 (bitsAt 8 0)) x
  if fldN x 7 2 = 0 then put
  else if s.regF core 0x2087 31 1 = 1 then s
  else evRun put core (fldN x 0 6) (bit x 6) (decide (fldN x 7 2 = 2))

/-- An owner's frame command is written (R38). -/
def pfcmdWrite (s : State) (p : Nat) (x : W32) : State :=
  let put := s.putMasked p 0x6020 7 x
  if fldN x 0 3 = 0 then put else pfRun put p (fldN x 0 3) (s.reg p 0x6021).toNat

/-- `sillage` SIZE and NEXP are written (R109): NEXP is clamped, and a change sets the partition's pass counts to 0. -/
def sillageWrite (s : State) (p : Nat) (x : W32) : State :=
  let old := s.reg p 0x6002
  let new : W32 := BitVec.ofNat 32 (fldN x 0 16 + 65536 * clampN 4 16 (fldN x 16 5))
  let s := s.setReg p 0x6002 new
  if old = new then s
  else { s with clusters := s.clusters.map (fun (c : Nat × Cluster) => (c.1, { c.2 with passes := AMap.del c.2.passes p })) }

/-- The package freezes (R316). -/
def State.freeze (s : State) : State := if s.frozen then s else { s.countAll with frozen := true, frozenAt := s.gt }

/-- A port in STATE 0 is trained (R421). -/
def cxlTrain (s : State) (port : Nat) : State := if s.regF 0 (0x50B0 + port) 0 2 = 0 then s.setRegF 0 (0x50B0 + port) 0 2 1 else s

/-- Page Requests go on under the PASID that a register holds, when it is written again (R463). -/
def unbar (s : State) (pasid : Nat) : State :=
  { s with host := { s.host with priBarred := s.host.priBarred.filter (fun x => decide (x ≠ pasid)) } }

/-- A permitted write of a register of the module, its value in range: the fields of `mask` change, with what the register's
description adds (R37, R38, R84, R109, R124, R310, R315, R316, R331, R345, R369, R419, R421, R423, R434, R448, R449, R453, R463). -/
def regWrite (s : State) (inst n : Nat) (mask x : W32) : State :=
  let put := s.putMasked inst n mask x
  if n = 0x2080 then ftcmdWrite s inst x
  else if n = 0x2082 then tiercmdWrite s inst x
  else if n = 0x2085 then tqcmdWrite s inst x
  else if n = 0x2087 then evcmdWrite s inst x
  else if n = 0x208A then ctxKill s x.toNat
  else if (0x4010 ≤ n ∧ n ≤ 0x4013) ∨ n = 0x5060 ∨ n = 0x5061 ∨ n = 0x6032 then
    s.setReg inst n (BitVec.ofNat 32 (clampN 1 3712 (fldN x 0 12)))
  else if 0x5030 ≤ n ∧ n ≤ 0x5033 then
    put.setRegF 0 n 0 8 (min (s.regF 0 n 0 8) (fldN x 8 8))
  else if n = 0x5070 then (if bit x 0 then s.freeze else s)
  else if n = 0x5084 then unbar put (s.regF 0 n 0 20)
  else if n = 0x6084 then unbar put (s.regF inst n 0 20)
  else if n = 0x5086 ∨ n = 0x6086 then s.setReg inst n (BitVec.ofNat 32 (max 1 (fldN x 0 16)))
  else if n = 0x5090 then
    { put with clusters := put.clusters.map (fun (c : Nat × Cluster) => (c.1, { c.2 with wearAbove := true })) }
  else if 0x50B0 ≤ n ∧ n ≤ 0x50B7 then (if bit x 3 then cxlTrain s (n - 0x50B0) else s)
  else if 0x5500 ≤ n ∧ n ≤ 0x557F then ringWrite s (1024 + (n - 0x5500) / 8) (n % 8) x
  else if 0x5B00 ≤ n ∧ n ≤ 0x5B7F ∨ n = 0x6034 then put.refreshRots
  else if n = 0x6002 then sillageWrite s inst x
  else if n = 0x6020 then pfcmdWrite s inst x
  else if 0x6038 ≤ n ∧ n ≤ 0x603A then resumeSealing put inst
  else if n = 0x6052 then deliverNotice put inst
  else if n = 0x6095 then startRoll put inst (put.reg64 inst 0x6094).toNat
  else if 0x6100 ≤ n ∧ n ≤ 0x617F then ringWrite s (16 * inst + (n - 0x6100) / 8) (n % 8) x
  else put

end Sys2Proof.Machine
end

