-- ==== Sys2Proof/Machine/System.lean ====
section
/-! DEFINITION. The words that read and write system registers, the clock and calendar words, `bst`, accesses through BAR
mirrors, and the commands that a register write starts (R37, R38, R84, R85, R87, R92, R109, R124, R248–R252, R294, R304, R316,
R375, R376, R419, R421, R449, R453). -/

namespace Sys2Proof.Machine

/-! ### Words -/

/-- Whether `srd` is allowed (R375). -/
def srdAllowed (o : FS) (v : View) : Bool :=
  let auth := v.g.auth.toNat
  let n := o.reg.toNat
  (decide (auth = 1) || !bit o.mod 0) && (decide (auth ≠ 2) || (decide (0x7000 ≤ n) && decide (n < 0x8000)))

/-- The instance an `srd` or `swr` names through SA (R83). -/
def View.selOf (v : View) (o : FS) : Option Nat :=
  if bit o.mod 0 then some (v.g.base.uni o.sa.toNat).toNat else none

/-- `srd` (R84, R85, R92, R248): a value from the latch shadow too shows only what the reader may read. -/
def execSrd (h : Head) (o : FS) (s : State) : Out :=
  issue (.srd h o) h.s .all (srdAllowed o) (fun s v =>
    let auth := v.g.auth.toNat
    let n := o.reg.toNat
    let put (s : State) (x : W32) : State := v.put s (v.forUnits h (fun l => putReg h.u o.dst.toNat l tagI32 x))
    if (v.units h).isEmpty then .ok s
    else match instanceOf v (v.selOf o) n with
      | none => .ok (put s 0)
      | some k =>
        let val (m : Nat) : W32 := wrapOnce s auth m (v.regValue s k m &&& readMask auth v.b.part? m)
        let (x, shadow) := latchRead v.g.shadow n val
        .ok ((put (clearWrap s (captures auth v.g.shadow n) val) (x &&& readMask auth v.b.part? n)).modGroup v.handle v.gi
          (fun g => { g with shadow }))) s

/-- Whether `swr` is allowed (R84, R375). -/
def swrAllowed (o : FS) (v : View) : Bool :=
  let auth := v.g.auth.toNat
  (decide (auth = 1) || !bit o.mod 0) && decide (writeMask auth o.reg.toNat ≠ 0)

/-- A word of the generator's registers is written (R86, R249). -/
def Group.writeRng (g : Group) (n : Nat) (x : W32) : Group :=
  if n = 0x18 then { g with rngseed := pair x (hi32 g.rngseed) }
  else if n = 0x19 then { g with rngseed := pair (lo32 g.rngseed) x }
  else if n = 0x1A then { g with rngctr := pair x (hi32 g.rngctr) }
  else { g with rngctr := pair (lo32 g.rngctr) x }

/-- `swr` (R84, R249, R375, R376). DEDUCED: the registers that others see, the module's and `ttcfg` of the block, are written as the word
issues, one after another; those that only the group sees, when its run ends (log 15). -/
def execSwr (h : Head) (o : FS) (s : State) : Out :=
  issue (.swr h o) h.s .notAud (swrAllowed o) (fun s v =>
    let auth := v.g.auth.toNat
    let n := o.reg.toNat
    let x := v.g.base.uni o.dst.toNat
    if !v.go h then .ok s
    else match instanceOf v (v.selOf o) n with
      | none => .ok s
      | some k =>
        if badValue s k n x then wordFault clsENC v s
        else if 0x18 ≤ n ∧ n ≤ 0x1B then .ok (s.modGroup v.handle v.gi (fun g => g.writeRng n x))
        else if n = 0x1010 then .ok (s.modBlock v.handle (fun b => applySwr b v.gi { num := n, value := x }))
        else if n < 0x2000 then .ok (s.modGroup v.handle v.gi (fun g => { g with swrs := g.swrs ++ [{ num := n, value := x }] }))
        else .ok (regWrite s k n (writeMask auth n) x)) s

/-- `gtm` (R250). -/
def execGtm (h : Head) (o : F3) (s : State) : Out :=
  issue (.gtm h o) h.s .all noRight (fun s v =>
    .ok (v.put s (v.forUnits h (fun l => putPair h.u o.dst.toNat l tagI32 (BitVec.ofNat 64 s.gt))))) s

/-- `ccnt` (R250). -/
def execCcnt (h : Head) (o : F3) (s : State) : Out :=
  issue (.ccnt h o) h.s .all noRight (fun s v =>
    .ok (v.put s (v.forUnits h (fun l => putPair h.u o.dst.toNat l tagI32 (BitVec.ofNat 64 (s.ccount v.cluster)))))) s

/-- `calq` (R251). -/
def execCalq (h : Head) (o : F3) (s : State) : Out :=
  issue (.calq h o) h.s .all noRight (fun s v =>
    .ok (v.put s (v.forUnits h (fun l =>
      putRegs h.u o.dst.toNat l tagI32 [s.reg 0 0x5010, s.reg 0 0x5011, s.reg 0 0x5012, s.reg 0 0x5013])))) s

/-- A claim of a cluster (R252): 1 and 2 claim a step, a repeated claim keeping its age; 0 withdraws it and marks a release. -/
def boostClaim (s : State) (c step : Nat) : State :=
  let x := s.cluster c
  let old := s.regF c 0x3010 2 2
  let s := s.setRegF c 0x3010 2 2 step
  if step = 0 then s.setCluster c { x with release := true }
  else s.setCluster c { x with release := false, claimAge := if old = step then x.claimAge else s.gt }

/-- `bst` (R252). DEDUCED: the group issues no further word in the tick of a claim, so that a release of its reaches L2 later than the
claim, and a claim that follows an acquire of it is strictly younger (R347; log 63). -/
def execBst (h : Head) (o : FI) (s : State) : Out :=
  issue (.bst h o) h.s .notAud noRight (fun s v =>
    if !v.go h then .ok s
    else .ok ((boostClaim s v.cluster (fldN o.imm 0 2)).modGroup v.handle v.gi (fun g => { g with notBefore := s.gt + 1 }))) s

/-! ### BAR mirrors (R83–R85, R294, R375) -/

/-- A function's number: 0 and 1 for the physical functions, `n + 1` for virtual function `n`. -/
def Fn.num : Fn → Nat
  | .pf0 => 0
  | .pf1 => 1
  | .vf n => n + 1

/-- The function of a number. -/
def fnOf : Nat → Fn
  | 0 => .pf0
  | 1 => .pf1
  | n + 2 => .vf (n + 1)

/-- The module presents the function (R22). -/
def Fn.present : Fn → Bool
  | .vf n => decide (1 ≤ n ∧ n ≤ Config.partitions)
  | _ => true

/-- A function's authority (R32). -/
def Fn.auth : Fn → Nat
  | .pf0 => 1
  | .pf1 => 2
  | .vf _ => 0

/-- The partition of a virtual function. -/
def Fn.part? : Fn → Option Nat
  | .vf n => if 1 ≤ n then some (n - 1) else none
  | _ => none

/-- Every virtual function reads 0 after a failed check (R438). -/
def Fn.blind (s : State) : Fn → Bool
  | .vf _ => decide (s.regF 0 0x5609 0 3 ≠ 0)
  | _ => false

/-- The instance of a register that a function's mirror reaches, `part` naming a partition for physical function 0. -/
def mirrorInst (fn : Fn) (n part : Nat) : Option Nat :=
  match fn with
  | .pf0 =>
    if (0x5000 ≤ n ∧ n < 0x6000) ∨ (0x7000 ≤ n ∧ n < 0x8000) then some 0
    else if 0x6000 ≤ n ∧ n < 0x7000 ∧ part < Config.partitions then some part
    else none
  | .pf1 => if 0x7000 ≤ n ∧ n < 0x8000 then some 0 else none
  | .vf k => if 0x6000 ≤ n ∧ n < 0x7000 ∧ 1 ≤ k ∧ k ≤ Config.partitions then some (k - 1) else none

/-- A host function reads a register through its mirror, with a latch shadow of its own; a virtual function reads 0 while the module has no firmware (R438). -/
def mirrorRead (s : State) (fn : Fn) (n part : Nat) : State :=
  let answer (s : State) (x : W32) : State := { s with outbox := .value x :: s.outbox }
  match mirrorInst fn n part with
  | none => answer s 0
  | some k =>
    if Fn.blind s fn then answer s 0 else
    let auth := Fn.auth fn
    let old := AMap.get? s.host.shadows (Fn.num fn)
    let val (m : Nat) : W32 := wrapOnce s auth m (deviceValue s s.sys s.clusters k m &&& readMask auth (Fn.part? fn) m)
    let (x, shadow) := latchRead old n val
    let s := clearWrap s (captures auth old n) val
    let s := match shadow with
      | some sh => { s with host := { s.host with shadows := AMap.put s.host.shadows (Fn.num fn) sh } }
      | none => s
    answer s x

/-- A host function writes a register through its mirror: without the right, or out of range, nothing happens. -/
def mirrorWrite (s : State) (fn : Fn) (n part : Nat) (x : W32) : State :=
  match mirrorInst fn n part with
  | none => s
  | some k =>
    let m := writeMask (Fn.auth fn) n
    if m = 0 ∨ badValue s k n x then s else regWrite s k n m x

/-- The register that a word of BAR 0 mirrors, and the partition its range is of (R83, R294); none at an offset that lands on no
register's place. -/
def bar0Reg (fn : Fn) (off : Nat) : Option (Nat × Nat) :=
  match fn with
  | .pf0 =>
    if off < 0x4000 then some (0x5000 + off / 4, 0)
    else if off < 0x8000 then some (0x7000 + (off - 0x4000) / 4, 0)
    else if 0x100000 ≤ off ∧ off < 0x200000 then some (0x6000 + (off - 0x100000) % 0x4000 / 4, (off - 0x100000) / 0x4000)
    else none
  | .pf1 => if off < 0x4000 then some (0x7000 + off / 4, 0) else none
  | .vf _ => if off < 0x4000 then some (0x6000 + off / 4, 0) else none

/-- A 32-bit word of BAR 4 (R36, R294): the ownership table for physical function 0, the auditor's buffer frames in ascending
handle for physical function 1. An offset that reaches neither reads 0; what a line with an uncorrectable error reads as has no
stated value. -/
def bar4Word (s : State) (fn : Fn) (off : Nat) : W32 :=
  match fn with
  | .pf0 =>
    let base := 65536 * s.regF 0 0x5100 0 32
    if off < base then 0
    else BitVec.ofNat 32 (fldN (s.ftEntry ((off - base) / 8)) (if off % 8 < 4 then 0 else 32) 32)
  | .pf1 =>
    match ((s.fot.filter (fun e => decide (ftKind e.2 = 2) && ftAub e.2)).take 4096)[off / 65536]? with
    | none => 0
    | some e =>
      match s.physRead (physAddr e.1 (off % 65536)) 4 with
      | .ok bs => BitVec.ofNat 32 (ofBytes bs)
      | .error _ => BitVec.ofNat 32 (Config.freeValue s.fresh)
  | .vf _ => 0

/-- A 32-bit word of BAR 2 (R294, R359): the MSI-X table's one entry (address, upper address, data, vector control) and, at
0x1000, the pending-bit array. PRESUMED: the layout of PCIe (log 57). -/
def bar2Word (m : Msix) (off : Nat) : W32 :=
  match off with
  | 0 => m.addr.setWidth 32
  | 4 => (m.addr >>> 32).setWidth 32
  | 8 => m.data
  | 12 => BitVec.ofNat 32 (b2n m.masked)
  | 4096 => BitVec.ofNat 32 (b2n m.pending)
  | _ => 0

/-- The MSI-X state after a write of a word of BAR 2; the pending-bit array is read only, as the other words are. -/
def bar2Write (m : Msix) (off : Nat) (x : W32) : Msix :=
  match off with
  | 0 => { m with addr := m.addr.extractLsb' 32 32 ++ x }
  | 4 => { m with addr := x ++ m.addr.extractLsb' 0 32 }
  | 8 => { m with data := x }
  | 12 => { m with masked := bit x 0 }
  | _ => m

/-- A read through a BAR: of a register's mirror (R85), by its number or by its offset of BAR 0, or of a word of BAR 2 or BAR 4
(R294). -/
def execBarMirrorRead (fn : Fn) (num : BitVec 16) (part : Nat) (word : Option BarWord) (s : State) : Out :=
  .next (
    match word with
    | none => mirrorRead s fn num.toNat part
    | some (.bar0 off) =>
      match bar0Reg fn off with
      | some (n, p) => mirrorRead s fn n p
      | none => { s with outbox := .value 0 :: s.outbox }
    | some (.bar2 off) => { s with outbox := .value (if Fn.present fn && !Fn.blind s fn then bar2Word (s.msixOf (Fn.num fn)) off else 0) :: s.outbox }
    | some (.bar4 off) => { s with outbox := .value (bar4Word s fn off) :: s.outbox, fresh := s.fresh + 1 })

/-- A host function's write: of the mirror of a register with no row of its own (R84), of a word of BAR 0 or BAR 2 (R294), of the mask of
its MSI-X (R359; bit 0 of the value), or, to no effect, of a word of BAR 4, which is read only. -/
def execRegisterWrite (fn : Fn) (target : HostTarget) (part : Nat) (value : W32) (s : State) : Out :=
  let change (f : Msix → Msix) : State := if Fn.present fn then s.setMsix (Fn.num fn) (f (s.msixOf (Fn.num fn))) else s
  .next (
    match target with
    | .reg num => mirrorWrite s fn num.toNat part value
    | .word (.bar0 off) =>
      match bar0Reg fn off with
      | some (n, p) => mirrorWrite s fn n p value
      | none => s
    | .word (.bar2 off) => change (fun m => bar2Write m off value)
    | .word (.bar4 _) => s
    | .msixMask => change (fun m => { m with fnMasked := bit value 0 }))

/-- The auditor's capture of a regulator's energy through physical function 1 (R92). -/
def execEnergyCapture (g : Nat) (odd : Bool) (s : State) : Out := .next (mirrorRead s .pf1 (0x7900 + 2 * g + b2n odd) 0)

/-- The threshold of wear is written (R453). -/
def execWearthrWrite (value : W32) (s : State) : Out := .next (regWrite s 0 0x5090 (writeMask 1 0x5090) value)

/-- NEXP and SIZE of a partition are written (R109). -/
def execSillageConfigWrite (part : Nat) (value : W32) (s : State) : Out := .next (sillageWrite s part value)

/-- The tag table of a block is enabled or disabled (R87). -/
def execTtcfgWrite (handle : Nat) (value : W32) (s : State) : Out :=
  .next (s.modBlock handle (fun b => applySwr b 0 { num := 0x1010, value }))

/-! ### The operator's frame commands (R37) -/

/-- A core's `ftcmd` is written with a command. -/
def ftCommand (s : State) (opc core : Nat) (pa pb : BitVec 6) (opm : Bool) : State :=
  ftcmdWrite s core (BitVec.ofNat 32 (opc + 16 * pa.toNat + 1024 * pb.toNat + 65536 * b2n opm))

/-- GRANT. -/
def execGrant (core : Nat) (pa pb : BitVec 6) (opm : Bool) (s : State) : Out := .next (ftCommand s 1 core pa pb opm)
/-- RECLAIM. -/
def execReclaim (core : Nat) (pa pb : BitVec 6) (opm : Bool) (s : State) : Out := .next (ftCommand s 2 core pa pb opm)
/-- TAKE. -/
def execTake (core : Nat) (pa pb : BitVec 6) (opm : Bool) (s : State) : Out := .next (ftCommand s 3 core pa pb opm)
/-- RELEASE. -/
def execRelease (core : Nat) (pa pb : BitVec 6) (opm : Bool) (s : State) : Out := .next (ftCommand s 4 core pa pb opm)
/-- WINDOW. -/
def execWindow (core : Nat) (pa pb : BitVec 6) (opm : Bool) (s : State) : Out := .next (ftCommand s 5 core pa pb opm)
/-- UNWINDOW. -/
def execUnwindow (core : Nat) (pa pb : BitVec 6) (opm : Bool) (s : State) : Out := .next (ftCommand s 6 core pa pb opm)
/-- AUDBUF. -/
def execAudbuf (core : Nat) (pa pb : BitVec 6) (opm : Bool) (s : State) : Out := .next (ftCommand s 7 core pa pb opm)
/-- PRESET (R44). -/
def execPreset (core : Nat) (pa pb : BitVec 6) (opm : Bool) (s : State) : Out := .next (ftCommand s 8 core pa pb opm)
/-- AUDTEXT. -/
def execAudtext (core : Nat) (pa pb : BitVec 6) (opm : Bool) (s : State) : Out := .next (ftCommand s 9 core pa pb opm)

/-! ### The owner's frame commands (R38) -/

/-- ARM. -/
def execArm (part : Nat) (s : State) : Out := .next (pfcmdWrite s part 1)
/-- DISARM. -/
def execDisarm (part : Nat) (s : State) : Out := .next (pfcmdWrite s part 2)
/-- CTLMARK. -/
def execCtlmark (part : Nat) (s : State) : Out := .next (pfcmdWrite s part 3)

/-! ### Tier commands, eviction and token queues (R124, R304, R419) -/

/-- TOHBM. -/
def execTohbm (core : Nat) (s : State) : Out := .next (tiercmdWrite s core 1)
/-- TOCXL. -/
def execTocxl (core : Nat) (s : State) : Out := .next (tiercmdWrite s core 2)
/-- TOCOLD. -/
def execTocold (core : Nat) (s : State) : Out := .next (tiercmdWrite s core 3)
/-- QUERY. -/
def execQuery (core : Nat) (s : State) : Out := .next (tiercmdWrite s core 4)

/-- A move of a frame ends once nothing holds it (R124, R413). -/
def execTierMoveComplete (frame : Nat) (s : State) : Out :=
  .next (
    match s.moves.find? (fun m => decide (m.frame = frame)) with
    | none => s
    | some m => if s.moveHeld frame then s else (moveDo s m).retryFrames)

/-- `tqcmd` (R304). -/
def execTqcmd (core : Nat) (off : BitVec 10) (slots : BitVec 13) (s : State) : Out :=
  .next (tqcmdWrite s core (BitVec.ofNat 32 (off.toNat + 1024 * slots.toNat)))

/-- `evcmd` to CXL direct (R419). -/
def execEvictCxlDirect (core : Nat) (part : BitVec 6) (opf : Bool) (s : State) : Out :=
  .next (evcmdWrite s core (BitVec.ofNat 32 (part.toNat + 64 * b2n opf + 128)))
/-- `evcmd` to CXL cold (R419). -/
def execEvictCxlCold (core : Nat) (part : BitVec 6) (opf : Bool) (s : State) : Out :=
  .next (evcmdWrite s core (BitVec.ofNat 32 (part.toNat + 64 * b2n opf + 256)))

/-! ### Slot 31 (R42, R303) -/

/-- A block of one group in slot 31 of a core, in the state of R54. -/
def slot31Block (s : State) (owner : Owner) (core : Nat) (asid : BitVec 11) (auth : BitVec 2) (entry : W64) : Block :=
  { owner, place := .core core, gslots := [31]
    groups := [{ slot0 := { live := true, pc := entry, mask := allLanes }, divLimit := 0, asid, auth, age := s.ccount (core / 4) }] }

/-- The key of the agent of a core among the blocks. -/
def agentKey (core : Nat) : Nat := 2 ^ 32 + core
/-- The key of a counting task. -/
def taskKey (t : Nat) : Nat := 2 ^ 32 + 1024 + t

/-- A counting task starts, unless its previous run is still going or its entry names none (R42). The entry is a control block,
captured through the task's core (R123); one on a page of the host or of a peer is fetched first. DESIGN CHOICE: an entry with PERIOD 0, a
misaligned ENTRY or a reserved bit set, and one that cannot be read, starts nothing and raises no record (log 58). -/
def startTask (f : Nat) (s : State) (t : Nat) : State :=
  let va := s.reg64 0 0x5120 + BitVec.ofNat 64 (16 * t)
  match capture s t 0x400 va 16 with
  | (s, .ok bs) =>
    let entry := fieldA bs 0
    let period := fieldOf bs 8 2
    if fieldOf bs 10 1 ≠ 1 ∨ period = 0 ∨ f % period ≠ 0 ∨ entry.toNat % 8 ≠ 0 ∨ !zeroFrom bs 11 ∨ (AMap.get? s.blocks (taskKey t)).isSome then s
    else { s with blocks := AMap.put s.blocks (taskKey t) (slot31Block s (.task t) t 0x440 2 entry) }
  | (s, .remote tr) =>
    match s.hwRemote 0x400 .post .load (va - BitVec.ofNat 64 (va.toNat % 64)) [] 64 tr with
    | some r =>
      { s.sendRemote { r with hw := none, fill := some t, addr := r.addr - va.toNat % 64 } with
        clock := { s.clock with dueTasks := s.clock.dueTasks ++ [(t, f)] } }
    | none => s
  | (s, _) => s

/-- The entry of a task that was to start has been fetched: it starts by the frame in which it fell due. -/
def startDue (s : State) (t : Nat) : State :=
  let (mine, others) := s.clock.dueTasks.partition (fun x => decide (x.1 = t))
  mine.foldl (fun s x => startTask x.2 s t) { s with clock := { s.clock with dueTasks := others } }

/-! ### Other commands -/

/-- `ctxkill` (R449). -/
def execCtxkill (handle : Nat) (s : State) : Out := .next (ctxKill s handle)

/-- A write of 1 to `dbgctl`.FRZ (R316). -/
def execDbgctlFreeze (s : State) : Out := .next s.freeze

/-- The test port's FREEZE instruction (R316). -/
def execTestPortFreeze (s : State) : Out := .next s.freeze

/-- A write of RETRAIN (R421). -/
def execCxlRetrain (port : Nat) (s : State) : Out := .next (cxlTrain s port)

end Sys2Proof.Machine
end

