-- ==== Sys2Proof/Machine/Host.lean ====
section
/-! DEFINITION. The answers of the host and of peers, host page translation and page requests, the host link, Function Level
Reset, and accesses that peers make here (R126–R128, R322, R323, R359, R422–R425, R454, R455, R462–R464). -/

namespace Sys2Proof.Machine

/-! ### Answers (R322, R422, R425) -/

/-- An access is no longer outstanding. -/
def State.dropRemote (s : State) (id : Nat) : State :=
  { s with
    remotes := AMap.del s.remotes id
    host := { s.host with inv := s.host.inv.map (fun (v : AtsInv) => { v with uses := v.uses.filter (fun x => decide (x ≠ id)) }) } }

/-- How many bytes an access's answer carries. -/
def Remote.answerLen (r : Remote) : Nat := match r.kind with | .store => 0 | _ => r.w

/-- An answer with its bytes reaches what asked for it. -/
def remoteDone (s : State) (id : Nat) (r : Remote) (bs : List Byte) : State :=
  let s := s.dropRemote id
  match r.hw, r.eng, r.fill with
  | some (.fetch reader), _, _ => if r.stale then s else { s with fetched := (reader, lineKey r.asid.toNat r.va, bs) :: s.fetched }
  | some (.sig _ cmd), _, _ => sigDone s cmd
  | some (.sill p next), _, _ => sillDone s p next true
  | some _, _, _ => s
  | none, some _, _ => s
  | none, none, some core =>
    if r.stale then s
    else
    let x := s.core core
    let a := r.asid.toNat
    let line := r.va.toNat / 64
    let old := x.cbc.filter (fun l => !decide (l.asid = a ∧ l.line = line))
    let s := s.setCore core { x with cbc := ({ asid := a, line, bytes := bs } :: old).take 512 }
    if r.handle = noHandle then startDue s core else s
  | none, none, none =>
    match r.dst with
    | some d => s.modGroup r.handle r.gi (fun g => g.putResult r.uniform d r.lane r.tag r.iaddr bs)
    | none => s

/-- A write of the husk of a context to the host or a peer is not performed (R448, R449). -/
def huskLost (s : State) (h cls : Nat) (r : Remote) (page : Option PageKey) : State :=
  s.modBlock h (fun b =>
    { b with huskFail := b.huskFail.or (some { cls, frame := r.frame, tier := if r.host then 2 else 3, unit := 0, va := r.va, page }) })

/-- An access fails, with REM or RTO (R422, R425, R433). A line that a reader does not get is kept as its class alone. -/
def remoteFail (s : State) (id : Nat) (r : Remote) (cls : Nat) : State :=
  let s := s.dropRemote id
  match r.hw, r.eng with
  | some (.fetch reader), _ => if r.stale then s else { s with fetched := (reader, lineKey r.asid.toNat r.va, [BitVec.ofNat 8 cls]) :: s.fetched }
  | some (.sig ring cmd), _ =>
    sigDone (s.ringRecord ring cls r.va 2 r.frame (if r.host then 2 else 3) 0) cmd
  | some (.sill p next), _ => sillDone s p next false
  | some (.husk h), _ => huskLost s h cls r none
  | some .post, _ => s
  | some (.done _), _ => s
  | some (.image p cut), _ => imageLost s p cut r.va
  | none, some op => s.failOp op cls r.frame (if r.host then 2 else 3) 0
  | none, none => s.remoteFailed r cls

/-- An answer of some bytes comes in by the port of its access, and is counted there (R321). -/
def Remote.arrived (r : Remote) (s : State) (bytes : Nat) : State :=
  match r.port with
  | some p => s.fabTake (asidPart r.asid.toNat) p bytes
  | none => s

/-- The host or a peer answers an access (R322, R323, R425). -/
def execRemoteResponse (id : Nat) (a : Answer) (s : State) : Out :=
  .next (
    match AMap.get? s.remotes id with
    | none => s
    | some r =>
      if r.xlat || r.lost then s
      else match a with
        | .failed => remoteFail (r.arrived s 0) id r clsREM
        | .done bs => if bs.length = r.answerLen then remoteDone (r.arrived s bs.length) id r bs else s)

/-- An access has waited longer than its timeout (R422, R423, R425). -/
def execRemoteTimeout (id : Nat) (s : State) : Out :=
  .next (
    match AMap.get? s.remotes id with
    | none => s
    | some r => if r.xlat ∨ s.gt ≤ r.due then s else remoteFail s id r clsRTO)

/-! ### Missing host pages (R131, R462, R463) -/

/-- The accesses that wait for a translation of a page, oldest first. -/
def State.awaiting (s : State) (pasid page : Nat) : List (Nat × Remote) :=
  s.remotes.filter (fun x => x.2.xlat && x.2.host && decide (x.2.pasid = pasid ∧ x.2.page = page))

/-- The port asks the host for a page, once for each page that is missing (R463). -/
def State.askPage (s : State) (pasid page : Nat) (write : Bool) : State :=
  if s.host.pri.contains (pasid, page) then s
  else { s with
    host := { s.host with pri := s.host.pri ++ [(pasid, page)] }
    outbox := .pageRequest pasid page write :: s.outbox }

/-- An access meets a missing host page: a group's lane is held and its block counts the page; the hardware's own reader and an
engine wait as they do for a missing page of the device. What does not wait for missing pages ends as for any other failure: a husk's write
(R448, R449), a sillage entry (R417), a checkpoint's (R451). `all` are the accesses that wait for the page. -/
def missRemote (all : List (Nat × Remote)) (s : State) (x : Nat × Remote) : State :=
  let r := x.2
  let k : PageKey := .host r.pasid r.page
  let s := { s with remotes := AMap.modify s.remotes x.1 (fun r => { r with denied := true }) }
  match r.hw, r.eng with
  | some (.husk h), _ => huskLost (s.dropRemote x.1) h clsMSP r (some k)
  | some (.sill p next), _ => sillDone (s.dropRemote x.1) p next false
  | some (.image p cut), _ => imageLost (s.dropRemote x.1) p cut r.va
  | some (.fetch reader), _ =>
    if reader < 2048 then ringMiss s reader k r.frame 2 r.va
    else if reader < 3584 then ringMiss s (reader - 2048) k r.frame 2 r.va
    else if wordReader 0 0 ≤ reader then
      let h := (reader - wordReader 0 0) / 32
      let gi := (reader - wordReader 0 0) % 32
      ((s.dropRemote x.1).modGroup h gi (fun g => { g with stopped := true })).addMissing h gi k
        { s.recOf h gi clsMSP with iaddr := r.iaddr, vaddr := r.iaddr, kind := 4, lanes := r.mask, frame := r.frame, tier := 2 }
    else if 2 ^ 40 ≤ reader then
      let op := reader - 2 ^ 40
      match (AMap.get? s.ops op).map EngOp.kind with
      | some .mat =>
        match (s.clusters.flatMap (fun c => c.2.reqs)).find? (fun q => decide (q.op = op)) with
        | some q => mmamFail (s.dropRemote x.1) q clsMSP r.frame 2 0 5 (some k) r.va
        | none => s.dropRemote x.1
      | _ => engMissing s op k r.va
    else s
  | some _, _ => s
  | none, some op => engMissing s op k r.va
  | none, none =>
    match s.group? r.handle r.gi, AMap.get? s.blocks r.handle with
    | some g, some b =>
      let mates := (all.filter (fun y => decide (y.2.handle = r.handle ∧ y.2.gi = r.gi) && y.2.hw.isNone && y.2.eng.isNone)).map (·.2)
      let lanes := if r.uniform || r.fill.isSome then r.mask else mates.foldl (fun (m : W32) (y : Remote) => m ||| (1#32 <<< y.lane)) 0
      let rc : Rec :=
        { s.recOf r.handle r.gi clsMSP with
          iaddr := r.iaddr, vaddr := r.va, kind := if r.fill.isSome then 5 else kindOf r.kind, wid := r.wid, lanes, frame := r.frame, tier := 2 }
      let s := s.dropRemote x.1
      if b.groups.length ≤ r.gi ∨ (g.exited = allLanes ∧ r.fill.isSome) then s
      else
        let s := if r.fill.isSome then s.modGroup r.handle r.gi (fun g => { g with stopped := true })
          else s.modGroup r.handle r.gi (fun g => { g with held := insertHeld g.held r.hold })
        s.addMissing r.handle r.gi k rc
    | _, _ => s.dropRemote x.1

/-- A response withholds a page from accesses that wait for it: the page is missing, or, under a PASID that is barred, they fail
with REM at once (R462, R463). -/
def missPage (s : State) (pasid page : Nat) (ws : List (Nat × Remote)) : State :=
  if ws.isEmpty then s
  else if s.host.priBarred.contains pasid then ws.foldl (fun s x => remoteFail s x.1 x.2 clsREM) s
  else
    let new := ws.filter (fun x => !x.2.denied)
    let s := new.foldl (missRemote new) s
    if new.isEmpty then s else s.askPage pasid page (ws.any (fun x => decide (x.2.kind ≠ .load)))

/-- A translation response arrives (R462, R464). -/
def execAtsResponse (id : Nat) (grant : Option AtsGrant) (s : State) : Out :=
  .next (
    match AMap.get? s.host.ats id with
    | none => s
    | some q =>
      let s := { s with host := { s.host with ats := AMap.del s.host.ats id } }
      let ws := s.awaiting q.pasid q.page
      if q.stale then (if ws.isEmpty then s else s.askAts q.pasid q.page)
      else match grant with
        | none => missPage s q.pasid q.page ws
        | some g =>
          let ent : AtcEnt := { pasid := q.pasid, page := q.page, phys := g.phys, write := g.write }
          let old := s.host.atc.filter (fun e => !decide (e.pasid = q.pasid ∧ e.page = q.page))
          let s := { s with host := { s.host with atc := (ent :: old).take 4096 } }
          let ok (x : Nat × Remote) : Bool := decide (x.2.kind = .load) || g.write
          let s := (ws.filter ok).foldl (fun s x =>
            let r : Remote := { x.2 with xlat := false, due := s.gt + s.remoteTicks x.2.asid.toNat }
            State.hostTraffic { s with remotes := AMap.put s.remotes x.1 r } (asidPart r.asid.toNat) r.w) s
          missPage s q.pasid q.page (ws.filter (fun x => !ok x)))

/-- The accesses that still wait for a page ask for its translation afresh. -/
def State.askAgain (s : State) (pasid page : Nat) : State :=
  if (s.awaiting pasid page).isEmpty then s
  else
    let on (r : Remote) : Bool := r.xlat && r.host && decide (r.pasid = pasid ∧ r.page = page)
    { s with remotes := s.remotes.map (fun (x : Nat × Remote) => (x.1, if on x.2 then { x.2 with denied := false } else x.2)) }.askAts pasid page

/-- The host refuses a page: held lanes on it are to be discarded with REM at placement, and what else missed it fails with REM (R412,
R463); an access whose translation is still asked for waits on (R462). -/
def refusePage (s : State) (pasid page : Nat) : State :=
  let k : PageKey := .host pasid page
  let mark (g : Group) : Group :=
    { g with held := g.held.map (fun a => if a.page = some k then { a with rem := true } else a) }
  let s := { s with blocks := s.blocks.map (fun (b : Nat × Block) => (b.1, { b.2 with groups := b.2.groups.map mark })) }
  let s := s.resolvePage k
  ((s.awaiting pasid page).filter (fun x => x.2.denied)).foldl (fun s x => remoteFail s x.1 x.2 clsREM) s

/-- A page request group response arrives (R463): one that matches no request is ignored. -/
def execPageRequestResponse (pasid page : Nat) (code : PriCode) (s : State) : Out :=
  .next (
    if !s.host.pri.contains (pasid, page) then s
    else
      let s := { s with host := { s.host with pri := s.host.pri.filter (fun x => decide (x ≠ (pasid, page))) } }
      match code with
      | .success => (s.resolvePage (.host pasid page)).askAgain pasid page
      | .invalidRequest => refusePage s pasid page
      | .responseFailure =>
        let barred := if s.host.priBarred.contains pasid then s.host.priBarred else pasid :: s.host.priBarred
        refusePage { s with host := { s.host with priBarred := barred } } pasid page)

/-- An ATS Invalidation Request arrives (R127, R464): cached translations of the page go, requests sent before count no longer, and
the completion waits for the accesses that used them. -/
def execAtsInvalidation (pasid page : Nat) (s : State) : Out :=
  .next (
    let uses := (s.remotes.filter (fun x => x.2.host && !x.2.xlat && decide (x.2.pasid = pasid ∧ x.2.page = page))).map (·.1)
    { s with host := { s.host with
        atc := s.host.atc.filter (fun e => !decide (e.pasid = pasid ∧ e.page = page))
        ats := s.host.ats.map (fun (q : Nat × AtsReq) => (q.1, if q.2.pasid = pasid ∧ q.2.page = page then { q.2 with stale := true } else q.2))
        inv := s.host.inv ++ [{ pasid, page, uses }] } })

/-- The completion of an invalidation is sent once every access that used a matching entry has finished (R127). -/
def execInvalidationCompletion (pasid page : Nat) (s : State) : Out :=
  .next (
    match s.host.inv.find? (fun v => decide (v.pasid = pasid ∧ v.page = page) && v.uses.isEmpty) with
    | none => s
    | some v => { s with
        host := { s.host with inv := s.host.inv.erase v }
        outbox := .invalidated pasid page :: s.outbox })

/-! ### The host link and resets of functions (R454, R455) -/

/-- The rings of a function are as after reset of EN, TAIL, INDEX, STATE and `hqmiss`: what has started runs on. -/
def flrRing (s : State) (r : Nat) : State :=
  let s := s.setRingReg r 2 (setFld (setFld (s.ringReg r 2) 5 1 0) 6 2 0)
  let s := ((s.setRingReg r 3 0).setRingIndex r 0).setRingReg r 5 0
  let gone := (s.cmds.filter (fun c => decide (c.2.ring = r) && !c.2.started)).map (·.1)
  let mine (x : Remote) : Bool := decide (x.hw = some (.fetch r)) || decide (x.hw = some (.fetch (waitReader r)))
  let s := { (s.dropCmds gone).loseRemotes mine with tickets := s.tickets.filter (fun t => !gone.contains t.2.cmd) }
  ((s.fetchDone r).fetchDone (waitReader r)).setRing r {}

/-- The MSI-X state of a function is reset. -/
def State.resetMsix (s : State) (fn : Nat) : State := { s with host := { s.host with msix := AMap.del s.host.msix fn } }

/-- A Function Level Reset of the virtual function of a partition. -/
def flrVf (s : State) (p : Nat) : State := ((((ringsOf p).foldl flrRing s).resetMsix (p + 2)).setReg p 0x6054 0)

/-- A Function Level Reset (R454). -/
def flr (s : State) (fn : Fn) : State :=
  match fn with
  | .vf n => if 1 ≤ n ∧ n ≤ Config.partitions then flrVf s (n - 1) else s
  | .pf0 =>
    let s := ((List.range 16).map (fun q => 1024 + q)).foldl flrRing s
    (List.range Config.partitions).foldl flrVf ((s.resetMsix 0).setReg 0 0x5114 0)
  | .pf1 => s.resetMsix 1

/-- A PCIe Function Level Reset of a function (R454). -/
def execFunctionLevelReset (fn : Fn) (s : State) : Out := .next (flr s fn)

/-- The host link goes down (R455). -/
def execPcieLinkDown (s : State) : Out :=
  .next (
    let pages := s.host.pri
    let s := { s with host := { s.host with linkUp := false, atc := [], ats := [], pri := [], inv := [] } }
    let s := pages.foldl (fun s k => refusePage s k.1 k.2) s
    (s.remotes.filter (fun x => x.2.host)).foldl (fun s x => remoteFail s x.1 x.2 clsREM) s)

/-- The host link returns; after a conventional reset every function is as after a Function Level Reset (R455). -/
def execPcieLinkUp (conventional : Bool) (s : State) : Out :=
  .next (
    let s := { s with host := { s.host with linkUp := true } }
    if conventional then flr (flr s .pf0) .pf1 else s)

/-- A held MSI-X message is sent once neither mask holds it (R359), or dropped while the link is down (R455). -/
def execMsixMessageSend (fn : Fn) (s : State) : Out :=
  .next (if !(Fn.present fn) then s else
    let k := Fn.num fn
    let m := s.msixOf k
    if !m.pending || m.held then s else (s.setMsix k { m with pending := false }).msixSend k)

/-! ### Accesses of peers (R128, R323, R424) -/

/-- What an inbound access does, for the checks of R403. -/
def inboundAcc (x : Inbound) : Acc :=
  match x.kind with
  | .load => .load
  | .store => .store
  | .atomic => .atomic true

/-- An inbound access comes in by its port, and is counted there. -/
def State.takeInbound (s : State) (x : Inbound) : State :=
  s.fabTake (if x.part < Config.partitions then some x.part else none) x.port x.data.length

/-- REM goes back to the initiator of an inbound access, over the port it came by. -/
def State.sendRefusal (s : State) (x : Inbound) : State :=
  { s with outbox := .refused x.port x.tag :: s.outbox }.fabSend (if x.part < Config.partitions then some x.part else none) x.port 0

/-- An inbound access is refused: REM goes back, and the target's owner and operator are told (R424). -/
def refuseInbound (s : State) (x : Inbound) : State :=
  let s := if x.part < Config.partitions then
      (s.record { cls := clsREM, vaddr := x.va, kind := kindOf x.kind, part := some x.part } .queue).1
    else s
  s.sendRefusal x

/-- The leaf of an inbound access is one of partition memory with EXP = 1 (R424). -/
def inboundLeaf (s : State) (x : Inbound) : Bool :=
  match s.leafOf (16 * x.part + x.dom) x.va, s.inboundFrame x with
  | some e, some f => e.exp && decide (ftKind (s.ftEntry f) = 1)
  | _, _ => false

/-- An inbound access is performed at its home, or refused; or it is held on a missing page, which it answers. -/
def inboundAt (s : State) (x : Inbound) : State × Option PageKey :=
  if Config.partitions ≤ x.part ∨ 16 ≤ x.dom then (refuseInbound s x, none)
  else match judge s none (16 * x.part + x.dom) (inboundAcc x) x.va x.bytes with
  | (s, .mem pa _ _ _ exp _) =>
    if !exp ∨ ftKind (s.ftEntry (pa / 65536)) ≠ 1 then (refuseInbound s x, none)
    else match memPerform s pa x.kind x.bytes (if x.kind = .store then x.data.take x.bytes else x.data) x.aop x.aty with
      | .ok (s, bs) => ({ s with outbox := .answer x.port x.tag bs :: s.outbox }.fabSend (some x.part) x.port bs.length, none)
      | .error u =>
        let f := pa / 65536
        let s := (s.record
          { cls := clsECC, vaddr := x.va, kind := kindOf x.kind, part := some x.part, frame := f, tier := s.tierOf f, unit := u, ukind := 7 }
          .queue).1
        (s.sendRefusal x, none)
  | (s, .missing f table _) => if table || inboundLeaf s x then (s, some (.frame f)) else (refuseInbound s x, none)
  | (s, _) => (refuseInbound s x, none)

/-- The target performs the inbound accesses of a port in the order they arrive, at its home, refuses them, or holds them on a missing
page (R323, R424); their traffic is counted as they arrive (R91, R321). One that arrives behind another that waits, or in a maintenance slot
or its approach, the transmitters being idle there (R313), waits its turn; the first that waits at a port goes on when its page has
resolved and the calendar allows it. ORD and SCOPE ask nothing more of the target: every earlier access of the port has been performed. -/
def execInboundPeerAccess (x : Inbound) (s : State) : Out :=
  .next (
    match s.inbound.find? (fun y => decide (y.1.port = x.port)) with
    | some y =>
      if y.1 = x then
        (if y.2.isSome || decide (s.clock.phase ≠ .open_) then s
        else match inboundAt s x with
          | (s, none) => { s with inbound := s.inbound.erase (x, none) }
          | (s, k) => { s with inbound := s.inbound.map (fun z => if z = (x, none) then (x, k) else z) })
      else { s.takeInbound x with inbound := s.inbound ++ [(x, none)] }
    | none =>
      let s := s.takeInbound x
      if s.clock.phase ≠ .open_ then { s with inbound := s.inbound ++ [(x, none)] }
      else match inboundAt s x with
        | (s, none) => s
        | (s, k) => { s with inbound := s.inbound ++ [(x, k)] })

end Sys2Proof.Machine
end

