-- ==== Sys2Proof/Machine/Colls.lean ====
section
/-! DEFINITION. Collectives: records, trees, chunks and their ends (R291, R292, R324–R329, R381, R444–R446), lost links (R443), and
the retiring of engine operations (R141). -/

namespace Sys2Proof.Machine

/-! ### The job of an operation -/

/-- MEMBERS[i].PMOD of a captured job (R291). -/
def memberMod (bs : List Byte) (i : Nat) : Nat := fieldOf bs (64 + 8 * i) 4

/-- STATE of a port (R89). -/
def State.linkState (s : State) (p : Nat) : Nat := s.regF 0 (0x5200 + 2 * p) 0 2

/-- The ports in STATE 2 that lead to another module: a loop-back port does not (R320). -/
def State.livePorts (s : State) : List Nat :=
  (List.range 128).filter (fun p => decide (s.linkState p = 2) && decide (s.reg 0 (0x5201 + 2 * p) ≠ s.reg 0 0x5080))

/-- The operation of a job that the engine has taken: as it stands, or as it was submitted once it has retired. -/
def State.jobOp (s : State) (j : Job) : Option (Nat × EngOp) :=
  j.op.bind (fun id => ((AMap.get? s.ops id).or j.desc).map (fun o => (id, o)))

/-- The record a member takes of its own links (R324, R381), with its marks (R444); a loop-back port is none of them (R320). -/
def ownRecord (s : State) (o : EngOp) (marks : List Nat) : JobRecord :=
  let bs := o.block
  { rank := jobRank bs
    ports := s.livePorts.map (fun p =>
      { port := p, pmod := (s.reg 0 (0x5201 + 2 * p)).toNat, pport := s.regF 0 (0x5200 + 2 * p) 2 7 })
    op := fieldOf bs 0 1, rop := fieldOf bs 1 1, count := jobCount bs, chunk := fieldOf bs 28 4, nmem := jobNmem bs
    digest := sha256 ((bs.drop 64).take (8 * jobNmem bs)), marks }

/-- The fields of a record that all members must share (R381). -/
def sharedFields (r : JobRecord) : Nat × Nat × Nat × Nat × Nat × List Byte := (r.op, r.rop, r.count, r.chunk, r.nmem, r.digest)

/-! ### Trees (R325) -/

/-- An edge: ranks u < v and the ports pu and pv that join them. -/
structure Edge where
  u : Nat
  v : Nat
  pu : Nat
  pv : Nat
  deriving DecidableEq, Repr

/-- All edges among the members, ascending by (u, v, pu). -/
def edgesOf (pmod : Nat → Nat) (n : Nat) (recs : List JobRecord) : List Edge :=
  let ports (r : Nat) : List PortRec := match recs.find? (fun x => decide (x.rank = r)) with | some x => x.ports | none => []
  (List.range n).flatMap (fun u => (List.range n).flatMap (fun v =>
    if v ≤ u then []
    else (List.range 128).flatMap (fun pu =>
      ((ports u).filter (fun x => decide (x.port = pu ∧ x.pmod = pmod v) &&
        (ports v).any (fun y => decide (y.port = x.pport ∧ y.pmod = pmod u ∧ y.pport = pu)))).map (fun x =>
          { u, v, pu, pv := x.pport }))))

/-- One pass over the edges: those that join different sets of the forest, and those left over. -/
def spanStep : List Edge → List Nat → List Edge × List Edge
  | [], _ => ([], [])
  | e :: es, labels =>
    let a := labels.getD e.u 0
    let b := labels.getD e.v 0
    if a = b then
      let (t, rest) := spanStep es labels
      (t, e :: rest)
    else
      let (t, rest) := spanStep es (labels.map (fun x => if x = b then a else x))
      (e :: t, rest)

/-- The trees, built one after another until no spanning tree remains or there are 64. -/
def buildTrees (n : Nat) : Nat → List Edge → List (List Edge)
  | 0, _ => []
  | fuel + 1, es =>
    let (t, rest) := spanStep es (List.range n)
    if t.length + 1 = n then t :: buildTrees n fuel rest else []

/-- The children of a rank in a tree whose edges lead away from the root, in ascending rank. -/
def children (n : Nat) (tree : List (Nat × Nat)) (parent x : Nat) : List Nat :=
  (List.range n).filter (fun y => decide (y ≠ parent) && tree.any (fun e => decide (e = (x, y) ∨ e = (y, x))))

/-- One combination of a reduction (R327). -/
def combineWord (rop : Nat) (a b : W32) : W32 :=
  BitVec.ofNat 32 (
    if rop = 0 then F32.round 0 (FV.add 0 (F32.decode a.toNat) (F32.decode b.toNat)) 0
    else minMaxBits F32 (decide (rop = 1)) a.toNat b.toNat)

/-- The partial result of a rank (R327): its own values, combined with those of its children in ascending rank. -/
def partialAt (n rop : Nat) (tree : List (Nat × Nat)) (own : Nat → List W32) : Nat → Nat → Nat → List W32
  | 0, _, x => own x
  | fuel + 1, parent, x =>
    (children n tree parent x).foldl (fun acc y => List.zipWith (combineWord rop) acc (partialAt n rop tree own fuel x y)) (own x)

/-- The ranks of a tree at and below a rank, seen from a parent. -/
def below (n : Nat) (tree : List (Nat × Nat)) : Nat → Nat → Nat → List Nat
  | 0, _, x => [x]
  | fuel + 1, parent, x => x :: (children n tree parent x).flatMap (fun y => below n tree fuel x y)

/-- The neighbours of a rank in a tree. -/
def neighbours (n : Nat) (tree : List (Nat × Nat)) (x : Nat) : List Nat := children n tree x x

/-- The neighbour of a rank toward another. -/
def hopTo (n : Nat) (tree : List (Nat × Nat)) (me goal : Nat) : Option Nat :=
  (neighbours n tree me).find? (fun y => (below n tree n me y).contains goal)

/-! ### The chunks of a job (R326) -/

/-- Elements of chunk `c` of a block. -/
def chunkLen (bs : List Byte) (c : Nat) : Nat := min (fieldOf bs 28 4) (jobCount bs - c * fieldOf bs 28 4)

/-- Where chunk `c` of block `b` lies from an address on. -/
def chunkAddr (bs : List Byte) (at_ b c : Nat) : W64 :=
  fieldA bs at_ + BitVec.ofNat 64 (4 * (b * jobCount bs + c * fieldOf bs 28 4))

/-- Chunks of the whole job, in the numbering of R326. -/
def jobAll (bs : List Byte) : Nat :=
  match fieldOf bs 0 1 with
  | 0 | 3 => jobCb bs
  | 1 | 2 => jobNmem bs * jobCb bs
  | _ => jobNmem bs * jobNmem bs * jobCb bs

/-- Where the elements of a chunk come from: a block of one member's SRC, or a reduction of a block of every member's toward a
root. -/
inductive ChunkSrc where
  /-- Bits of a block of a member's SRC. -/
  | copy (member block : Nat)
  /-- A reduction of a block of every member's SRC toward a root. -/
  | reduce (block root : Nat)
  deriving DecidableEq, Repr

/-- The source of chunk `g` of a job with `nt` trees (R326). -/
def chunkSrc (bs : List Byte) (nt g : Nat) : ChunkSrc :=
  let cb := jobCb bs
  let n := jobNmem bs
  match fieldOf bs 0 1 with
  | 0 => .reduce 0 (g % nt % n)
  | 1 => .reduce (g / cb) (g / cb)
  | 2 => .copy (g / cb) 0
  | 3 => .copy (fieldOf bs 36 2) 0
  | _ => .copy (g / cb / n) (g / cb % n)

/-- The chunk of a member's DST, in the numbering of R292, that chunk `g` of the job gives; none where the member takes none. -/
def dstChunk (bs : List Byte) (r g : Nat) : Option Nat :=
  let cb := jobCb bs
  let n := jobNmem bs
  match fieldOf bs 0 1 with
  | 1 => if g / cb = r then some (g % cb) else none
  | 4 => if g / cb % n = r then some (g / cb / n * cb + g % cb) else none
  | _ => some g

/-- A member's record, among those held. -/
def Job.recordOf (j : Job) (r : Nat) : Option JobRecord := j.records.find? (fun x => decide (x.rank = r))

/-- A member holds the mark of what chunk `g` gives it, as its record says (R444). -/
def Job.marked (j : Job) (bs : List Byte) (r g : Nat) : Bool :=
  match dstChunk bs r g with
  | none => true
  | some d => match j.recordOf r with | some x => x.marks.contains d | none => false

/-- Another member still takes something of a chunk. -/
def Job.wanted (j : Job) (bs : List Byte) (g : Nat) : Bool :=
  (List.range (jobNmem bs)).any (fun r => decide (r ≠ jobRank bs) && !j.marked bs r g)

/-- The lowest-ranked member that holds the mark of an all-reduce chunk (R444): the others copy it from there. -/
def Job.holder (j : Job) (bs : List Byte) (g : Nat) : Option Nat :=
  if fieldOf bs 0 1 ≠ 0 then none else (List.range (jobNmem bs)).find? (fun r => j.marked bs r g)

/-- Where a chunk's elements come from under the present records: from a holder of its mark, or afresh (R326, R444). -/
def Job.src (j : Job) (bs : List Byte) (g : Nat) : ChunkSrc :=
  match j.holder bs g with
  | some r => .copy r 0
  | none => chunkSrc bs j.trees.length g

/-- The address from which this member reads its own elements of a chunk, where it contributes: in SRC, or in DST for a chunk it holds
marked. -/
def Job.ownAt (j : Job) (bs : List Byte) (g : Nat) : Option W64 :=
  let me := jobRank bs
  let c := g % jobCb bs
  match j.src bs g with
  | .copy m b => if m = me then some (if (j.holder bs g).isSome then chunkAddr bs 16 0 c else chunkAddr bs 8 b c) else none
  | .reduce b root => if j.marked bs root g ∧ fieldOf bs 0 1 = 1 then none else some (chunkAddr bs 8 b c)

/-- The tree of a chunk. -/
def Job.tree (j : Job) (g : Nat) : List (Nat × Nat) := j.trees.getD (g % j.trees.length) []

/-- The values of a chunk in the engine's buffers, by member. -/
def Job.held (j : Job) (g : Nat) : List (Nat × List W32) := (j.bufs.filter (fun x => decide (x.1 = g))).map (·.2)

/-- A member's values of a chunk, once they are in the engine's buffers. -/
def Job.valuesOf (j : Job) (bs : List Byte) (g r : Nat) : Option (List W32) :=
  ((j.held g).find? (fun x => decide (x.1 = r) && decide (x.2.length = chunkLen bs (g % jobCb bs)))).map (·.2)

/-- The partial result of a rank for a chunk, its subtree seen from a parent, once every value of it is there (R327). -/
def Job.partialOf (j : Job) (bs : List Byte) (g parent x : Nat) : Option (List W32) :=
  let n := jobNmem bs
  if (below n (j.tree g) n parent x).all (fun r => (j.valuesOf bs g r).isSome) then
    some (partialAt n (fieldOf bs 1 1) (j.tree g) (fun r => (j.valuesOf bs g r).getD []) n parent x)
  else none

/-- The final value of a chunk, once what it is made of is there. -/
def Job.value (j : Job) (bs : List Byte) (g : Nat) : Option (List W32) :=
  match j.src bs g with
  | .copy m _ => j.valuesOf bs g m
  | .reduce _ root => j.partialOf bs g root root

/-- What this member sends of a chunk as its own part (R326, R327): its partial result toward the root, or the elements it is the
source of, to the neighbours they are carried by; none before it is there. A chunk that nobody else takes, and a root, send none. -/
def Job.outward (j : Job) (bs : List Byte) (g : Nat) : Option (List Nat × Option (List W32)) :=
  let n := jobNmem bs
  let me := jobRank bs
  if !j.wanted bs g then none
  else match j.src bs g with
  | .copy m _ =>
    if m ≠ me then none
    else some (if fieldOf bs 0 1 = 4 then (hopTo n (j.tree g) me (g / jobCb bs % n)).toList else neighbours n (j.tree g) me, j.valuesOf bs g me)
  | .reduce _ root =>
    if root = me ∨ (j.ownAt bs g).isNone then none
    else match hopTo n (j.tree g) me root with
      | some p => some ([p], j.partialOf bs g p me)
      | none => none

/-- To whom this member passes on a chunk's value that it has not sent as its own part: down the tree, or along a path (R326). -/
def Job.onward (j : Job) (bs : List Byte) (g : Nat) : List Nat :=
  let n := jobNmem bs
  let me := jobRank bs
  match j.src bs g with
  | .copy m _ =>
    if m = me then []
    else if fieldOf bs 0 1 = 4 then
      (if g / jobCb bs % n = me then [] else (hopTo n (j.tree g) me (g / jobCb bs % n)).toList)
    else (neighbours n (j.tree g) me).filter (fun y => decide (some y ≠ hopTo n (j.tree g) me m))
  | .reduce _ root =>
    if fieldOf bs 0 1 ≠ 0 then [] else (neighbours n (j.tree g) me).filter (fun y => decide (root = me) || decide (some y ≠ hopTo n (j.tree g) me root))

/-- This module's port on the edge of a tree to a rank. -/
def Job.portTo (j : Job) (g y : Nat) : Option Nat :=
  (j.ports.find? (fun x => decide (x.1 = g % j.trees.length ∧ x.2.1 = y))).map (·.2.2)

/-- The job is complete on this module (R292): every chunk of DST is marked. -/
def Job.complete (j : Job) (bs : List Byte) : Bool := decide (jobChunks bs ≤ j.marks.length)

/-! ### The course of a job -/

/-- The operation of a job on this module has ended, with a failure or none. -/
def endOp (s : State) (op : Nat) (fail : Option Nat) : State :=
  let s := match fail with | some cls => s.failOp op cls noFrame noTier 0 | none => s
  { s with ops := AMap.modify s.ops op (fun (o : EngOp) => { o with done := true }) }

/-- A job on this module ends with a failure. -/
def endJob (s : State) (jid op : Nat) (fail : Option Nat) : State :=
  let s := endOp s op fail
  { s with jobs := AMap.del s.jobs jid }

/-- A job is complete on this module (R292, R328): its operation ends, and the engine goes on sending and relaying what other members
need. DESIGN CHOICE: what it sends of its own after that it reads from SRC then, and it keeps the job until its JOBID comes anew
(log 60). -/
def completeJob (s : State) (jid op : Nat) : State :=
  let s := endOp s op none
  { s with jobs := AMap.modify s.jobs jid (fun j => { j with finished := true }) }

/-- This module's ports on the edges of a tree set. -/
def portsOf (me : Nat) (trees : List (List Edge)) : List (Nat × Nat × Nat) :=
  (List.range trees.length).flatMap (fun t => (trees.getD t []).flatMap (fun e =>
    (if e.u = me then [(t, e.v, e.pu)] else []) ++ (if e.v = me then [(t, e.u, e.pv)] else [])))

/-- What other members contribute to a chunk goes into the engine's buffers, counted on the ports it came by. -/
def bufferChunk (s : State) (o : EngOp) (j : Job) (g : Nat) (contrib : List (Nat × List W32)) : State × Job :=
  let n := jobNmem o.block
  let new := contrib.filter (fun x => decide (x.1 ≠ jobRank o.block) && !(j.held g).any (fun y => decide (y.1 = x.1)))
  let hops := (new.filterMap (fun x => hopTo n (j.tree g) (jobRank o.block) x.1)).eraseDups
  let s := hops.foldl (fun s y => match j.portTo g y with | some p => s.fabTake o.part p (4 * chunkLen o.block (g % jobCb o.block)) | none => s) s
  (s, { j with bufs := j.bufs ++ new.map (fun x => (g, x.1, x.2)) })

/-- What came of a tree set's chunks before the job started on it goes into the buffers. -/
def bufferEarly (s : State) (o : EngOp) (j : Job) : State × Job :=
  j.early.foldl (fun (a : State × Job) x => bufferChunk a.1 o a.2 x.1 x.2) (s, { j with early := [] })

/-- The job starts once the member holds every record (R324): it ends with CBK as soon as one disagrees with its own (R381), with LNK
where they give no tree (R446). -/
def tryStart (s : State) (jid : Nat) : State :=
  match AMap.get? s.jobs jid with
  | none => s
  | some j =>
    match s.jobOp j with
    | none => s
    | some (op, o) =>
      let n := jobNmem o.block
      if j.started then s
      else if j.records.any (fun r => decide (sharedFields r ≠ sharedFields (ownRecord s o []))) then endJob s jid op (some clsCBK)
      else if j.records.length < n then s
      else
        let trees := buildTrees n 64 (edgesOf (memberMod o.block) n j.records)
        if trees.isEmpty then endJob s jid op (some clsLNK)
        else
          let (s, j) := bufferEarly s o
            { j with started := true, trees := trees.map (fun t => t.map (fun e => (e.u, e.v))), ports := portsOf (jobRank o.block) trees }
          let s := { s with jobs := AMap.put s.jobs jid j }
          if j.complete o.block then completeJob s jid op else s

/-- The ports that lead to members of a job. -/
def memberPorts (s : State) (o : EngOp) : List Nat :=
  let mods := (List.range (jobNmem o.block)).map (memberMod o.block)
  s.livePorts.filter (fun p => mods.contains (s.reg 0 (0x5201 + 2 * p)).toNat)

/-- A record leaves for the members this module has links to (R324), which it knows from its submission on. -/
def floodRecord (s : State) (jid : Nat) (o : EngOp) (r : JobRecord) : State :=
  (memberPorts s o).foldl (fun s p => s.fabSend o.part p 0) { s with outbox := .record jid r :: s.outbox }

/-- The member takes a record of its links and floods it; the job starts when it holds all of them (R324, R444). -/
def takeRecord (s : State) (jid : Nat) (j : Job) (o : EngOp) : State :=
  let r := { ownRecord s o j.marks with round := j.round }
  let others := j.records.filter (fun x => decide (x.rank ≠ r.rank))
  tryStart (floodRecord { s with jobs := AMap.put s.jobs jid { j with records := r :: others, seen := r :: j.seen } } jid o r) jid

/-- The member holds its own record for the present tree set. -/
def Job.ownHeld (j : Job) (o : EngOp) : Bool := j.records.any (fun r => decide (r.rank = jobRank o.block))

/-- The member holds no record of its own for the present tree set, and no write to its DST is under way: it may take one. -/
def Job.needsRecord (j : Job) (o : EngOp) : Bool := !j.started && j.writing.isEmpty && !j.ownHeld o

/-- A job as its records have come before its submission: none of one that is over here. -/
def Job.fresh (j : Job) : Job := if j.finished then {} else j

/-- A member's descriptor reaches its engine, or the engine has still to take a record: outside any approach window or slot
(R324, R444). The records that came before the submission are forwarded with the member's own. -/
def performColl (s : State) (id : Nat) (o : EngOp) (jid : Nat) : State :=
  let j := AMap.getD s.jobs jid {}
  if j.fresh.op.isNone then
    let j := j.fresh
    let s := j.seen.foldl (fun s r => floodRecord s jid o r) s
    takeRecord s jid
      { j with op := some id, desc := some o, records := j.records.filter (fun r => decide (r.rank ≠ jobRank o.block)), since := s.gt } o
  else if decide (j.op = some id) && j.needsRecord o then takeRecord s jid j o
  else s

/-- A job's tree set has lost an edge, or another member's record says so: it begins again from new records, what its buffers hold is
discarded with what came early, and its own record is taken once the writes under way to its DST are complete and marked (R444). -/
def restartJob (s : State) (jid round : Nat) (others : List JobRecord) : State :=
  match AMap.get? s.jobs jid with
  | none => s
  | some j =>
    let j := { j with records := others, trees := [], ports := [], bufs := [], early := [], sent := [], passed := [], started := false, round }
    { s with jobs := AMap.put s.jobs jid j }

/-- The record of a member comes by a port (R321): one that leads to a member, as far as this module knows them, chosen outside. -/
def countRecord (s : State) (o : Option EngOp) : State :=
  let ports := match o with | some o => memberPorts s o | none => s.livePorts
  let (s, k) := s.choose ports.length
  match ports[k]? with
  | some p => s.fabTake (o.bind EngOp.part) p 0
  | none => s

/-- The job that a record belongs to: one of the first tree set, where the job of its JOBID is over here, begins a new job (log 60). -/
def jobFor (j : Job) (r : JobRecord) : Job := if r.round = 0 then j.fresh else j

/-- A member receives a record, forwards one it has not seen, and starts the job when it holds all (R324, R444); a record of a later tree
set begins the job again. The transmitters start nothing in an approach window and are idle in a slot (R313): what arrives then waits. -/
def execCollRecordReceive (job : Nat) (r : JobRecord) (s : State) : Out :=
  .next (
    if s.clock.phase ≠ .open_ then { s with inbox := s.inbox ++ [(s.gt + 1, .collRecordReceive job r)] }
    else
      let j : Job := { jobFor (AMap.getD s.jobs job {}) r with since := s.gt }
      let o := (s.jobOp j).map (·.2)
      let s := countRecord s o
      if j.seen.contains r then { s with jobs := AMap.put s.jobs job j }
      else
        let j := { j with seen := r :: j.seen }
        let s := { s with jobs := AMap.put s.jobs job j }
        let s := match o with | some o => floodRecord s job o r | none => s
        if r.round < j.round then s
        else if j.started ∨ j.round < r.round then restartJob s job (max r.round (if j.started then j.round + 1 else 0)) [r]
        else
          let records := j.records.filter (fun x => decide (x.rank ≠ r.rank)) ++ [r]
          tryStart { s with jobs := AMap.put s.jobs job { j with records } } job)

/-! ### Chunks (R326, R328, R444) -/

/-- Words of bytes. -/
def wordsOf (bs : List EByte) : List W32 :=
  (List.range (bs.length / 4)).map (fun k => BitVec.ofNat 32 (ofBytes (((bs.drop (4 * k)).take 4).map (fun b => b.getD 0))))

/-- Set the bit of a chunk in MARKS, with an 8-byte atomic OR at the word's home (R328), which a HOST page does not provide (R265). -/
def setMark (s : State) (id : Nat) (o : EngOp) (d : Nat) : State × Piece :=
  let va := fieldA o.block 48 + BitVec.ofNat 64 (8 * (d / 64))
  let bit : List Byte := toBytes (2 ^ (d % 64)) 8
  match judgePiece s o.asid.toNat (.atomic false) va 8 with
  | (s, .dev pa n) =>
    match memPerform s pa .atomic 8 bit 4 2 with
    | .ok (s, _) => (s, .dev pa n)
    | .error u => (noteEcc s id (some (pa / 65536, s.tierOf (pa / 65536), u)), .bad clsECC (pa / 65536) (s.tierOf (pa / 65536)) u)
  | (s, .away t va n) =>
    match engRemote s id o .atomic va 8 bit t with
    | some r => (s.sendRemote { r with aop := 4, aty := 2 }, .away t va n)
    | none => (s, .bad clsXLT noFrame noTier 0)
  | r => r

/-- A chunk of a job ends the job with a failure, or waits for a missing page. -/
def chunkStopped (s : State) (jid id : Nat) (p : EngRd) : State :=
  match p with
  | .fail c f t u =>
    let s := s.failOp id c f t u (checkKind c)
    let s := if c = clsECC then noteEcc s id (some (f, t, u)) else s
    endJob s jid id none
  | .gone k va => engMissing s id k va
  | _ => s

/-- The mark of a chunk of DST whose elements are all written; while the page of the mark is missing the chunk stays to be marked. -/
def markChunk (s : State) (jid id : Nat) (o : EngOp) (j : Job) (d : Nat) : State :=
  match setMark s id o d with
  | (s, .bad c f t u) => chunkStopped s jid id (.fail c f t u)
  | (s, .gone k va) => chunkStopped s jid id (.gone k va)
  | (s, _) =>
    let j := { j with marks := d :: j.marks, writing := j.writing.filter (fun x => decide (x ≠ d)), since := s.gt }
    let s := { s with jobs := AMap.put s.jobs jid j }
    if j.complete o.block then completeJob s jid id else s

/-- Send elements of a chunk to ranks, each over this module's port on the tree's edge to it. -/
def sendChunk (s : State) (jid : Nat) (o : EngOp) (j : Job) (g : Nat) (ranks : List Nat) (x : List W32) : State :=
  ranks.foldl (fun s y =>
    match j.portTo g y with
    | some p => { s with outbox := .chunk jid g p x :: s.outbox }.fabSend o.part p (4 * x.length)
    | none => s) s

/-- A chunk is done with here: what the buffers hold of it goes. -/
def Job.dropBufs (j : Job) (g : Nat) : Job := { j with bufs := j.bufs.filter (fun x => decide (x.1 ≠ g)) }

/-- Write the final value of a chunk into DST once it is there, then set its mark, at once or when the host and peers have
acknowledged the writes (R328). -/
def writeChunk (s : State) (jid id : Nat) (o : EngOp) (j : Job) (g d : Nat) (x : List W32) : State :=
  let bs := o.block
  let (s, ps) := judgeSide s o .blockStore (false, chunkAddr bs 16 (d / jobCb bs) (d % jobCb bs)) (4 * x.length)
  match firstBad ps with
  | some (c, f, t, u) => chunkStopped s jid id (.fail c f t u)
  | none =>
    match gonePages ps with
    | k :: ks => (k :: ks).foldl (fun s k => engMissing s id k.1 k.2) s
    | [] =>
      let s := writePieces id o ps ((x.flatMap (fun w => toBytes w.toNat 4)).map some) s
      let j := { j.dropBufs g with writing := d :: j.writing }
      let s := { s with jobs := AMap.put s.jobs jid j }
      if s.engBusy id then s else markChunk s jid id o j d

/-- This module's part of a chunk goes out, and its value is passed on, also where it is marked here, and written, as far as the values
are there. -/
def pushChunk (s : State) (jid id : Nat) (o : EngOp) (j : Job) (g : Nat) : State :=
  let bs := o.block
  let (s, j) : State × Job :=
    if j.sent.contains g then (s, j)
    else match j.outward bs g with
      | some (ys, some x) =>
        let j' := { j with sent := g :: j.sent }
        (sendChunk s jid o j g ys x, if (dstChunk bs (jobRank bs) g).isNone then j'.dropBufs g else j')
      | _ => (s, j)
  match j.value bs g with
  | none => { s with jobs := AMap.put s.jobs jid j }
  | some x =>
    let (s, j) : State × Job :=
      if j.passed.contains g then (s, j) else (sendChunk s jid o j g (j.onward bs g) x, { j with passed := g :: j.passed })
    let s := { s with jobs := AMap.put s.jobs jid j }
    match (dstChunk bs (jobRank bs) g).filter (fun d => !j.marks.contains d && !j.writing.contains d) with
    | some d => writeChunk s jid id o j g d x
    | none => { s with jobs := AMap.put s.jobs jid (j.dropBufs g) }

/-- This module still needs its own elements of a chunk: for its part of it, or for its DST. -/
def Job.needsOwn (j : Job) (bs : List Byte) (g : Nat) : Bool :=
  (j.ownAt bs g).isSome && (j.valuesOf bs g (jobRank bs)).isNone &&
  (((j.outward bs g).isSome && !j.sent.contains g) ||
    (match dstChunk bs (jobRank bs) g with | some d => !j.marks.contains d && !j.writing.contains d | none => false))

/-- The engine goes on with a chunk of a job, in the numbering of R326 (R328): what other members send for it comes with the event. Its
own elements are read, its part is sent, and its DST written and marked, each as soon as it can be; a chunk whose writes are under way
is marked when they are done. What comes before the job has started waits, once the member has taken its record: before that it belongs
to a lost tree set, and is discarded (R444; DEDUCED, log 37). -/
def execCollChunkMark (job chunk : Nat) (contrib : List (Nat × List W32)) (s : State) : Out :=
  .next (
    match AMap.get? s.jobs job with
    | none => s
    | some j =>
      match s.jobOp j with
      | none => s
      | some (id, o) =>
        let bs := o.block
        match (dstChunk bs (jobRank bs) chunk).filter (fun d => j.writing.contains d) with
        | some d =>
          if s.engBusy id || !engMay s id o then s
          else if o.fail.isSome then endJob s job id none
          else markChunk (s.act .collective) job id o j d
        | none =>
          if jobAll bs ≤ chunk then s
          else if !j.started then
            (if contrib.isEmpty || !j.ownHeld o then s
             else { s with jobs := AMap.put s.jobs job { j with early := j.early ++ [(chunk, contrib)] } })
          else
            let (s, j) := bufferChunk s o j chunk contrib
            let s := { s with jobs := AMap.put s.jobs job j }
            if !engMay s id o then s
            else
              let s := s.act .collective
              match (j.ownAt bs chunk).filter (fun _ => j.needsOwn bs chunk) with
              | none => pushChunk s job id o j chunk
              | some at_ =>
                let (s, ps) := judgeSide s o .block (false, at_) (4 * chunkLen bs (chunk % jobCb bs))
                match readPieces' id o.asid.toNat ps s with
                | (s, .ok es none) =>
                  let j := { j with bufs := j.bufs ++ [(chunk, jobRank bs, wordsOf es)] }
                  pushChunk { s.fetchDone (opReader id) with jobs := AMap.put s.jobs job j } job id o j chunk
                | (s, .ok _ (some (f, t, u))) => chunkStopped (noteEcc s id (some (f, t, u))) job id (.fail clsECC f t u)
                | (s, r) => chunkStopped s job id r)

/-- The chunks of a job that this module can go on with by itself: those being written, and the first for which it has still to read its
own elements or whose value has come. -/
def ownChunks (s : State) (jid : Nat) (j : Job) : List Instr :=
  match s.jobOp j with
  | none => []
  | some (_, o) =>
    let bs := o.block
    let live (g : Nat) : Bool :=
      match dstChunk bs (jobRank bs) g with | some d => !j.marks.contains d && !j.writing.contains d | none => false
    let can (g : Nat) : Bool := j.needsOwn bs g ||
      ((live g || (!j.passed.contains g && !(j.onward bs g).isEmpty)) && (j.value bs g).isSome) ||
      (!j.sent.contains g && (match j.outward bs g with | some (_, some _) => true | _ => false))
    let under (g : Nat) : Bool := match dstChunk bs (jobRank bs) g with | some d => j.writing.contains d | none => false
    let next : List Nat := if j.started then ((List.range (jobAll bs)).find? can).toList else []
    (((List.range (jobAll bs)).filter under) ++ next).map (fun g => .collChunkMark jid g [])

/-- A member without a record or a mark for 1,024 frames ends the job with LNK (R446). -/
def execCollStallTimeout (job : Nat) (s : State) : Out :=
  .next (
    match AMap.get? s.jobs job with
    | none => s
    | some j =>
      if j.finished || decide (s.gt < j.since + 1024 * 4096) then s
      else match j.op with
        | some op => endJob s job op (some clsLNK)
        | none => { s with jobs := AMap.del s.jobs job })

/-! ### Lost links (R443) -/

/-- A job uses a port: its tree set does, or, while records gather, this member's own record lists it. -/
def Job.uses (j : Job) (p : Nat) : Bool :=
  if j.started then j.ports.any (fun x => decide (x.2.2 = p))
  else match j.desc with
    | some o => j.records.any (fun r => decide (r.rank = jobRank o.block) && r.ports.any (fun x => decide (x.port = p)))
    | none => false

/-- The jobs that use a port begin again (R444; DEDUCED: also while their records gather, since a tree set from the record would have
the lost edge; log 37). -/
def State.jobsLose (s : State) (p : Nat) : State :=
  (s.jobs.filter (fun j => j.2.uses p)).foldl (fun s j => restartJob s j.1 (j.2.round + 1) []) s

/-- A follower without a link to another module has lost every link to its reference (R443). -/
def unlockAlone (s : State) : State :=
  if s.regF 0 0x5050 0 1 = 0 ∧ s.livePorts.isEmpty then s.setRegF 0 0x5050 1 1 0 else s

/-- A port in STATE 2 is lost: the operator is told, accesses due on it fail, and jobs whose trees used it begin again. -/
def linkLost (s : State) (p : Nat) : State :=
  if s.linkState p ≠ 2 then s
  else
    let lost := s.remotes.filter (fun x => decide (x.2.port = some p))
    let s := s.setRegF 0 (0x5200 + 2 * p) 0 2 0
    let s := s.operRecord { cls := clsLNK, unit := p }
    let s := lost.foldl (fun s x => remoteFail s x.1 x.2 clsREM) s
    unlockAlone (s.jobsLose p)

/-- A port in STATE 2 fails its link retry (R443). -/
def execLinkRetryFail (port : Nat) (s : State) : Out := .next (linkLost s port)

/-! ### Retiring (R141, R276) -/

/-- An engine works on an operation, or the operation retires once everything of it is done: the oldest of its submitter and class
first. Of an operation whose job is over here the engine may have to take a new record (R444). -/
def execEngineOpComplete (op : Nat) (s : State) : Out :=
  .next (
    match AMap.get? s.ops op with
    | none =>
      match s.jobs.find? (fun j => j.2.finished && decide (j.2.op = some op)) with
      | none => s
      | some j =>
        match j.2.desc with
        | none => s
        | some o => if engMay s op o && j.2.needsRecord o then performColl (s.act .collective) op o j.1 else s
    | some o =>
      if !engFirst s op o || s.engBusy op then s
      else if o.cancelled || o.done || o.sent || (o.fail.isSome && (match o.kind with | .mat => false | _ => true)) then retireOp s op o
      else match o.kind with
        | .mat => if matDone s op then retireOp s op o else s
        | .coll jid => if engMay s op o then performColl (s.act .collective) op o jid else s
        | _ => if engMay s op o then engWork s op o else s)

end Sys2Proof.Machine
end

