-- ==== Sys2Proof/Machine/Convert.lean ====
section
/-! DEFINITION. Conversion, packing, block scales, tags and format registers (R218–R226). -/

namespace Sys2Proof.Machine

/-- The random word for an element of a lane at the issuing group's generator (R107); lane 0 in uniform form. -/
def View.rng (v : View) (h : Head) (l e : Nat) : Nat := rngWord v.g.rngseed v.g.rngctr (if h.u then 0 else l) e

/-- CTR advances once for an instruction with rs that has an execution (R108). -/
def bumpCtr (v : View) (h : Head) (r : Nat) (s : State) : State :=
  if r = 4 ∧ (v.units h).isEmpty = false then s.modGroup v.handle v.gi (fun g => { g with rngctr := g.rngctr + 1 }) else s

/-- The value of a `cvt` source of a type code in a register field (R218): element `el` of a packed source. -/
def cvtVal (v : View) (h : Head) (t : Nat) (fs : Bool) (x : BitVec 8) (l el : Nat) : FV :=
  match t with
  | 0 => .ofInt (v.src h fs x l).toInt
  | 1 => .ofInt (v.src h fs x l).toNat
  | 2 => .ofInt (v.src64 h fs x l).toInt
  | 3 => .ofInt (v.src64 h fs x l).toNat
  | 4 => F32.decode (v.src h fs x l).toNat
  | 5 => F16.decode (elemOf 1 el (v.src h fs x l))
  | 6 => BF16.decode (elemOf 2 el (v.src h fs x l))
  | _ =>
    let p := v.src64 h fs x l
    F48.decode ((lo32 p).toNat * 65536 + (hi32 p).toNat / 65536)

/-- The tag check of a `cvt` source (R218). -/
def cvtTag (v : View) (h : Head) (t : Nat) (fs : Bool) (x : BitVec 8) (l : Nat) : Bool :=
  match t with
  | 4 => v.tagOk h fs x.toNat tagF32 l
  | 5 => v.tagOk h fs x.toNat 2 l
  | 6 => v.tagOk h fs x.toNat 3 l
  | 7 => v.tagOk h fs x.toNat tagF48H l && v.tagOk h fs (x.toNat + 1) tagF48L l
  | _ => true

/-- Write a `cvt` result (R218, R219): from the value of element 0 and, for packed results, element 1. -/
def cvtPut (h : Head) (o : F3) (l : Nat) (rb : Nat → Nat) (a b : FV) (r : Regs) : Regs :=
  let d := o.dst.toNat
  let m := rnd o
  match dty o with
  | 0 => putReg h.u d l tagI32 (BitVec.ofInt 32 (a.toRange m (-(2 ^ 31)) (2 ^ 31 - 1))) r
  | 1 => putReg h.u d l tagI32 (BitVec.ofInt 32 (a.toRange m 0 (2 ^ 32 - 1))) r
  | 2 => putPair h.u d l tagI32 (BitVec.ofInt 64 (a.toRange m (-(2 ^ 63)) (2 ^ 63 - 1))) r
  | 3 => putPair h.u d l tagI32 (BitVec.ofInt 64 (a.toRange m 0 (2 ^ 64 - 1))) r
  | 4 => putReg h.u d l tagF32 (BitVec.ofNat 32 (F32.round m a 0)) r
  | 5 => putReg h.u d l 2 (packElems 1 (fun e => F16.round m (if e = 0 then a else b) (rb e))) r
  | 6 => putReg h.u d l 3 (packElems 2 (fun e => BF16.round m (if e = 0 then a else b) (rb e))) r
  | _ =>
    let x := F48.round 0 a 0
    putReg h.u (d + 1) l tagF48L (BitVec.ofNat 32 (x % 65536 * 65536))
      (putReg h.u d l tagF48H (BitVec.ofNat 32 (x / 65536)) r)

/-- `cvt` (R218, R219). -/
def execCvt (h : Head) (o : F3) (s : State) : Out :=
  issue (.cvt h o) h.s .all noRight (fun s v =>
    let two := cvtPacks (sty o) (dty o)
    let ok (l : Nat) : Bool :=
      cvtTag v h (sty o) (bit o.mod 13) o.sa l && (!two || cvtTag v h (sty o) (bit o.mod 14) o.sb l)
    let bad := (v.units h).filter (fun l => !ok l)
    if !bad.isEmpty then .raise { cls := clsTAG, lanes := v.failMask h bad } s
    else .ok (bumpCtr v h (rnd o) (v.put s (v.forUnits h (fun l r =>
      let a := cvtVal v h (sty o) (bit o.mod 13) o.sa l (b2n (bit o.mod 8))
      let b := if two then cvtVal v h (sty o) (bit o.mod 14) o.sb l 0 else cvtVal v h (sty o) (bit o.mod 13) o.sa l 1
      cvtPut h o l (v.rng h l) a b r))))) s

/-- The format register an F3 word names in SC, at run start (R220). -/
def fmOfSc (v : View) (o : F3) : W32 := v.fm o.sc.toNat

/-- Steps 4 and 5 of `npk` and `nunpk` (R376, R377): the consecutive registers from `x` reach past the file; the format
register is not valid; a source lacks its tag. Answers the fault. -/
def packCheck (v : View) (h : Head) (f : W32) (x : Nat) (srcOk : Nat → Bool) : Option Req :=
  let us := v.units h
  if us.isEmpty then none
  else if nfValid f && decide ((if h.u then 64 else v.regs) < x + nfCount f) then some { cls := clsENC, lanes := v.failMask h us }
  else if !nfValid f then some { cls := clsTAG, lanes := v.failMask h us }
  else
    let bad := us.filter (fun l => !srcOk l)
    if bad.isEmpty then none else some { cls := clsTAG, lanes := v.failMask h bad }

/-- The block scale code of `npk` and `nunpk`: read only under SCM 2 (R220). -/
def scaleCode (v : View) (h : Head) (o : F3) (f : W32) (l : Nat) : Nat :=
  if nfScm f = 2 then fldN (v.src h (bit o.mod 14) o.sb l) 0 8 else 127

/-- `npk` (R220). -/
def execNpk (h : Head) (o : F3) (s : State) : Out :=
  issue (.npk h o) h.s .all noRight (fun s v =>
    let f := fmOfSc v o
    let n := nfCount f
    match packCheck v h f o.sa.toNat (fun l => (List.range n).all (fun i => v.tagOk h false (o.sa.toNat + i) tagF32 l)) with
    | some q => .raise q s
    | none => .ok (bumpCtr v h (rnd o) (v.put s (v.forUnits h (fun l r =>
        let x := scaleCode v h o f l
        let code (i : Nat) : Nat :=
          nfEncode f (rnd o) x (F32.decode (v.src h false (o.sa + BitVec.ofNat 8 i) l).toNat) (v.rng h l i)
        putReg h.u o.dst.toNat l (BitVec.ofNat 4 (4 + o.sc.toNat)) (nfPack f ((List.range n).map code)) r))))) s

/-- `nunpk` (R221). -/
def execNunpk (h : Head) (o : F3) (s : State) : Out :=
  issue (.nunpk h o) h.s .all noRight (fun s v =>
    let f := fmOfSc v o
    match packCheck v h f o.dst.toNat (fun l => v.tagOk h false o.sa.toNat (BitVec.ofNat 4 (4 + o.sc.toNat)) l) with
    | some q => .raise q s
    | none => .ok (v.put s (v.forUnits h (fun l r =>
        let x := scaleCode v h o f l
        putRegs h.u o.dst.toNat l tagF32 ((List.range (nfCount f)).map (fun i =>
          BitVec.ofNat 32 (F32.round 0 (nfDecode f x (nfElem f (v.src h false o.sa l).toNat i)) 0))) r)))) s

/-- `scl` (R222). -/
def execScl (h : Head) (o : F3) (s : State) : Out :=
  issue (.scl h o) h.s .all noRight (fun s v =>
    let bad := (v.units h).filter (fun l => !v.tagOk h (bit o.mod 13) o.sa.toNat (tagTy (ty o)) l)
    if !bad.isEmpty then .raise { cls := clsTAG, lanes := v.failMask h bad } s
    else .ok (bumpCtr v h (rnd o) (v.put s (v.forUnits h (fun l r =>
      let x := fldN (v.src h (bit o.mod 14) o.sb l) 0 8
      let k : Int := if bit o.mod 0 then 127 - x else x - 127
      let f := tyFmt (ty o)
      putReg h.u o.dst.toNat l (tagTy (ty o)) (packElems (ty o) (fun e =>
        if x = 0xFF then f.nanBits
        else f.round (rnd o) ((f.decode (elemOf (ty o) e (v.src h (bit o.mod 13) o.sa l))).scale k) (v.rng h l e))) r))))) s

/-- Lanes of a span (R223). -/
def spanSize (k : Nat) : Nat := if k = 0 then 32 else if k = 1 then 8 else 4

/-- The shared scale code of a span's values (R223). -/
def spanCode (f : W32) (xs : List FV) : Nat :=
  if xs.any (fun x => match x with | .fin _ _ _ => false | _ => true) then 0xFF
  else
    let top : Option Int := xs.foldl (fun acc x =>
      match x with
      | .fin _ m e => if m = 0 then acc else
          let k : Int := bitLen m - 1 + e
          match acc with | some t => some (max t k) | none => some k
      | _ => acc) none
    match top with
    | none => 127
    | some t => (max 0 (min 254 (t - nfEmax f - nfTscale f + 127))).toNat

/-- `sclx` (R203, R223). -/
def execSclx (h : Head) (o : F3) (s : State) : Out :=
  issue (.sclx h o) h.s .all noRight (fun s v =>
    let f := fmOfSc v o
    let c := v.units h
    let bad := c.filter (fun l => !v.tagOk h false o.sa.toNat tagF32 l)
    if !c.isEmpty && !nfValid f then .raise { cls := clsTAG, lanes := v.failMask h c } s
    else if !bad.isEmpty then .raise { cls := clsTAG, lanes := v.failMask h bad } s
    else
      let n := spanSize (fldN o.mod 4 2)
      .ok (v.put s (v.forUnits h (fun l r =>
        let xs := (c.filter (fun j => j / n = l / n)).map (fun j => F32.decode (v.g.base.vec o.sa.toNat j).bits.toNat)
        putReg h.u o.dst.toNat l tagI32 (BitVec.ofNat 32 (spanCode f xs)) r)))) s

/-- `tag` (R224). -/
def execTag (h : Head) (o : F3) (s : State) : Out :=
  alu (.tag h o) h (fun v l => putReg h.u o.dst.toNat l (fld o.mod 0 4) (v.src h (bit o.mod 13) o.sa l)) s

/-- `tagr` (R225): a lane whose value is 14 or 15 raises TAG (R377). -/
def execTagr (h : Head) (o : F3) (s : State) : Out :=
  aluTagged (.tagr h o) h (fun v l => decide (fldN (v.src h (bit o.mod 14) o.sb l) 0 4 ≤ 13))
    (fun v l => putReg h.u o.dst.toNat l (fld (v.src h (bit o.mod 14) o.sb l) 0 4) (v.src h (bit o.mod 13) o.sa l)) s

/-- `fmset` (R226): a result of the run (R79). -/
def execFmset (h : Head) (o : FI) (s : State) : Out :=
  alu (.fmset h o) h (fun _ _ r => { r with fm := AMap.put r.fm o.dst.toNat o.imm }) s

end Sys2Proof.Machine
end

