-- ==== Sys2Proof/Machine/Errors.lean ====
section
/-! DEFINITION. Uncorrectable errors of shared structures and their recovery, and CXL ports (R367, R368, R420, R421). -/

namespace Sys2Proof.Machine

/-- A group is killed by an uncorrectable error, with a record of its own (R368), also when its lanes have all exited. -/
def eccKill (ukind unit : Nat) (s : State) (x : Nat × Nat × W32) : State :=
  match s.group? x.1 x.2.1 with
  | none => s
  | some g =>
    let s := (s.record
      { s.recOf x.1 x.2.1 clsECC with kill := true, blast := true, lanes := x.2.2, unit, ukind }
      (g.ownerTo ((AMap.get? s.blocks x.1).bind Block.part?))).1
    if g.exited = allLanes then s else killGroup s x.1 x.2.1

/-- The operations in an engine's queue: of the matrix engine of a cluster, those with requests in its reservation table, a copy engine, or
the Dwelvauf engine. -/
def queueOps (s : State) (ukind unit : Nat) : List (Nat × EngOp) :=
  s.ops.filter (fun o =>
    match o.2.kind with
    | .mat => decide (ukind = 4) && (s.cluster unit).reqs.any (fun r => decide (r.op = o.1))
    | .tmld _ => decide (ukind = 4) && decide (o.2.cluster = unit)
    | .coll _ => decide (ukind = 6)
    | _ => decide (ukind = 5) && decide (o.2.copyEngine = unit))

/-- Operations are cancelled: nothing of them is performed, and they retire (R368). -/
def cancelQueue (s : State) (ids : List Nat) : State :=
  { s with
    ops := s.ops.map (fun (o : Nat × EngOp) => if ids.contains o.1 then (o.1, { o.2 with cancelled := true, waits := [] }) else o)
    clusters := s.clusters.map (fun (c : Nat × Cluster) => (c.1, { c.2 with reqs := c.2.reqs.filter (fun r => !ids.contains r.op) }))
    blocks := s.blocks.map (fun (b : Nat × Block) => (b.1, { b.2 with conts := b.2.conts.filter (fun r => !ids.contains r.op) }))
    jobs := s.jobs.filter (fun j => j.2.finished || (match j.2.op with | some o => !ids.contains o | none => true)) }

/-- The groups that have submitted operations. -/
def submitters (os : List (Nat × EngOp)) : List (Nat × Nat × W32) :=
  os.foldl (fun acc o => match o.2.owner with
    | .group h gi _ => if acc.any (fun x => decide (x.1 = h ∧ x.2.1 = gi)) then acc else acc ++ [(h, gi, 0)]
    | .cmd _ => acc) []

/-- An access of a group is in a crossbar buffer: one at the host or a peer, or one whose run awaits its result. Which buffer holds which
access, the event says, and the state bears it out (DESIGN CHOICE: the spec lays no paths through the crossbar; log 40). -/
def inCrossbar (s : State) (x : Nat × Nat × W32) : Bool :=
  !(s.remotesOf x.1 x.2.1).isEmpty ||
  (match s.group? x.1 x.2.1 with | some g => g.longRun && (g.inRun || g.ending) && decide (g.exited ≠ allLanes) | none => false)

/-- A transfer through a crossbar buffer: an access of a group that the event names, or one of an engine or of the hardware's own for an
owner that it names. -/
def inBlast (x : BlastSet) (r : Remote) : Bool :=
  if r.handle = noHandle then (match asidPart r.asid.toNat with | some p => x.parts.contains p | none => x.oper)
  else x.groups.any (fun g => decide (g.1 = r.handle ∧ g.2.1 = r.gi))

/-- The transfers of killed groups through a crossbar buffer are lost. -/
def loseTransfers (s : State) (gs : List (Nat × Nat × W32)) : State :=
  (s.remotes.filter (fun r => gs.any (fun x => decide (x.1 = r.2.handle ∧ x.2.1 = r.2.gi)))).foldl (fun (s : State) r =>
    { s with
      remotes := AMap.del s.remotes r.1
      host := { s.host with inv := s.host.inv.map (fun (v : AtsInv) => { v with uses := v.uses.filter (fun x => decide (x ≠ r.1)) }) } }) s

/-- The owners of the entries that a shared structure holds (R367): the partitions, or none for the operator's own. -/
def blastOwners (s : State) (ukind unit : Nat) (x : BlastSet) : List (Option Nat) :=
  match ukind with
  | 1 => (s.core unit).tlb.map (fun e => asidPart e.asid)
  | 2 => (s.core unit).cbc.map (fun l => asidPart l.asid)
  | 3 =>
    (x.groups.filter (inCrossbar s)).map (fun g => (AMap.get? s.blocks g.1).bind Block.part?) ++
    (s.remotes.filter (fun r => inBlast x r.2)).map (fun r => asidPart r.2.asid.toNat)
  | _ => (queueOps s ukind unit).map (fun o => o.2.part)

/-- Recovery from an error in a shared structure (R368); a line of memory (UKIND 7), of L2 data (8) or of a scratchpad (9) holds the
error until an access meets it (R420), and a line that a CXL expander cannot return sets POISON (R421). The answer to a transfer that is
lost does not come (DESIGN CHOICE: what asked for it ends by its timeout; log 40). -/
def blastRecover (s : State) (ukind unit : Nat) (x : BlastSet) : State :=
  match ukind with
  | 1 => s.setCore unit { s.core unit with tlb := [] }
  | 2 => s.setCore unit { s.core unit with cbc := [] }
  | 3 =>
    let gs := x.groups.filter (inCrossbar s)
    let lose (r : Remote) : Remote := if inBlast x r && decide (r.handle = noHandle) then { r with lost := true } else r
    let s := loseTransfers (gs.foldl (eccKill ukind unit) s) gs
    { s with remotes := s.remotes.map (fun (r : Nat × Remote) => (r.1, lose r.2)) }
  | 7 =>
    let s := match locPort (s.locOf (unit / 512)) with | some p => s.setRegF 0 (0x50B0 + p) 2 1 1 | none => s
    { s with badLines := unit :: s.badLines.filter (fun l => decide (l ≠ unit)) }
  | 8 => { s with l2Bad := unit :: s.l2Bad.filter (fun l => decide (l ≠ unit)) }
  | 9 =>
    let c := s.core (unit / 2048)
    s.setCore (unit / 2048) { c with spBad := unit % 2048 :: c.spBad.filter (fun l => decide (l ≠ unit % 2048)) }
  | _ =>
    let os := queueOps s ukind unit
    (submitters os).foldl (eccKill ukind unit) (cancelQueue s (os.map (·.1)))

/-- The reports to a blast set: one record for each partition in it, in ascending number, and one for the operator (R367). -/
def blastReport (s : State) (ukind unit : Nat) (os : List (Option Nat)) : State :=
  let s := ((List.range Config.partitions).filter (fun p => os.contains (some p))).foldl (fun s p =>
    (s.record { cls := clsECC, blast := true, part := some p, unit, ukind } .queue).1) s
  if os.contains none then s.operRecord { cls := clsECC, blast := true, unit, ukind } else s

/-- An uncorrectable error in a shared structure is reported to its blast set, and the structure recovers (R367, R368). -/
def execBlastError (ukind unit : Nat) (x : BlastSet) (s : State) : Out :=
  .next (
    let t := if 1 ≤ ukind ∧ ukind ≤ 6 then blastReport s ukind unit (blastOwners s ukind unit x) else s
    blastRecover t ukind unit x)

/-! ### CXL ports (R421) -/

/-- A CXL port is lost: the operator is told, and moves on it end. -/
def cxlLost (s : State) (p : Nat) : State :=
  let s := (s.setRegF 0 (0x50B0 + p) 0 2 0).operRecord { cls := clsECC, unit := 16 + p, ukind := 7 }
  let on (m : Move) : Bool := decide (locPort (s.locOf m.frame) = some p) || decide (locPort m.dest = some p)
  ((s.moves.filter on).foldl moveDo s).retryFrames

/-- A CXL port is lost (R421). -/
def execCxlPortLoss (port : Nat) (s : State) : Out :=
  .next (if port < 8 ∧ (s.regF 0 (0x50B0 + port) 0 2 = 1 ∨ s.regF 0 (0x50B0 + port) 0 2 = 2) then cxlLost s port else s)

/-- The training of a CXL port ends (R421): the expander attached before serves its frames again; another, or none, leaves the port
lost, its frames unreachable until module reset. -/
def execCxlTrainingComplete (port : Nat) (serial : Option Nat) (s : State) : Out :=
  .next (
    if 8 ≤ port ∨ s.regF 0 (0x50B0 + port) 0 2 ≠ 1 then s
    else if serial = some (Config.bootValue (0x20000 + port)).toNat ∧ !s.cxlGone.contains port then s.setRegF 0 (0x50B0 + port) 0 2 2
    else cxlLost { s with cxlGone := port :: s.cxlGone.filter (fun p => decide (p ≠ port)) } port)

/-- The scrubber zeroes the next line of a frame (R415). -/
def execScrubLine (frame : Nat) (s : State) : Out :=
  .next (
    if (AMap.get? s.frontiers frame).isNone then s
    else
      let s := s.scrubOne frame
      if (AMap.get? s.frontiers frame).isNone then s.retryFrames else s)

end Sys2Proof.Machine
end

