-- ==== Sys2Proof/Machine/Lane.lean ====
section
/-! DEFINITION. Coordinates, and the instructions that move values between lanes (R202–R206). -/

namespace Sys2Proof.Machine

/-- The value `idx` reads for a selector in a lane (R51, R202); 0 for the launch values outside a launch. -/
def idxSel (s : State) (v : View) (sel lane : Nat) : Nat :=
  let l : Option Launch := v.b.launch.bind (fun k => AMap.get? s.launches k)
  let of (f : Launch → Nat) : Nat := (l.map f).getD 0
  match sel with
  | 0 => lane
  | 1 => if l.isSome then v.gi else 0
  | 2 => of (fun l => v.b.lidx / l.stages % l.gx)
  | 3 => of (fun l => v.b.lidx / l.stages / l.gx % l.gy)
  | 4 => of (fun l => v.b.lidx / l.stages / (l.gx * l.gy))
  | 5 => of (·.gx)
  | 6 => of (·.gy)
  | 7 => of (·.gz)
  | 8 => of (fun l => v.b.lidx % l.stages)
  | 9 => of (·.stages)
  | 10 => of (·.groups)
  | 11 => v.core / 96
  | 12 => v.core / 4
  | 13 => v.core
  | 14 => (s.clusterPart (v.core / 4)).getD 0xFFFFFFFF
  | _ => of (fun _ => v.b.lidx)

/-- `idx` (R202): placement is that at issue. -/
def execIdx (h : Head) (o : F3) (s : State) : Out :=
  issue (.idx h o) h.s .all noRight (fun s v =>
    .ok (v.put s (v.forUnits h (fun l => putReg h.u o.dst.toNat l tagI32 (BitVec.ofNat 32 (idxSel s v (sel o) l)))))) s

/-- `vote` (R203, R204): over the contributing lanes; the destination is written even when there are none. -/
def execVote (h : Head) (o : F3) (s : State) : Out :=
  issue (.vote h o) h.s .all noRight (fun s v =>
    let c := lanesOf (v.lanes h)
    let p (i : Nat) : Bool := v.g.base.pred o.sa.toNat i != bit o.mod 3
    .ok (v.put s (match sel o with
      | 0 => v.g.live.setUpred o.dst.toNat (c.any p)
      | 1 => v.g.live.setUpred o.dst.toNat (c.all p)
      | _ => v.g.live.setUni o.dst.toNat (maskOf (fun i => c.contains i && p i))))) s

/-- The lane `shfl` reads for lane `i` (R205): an integer that may lie outside 0–31. -/
def shflLane (sel i n : Nat) : Int :=
  match sel with
  | 0 => n
  | 1 => i - n
  | 2 => i + n
  | _ => (i ^^^ n : Nat)

/-- `shfl` (R203, R205): every lane of the slot's mask is a source, whatever its guard. -/
def execShfl (h : Head) (o : F3) (s : State) : Out :=
  alu (.shfl h o) h (fun v i =>
    let j := shflLane (sel o) i (v.src h (bit o.mod 14) o.sb i).toNat
    let src := if 0 ≤ j ∧ j ≤ 31 ∧ bit v.mask j.toNat then j.toNat else i
    putReg false o.dst.toNat i tagI32 (v.g.base.vec o.sa.toNat src).bits) s

/-- The reductions of `vred`: operation and empty value (R206). -/
def vredVal (sel : Nat) (uns : Bool) (xs : List W32) : W32 :=
  match sel with
  | 0 => xs.foldl (· + ·) 0
  | 1 => xs.foldl (fun a b => if uns then (if a.toNat ≤ b.toNat then a else b) else (if a.toInt ≤ b.toInt then a else b))
          (if uns then 0xFFFFFFFF#32 else 0x7FFFFFFF#32)
  | 2 => xs.foldl (fun a b => if uns then (if b.toNat ≤ a.toNat then a else b) else (if b.toInt ≤ a.toInt then a else b))
          (if uns then 0 else 0x80000000#32)
  | 3 => xs.foldl (· &&& ·) 0xFFFFFFFF#32
  | _ => xs.foldl (· ||| ·) 0

/-- `vred` (R203, R206): over the contributing lanes, into a uniform register. -/
def execVred (h : Head) (o : F3) (s : State) : Out :=
  issue (.vred h o) h.s .all noRight (fun s v =>
    .ok (v.put s (v.g.live.setUni o.dst.toNat
      (vredVal (sel o) (bit o.mod 2) ((lanesOf (v.lanes h)).map (fun i => (v.g.base.vec o.sa.toNat i).bits)))))) s

end Sys2Proof.Machine
end

