-- ==== Sys2Proof/Machine/Pair.lean ====
section
/-! DEFINITION. The pair word: two halves that issue together (R183–R187). -/

namespace Sys2Proof.Machine

/-- The form and guard of a half, as those of a word of its own. -/
def headOf (a : Half) : Head := { s := false, u := a.u, g := a.g, n := a.n }

/-- A half's SRC in a lane: a shift count, or a register of the file M4[3] selects (R183, R184). -/
def halfSrc (v : View) (a : Half) (l : Nat) : W32 :=
  if a.shiftImm then a.src.zeroExtend 32 else v.src (headOf a) (bit a.m4 3) a.src l
/-- A half's DST as a source (R184). -/
def halfDst (v : View) (a : Half) (l : Nat) : W32 := v.src (headOf a) false a.dst l

/-- The half is a floating-point operation (R184). -/
def halfIsFloat (a : Half) : Bool := decide (0x10 ≤ a.code ∧ a.code ≤ 0x13)

/-- The type code of a `cvt` half's source: s32, u32, F32, F32, F16, BF16 (R184, R218). -/
def halfCvtSrc (k : Nat) : Nat := [0, 1, 4, 4, 5, 6].getD k 0

/-- The tags of a half's sources pass the check of its full equivalent (R184, R208, R218). -/
def halfTags (v : View) (a : Half) (l : Nat) : Bool :=
  let h := headOf a
  if halfIsFloat a then
    v.tagOk h false a.dst.toNat (tagTy a.kind) l && v.tagOk h (bit a.m4 3) a.src.toNat (tagTy a.kind) l
  else if a.code = 0x18 then cvtTag v h (halfCvtSrc a.kind) (bit a.m4 3) a.src l
  else true

/-- A floating-point half on one element of its operands (R184, R211, R212). -/
def halfFloat (t code x y : Nat) : Nat :=
  let f := tyFmt t
  match code with
  | 0x10 => f.round 0 ((f.decode x).add 0 (f.decode y)) 0
  | 0x11 => f.round 0 ((f.decode x).mul (f.decode y)) 0
  | 0x12 => minMaxBits f false x y
  | _ => minMaxBits f true x y

/-- A `cvt` half (R184, R218): integers round toward zero, F32 to nearest. -/
def halfCvt (v : View) (a : Half) (l : Nat) : W32 :=
  let x := cvtVal v (headOf a) (halfCvtSrc a.kind) (bit a.m4 3) a.src l 0
  match a.kind with
  | 2 => BitVec.ofInt 32 (x.toRange 1 (-(2 ^ 31)) (2 ^ 31 - 1))
  | 3 => BitVec.ofInt 32 (x.toRange 1 0 (2 ^ 32 - 1))
  | _ => BitVec.ofNat 32 (F32.round 0 x 0)

/-- The value and tag a half that reaches no memory writes to its DST (R184). -/
def halfVal (v : View) (a : Half) (l : Nat) : BitVec 4 × W32 :=
  let d := halfDst v a l
  let x := halfSrc v a l
  match a.code with
  | 0x00 => (tagI32, x)
  | 0x01 => (tagI32, d + x)
  | 0x02 => (tagI32, d - x)
  | 0x03 => (tagI32, d &&& x)
  | 0x04 => (tagI32, d ||| x)
  | 0x05 => (tagI32, d ^^^ x)
  | 0x06 | 0x09 => (tagI32, shlVal d x)
  | 0x07 | 0x0A => (tagI32, shrVal d x)
  | 0x08 | 0x0B => (tagI32, sarVal d x)
  | 0x0C => (tagI32, lo32 (minVal false (decide (a.kind = 1)) (d.zeroExtend 64) (x.zeroExtend 64)))
  | 0x0D => (tagI32, lo32 (maxVal false (decide (a.kind = 1)) (d.zeroExtend 64) (x.zeroExtend 64)))
  | 0x18 => (if a.kind = 2 ∨ a.kind = 3 then tagI32 else tagF32, halfCvt v a l)
  | c => (tagTy a.kind, packElems a.kind (fun e => halfFloat a.kind c (elemOf a.kind e d) (elemOf a.kind e x)))

/-- The results of a half that reaches no memory, over its executions. -/
def halfPut (v : View) (a : Half) (r : Regs) : Regs :=
  if a.isMem then r
  else (v.units (headOf a)).foldl (fun r l => putReg a.u a.dst.toNat l (halfVal v a l).1 (halfVal v a l).2 r) r

/-- The scratchpad access of a half (R184, R262). -/
def halfMem (v : View) (a : Half) : MemOp :=
  let w := 2 ^ a.kind
  let load := decide (a.code = 0x20)
  { kind := if load then .load else .store, acc := if load then .load else .store, w, wid := a.kind,
    data := fun l => (toBytes (halfSrc v a l).toNat 4).take w, dst := if load then some a.dst.toNat else none, tag := tagI32,
    aop := 0, aty := 0, u := a.u, rel := false, acq := false }

/-- The executions of a memory half with their block offsets: SRC of `lds`, DST of `sts`, one 32-bit register. -/
def halfAddrs (v : View) (a : Half) : List (Nat × W64) :=
  (v.units (headOf a)).map (fun l => (l, (if a.code = 0x20 then halfSrc v a l else halfDst v a l).zeroExtend 64))

/-- The executions of a half whose sources fail their tag check. -/
def halfBad (v : View) (a : Half) : List Nat := (v.units (headOf a)).filter (fun l => !halfTags v a l)

/-- A pair word (R187, R371): each step of the checks judges half A, then half B, and a word that fails has no effect. -/
def execPairWord (e : Bool) (a b : Half) (s : State) : Out :=
  issue (.pairWord e a b) e (if a.isMem || b.isMem then .notAud else .all) noRight (fun s v =>
    if !(halfBad v a).isEmpty then .raise { cls := clsTAG, lanes := v.failMask (headOf a) (halfBad v a) } s
    else if !(halfBad v b).isEmpty then .raise { cls := clsTAG, lanes := v.failMask (headOf b) (halfBad v b) } s
    else
      let done (s : State) : Res :=
        .ok (s.modGroup v.handle v.gi (fun g => { g with live := halfPut v b (halfPut v a g.live) }))
      let mem (m : Half) : Res :=
        match spAccess s v (halfMem v m) (halfAddrs v m) with
        | .ok s => done s
        | r => r
      if a.isMem then mem a else if b.isMem then mem b else done s) s

end Sys2Proof.Machine
end

