-- ==== Sys2Proof/Decode.lean ====
section
/-! DEFINITION. The decoder (R173–R187), total on every 64-bit word and rejecting by name, and after it an encoder
written from the same tables. -/

namespace Sys2Proof

/-- Why a word names no instruction (R175, R373). -/
inductive DecodeError where
  /-- The base opcode is a reserved cell of R181. -/
  | reservedCell (base : Nat)
  /-- A pair word that breaks R183, R184 or R186. -/
  | badPair
  /-- A form the cell does not admit, or a field outside the limits of R373. -/
  | badField (base : Nat)
  deriving DecidableEq, Repr

/-- S, U, G and N of a full word (R173, R174). -/
def headOf (w : W64) : Head := { s := bit w 63, u := bit w 61, g := fld w 49 3, n := bit w 48 }

/-- The F3 fields (R176). -/
def f3Of (w : W64) : F3 :=
  { dst := fld w 40 8, sa := fld w 32 8, sb := fld w 24 8, sc := fld w 16 8, mod := fld w 0 16 }

/-- The FI fields (R176). -/
def fiOf (w : W64) : FI := { dst := fld w 40 8, sa := fld w 32 8, imm := fld w 0 32 }

/-- The FM fields (R176). -/
def fmOf (w : W64) : FM :=
  { dst := fld w 40 8, base := fld w 32 8, idx := fld w 24 8, off := fld w 12 12, scope := fld w 9 3,
    ord := fld w 7 2, wid := fld w 4 3, cpol := fld w 2 2, xsc := fld w 0 2 }

/-- The FB fields (R176). -/
def fbOf (w : W64) : FB := { cond := fld w 40 8, tgt := fld w 16 24, rcv := fld w 0 16 }

/-- The FS fields (R176). -/
def fsOf (w : W64) : FS := { dst := fld w 40 8, sa := fld w 32 8, reg := fld w 16 16, mod := fld w 0 16 }

/-- The fields of a half (R183). -/
def halfOf (x : BitVec 31) : Half :=
  { hop := fld x 24 7, g := fld x 21 3, n := bit x 20, dst := fld x 12 8, src := fld x 4 8, m4 := fld x 0 4 }

/-- `qctl` by its operation QOP (R246). -/
def qctlOf (h : Head) (o : F3) : Option Instr :=
  match fldN o.mod 0 4 with
  | 0 => some (.qctlDone h o)
  | 1 => some (.qctlErr h o)
  | 2 => some (.qctlRun h o)
  | 3 => some (.qctlSetr h o)
  | 4 => some (.qctlStat h o)
  | _ => none

/-- The opcode map of R181 and the typed loads of R182: the instruction at a base opcode with the word's fields. -/
def cell (base : Nat) (w : W64) : Option Instr :=
  match base with
  | 0x000 => some (.nop (headOf w) (f3Of w))
  | 0x001 => some (.mov (headOf w) (f3Of w))
  | 0x002 => some (.movi (headOf w) (fiOf w))
  | 0x003 => some (.iadd (headOf w) (f3Of w))
  | 0x004 => some (.iaddi (headOf w) (fiOf w))
  | 0x005 => some (.isub (headOf w) (f3Of w))
  | 0x006 => some (.imul (headOf w) (f3Of w))
  | 0x007 => some (.imulhi (headOf w) (f3Of w))
  | 0x008 => some (.imad (headOf w) (f3Of w))
  | 0x009 => some (.imin (headOf w) (f3Of w))
  | 0x00A => some (.imax (headOf w) (f3Of w))
  | 0x00B => some (.iabs (headOf w) (f3Of w))
  | 0x00C => some (.ineg (headOf w) (f3Of w))
  | 0x00D => some (.and (headOf w) (f3Of w))
  | 0x00E => some (.or (headOf w) (f3Of w))
  | 0x00F => some (.xor (headOf w) (f3Of w))
  | 0x010 => some (.not (headOf w) (f3Of w))
  | 0x011 => some (.andi (headOf w) (fiOf w))
  | 0x012 => some (.ori (headOf w) (fiOf w))
  | 0x013 => some (.xori (headOf w) (fiOf w))
  | 0x014 => some (.shl (headOf w) (f3Of w))
  | 0x015 => some (.shr (headOf w) (f3Of w))
  | 0x016 => some (.sar (headOf w) (f3Of w))
  | 0x017 => some (.shli (headOf w) (fiOf w))
  | 0x018 => some (.shri (headOf w) (fiOf w))
  | 0x019 => some (.sari (headOf w) (fiOf w))
  | 0x01A => some (.rot (headOf w) (f3Of w))
  | 0x01B => some (.bfx (headOf w) (f3Of w))
  | 0x01C => some (.bfi (headOf w) (f3Of w))
  | 0x01D => some (.popc (headOf w) (f3Of w))
  | 0x01E => some (.clz (headOf w) (f3Of w))
  | 0x01F => some (.brev (headOf w) (f3Of w))
  | 0x020 => some (.sel (headOf w) (f3Of w))
  | 0x021 => some (.icmp (headOf w) (f3Of w))
  | 0x022 => some (.icmpi (headOf w) (fiOf w))
  | 0x023 => some (.plog (headOf w) (f3Of w))
  | 0x024 => some (.lea (headOf w) (fmOf w))
  | 0x025 => some (.idx (headOf w) (f3Of w))
  | 0x026 => some (.vote (headOf w) (f3Of w))
  | 0x027 => some (.shfl (headOf w) (f3Of w))
  | 0x028 => some (.vred (headOf w) (f3Of w))
  | 0x040 => some (.fadd (headOf w) (f3Of w))
  | 0x041 => some (.fsub (headOf w) (f3Of w))
  | 0x042 => some (.fmul (headOf w) (f3Of w))
  | 0x043 => some (.ffma (headOf w) (f3Of w))
  | 0x044 => some (.fmin (headOf w) (f3Of w))
  | 0x045 => some (.fmax (headOf w) (f3Of w))
  | 0x046 => some (.fcmp (headOf w) (f3Of w))
  | 0x047 => some (.fmuli (headOf w) (fiOf w))
  | 0x048 => some (.faddi (headOf w) (fiOf w))
  | 0x049 => some (.fdot2 (headOf w) (f3Of w))
  | 0x04A => some (.fclass (headOf w) (f3Of w))
  | 0x04B => some (.frnd (headOf w) (f3Of w))
  | 0x050 => some (.frcp (headOf w) (f3Of w))
  | 0x051 => some (.frsq (headOf w) (f3Of w))
  | 0x052 => some (.fsqrt (headOf w) (f3Of w))
  | 0x053 => some (.fex2 (headOf w) (f3Of w))
  | 0x054 => some (.flg2 (headOf w) (f3Of w))
  | 0x055 => some (.fsin (headOf w) (f3Of w))
  | 0x056 => some (.fcos (headOf w) (f3Of w))
  | 0x057 => some (.fsig (headOf w) (f3Of w))
  | 0x058 => some (.ftanh (headOf w) (f3Of w))
  | 0x080 => some (.cvt (headOf w) (f3Of w))
  | 0x081 => some (.npk (headOf w) (f3Of w))
  | 0x082 => some (.nunpk (headOf w) (f3Of w))
  | 0x083 => some (.scl (headOf w) (f3Of w))
  | 0x084 => some (.sclx (headOf w) (f3Of w))
  | 0x085 => some (.tag (headOf w) (f3Of w))
  | 0x086 => some (.tagr (headOf w) (f3Of w))
  | 0x087 => some (.fmset (headOf w) (fiOf w))
  | 0x0C0 => some (.bra (headOf w) (fbOf w))
  | 0x0C1 => some (.brx (headOf w) (f3Of w))
  | 0x0C2 => some (.call (headOf w) (fbOf w))
  | 0x0C3 => some (.ret (headOf w) (f3Of w))
  | 0x0C4 => some (.exit (headOf w) (f3Of w))
  | 0x0C5 => some (.bar (headOf w) (f3Of w))
  | 0x0C6 => some (.bara (headOf w) (fiOf w))
  | 0x0C7 => some (.barw (headOf w) (fiOf w))
  | 0x0C8 => some (.yld (headOf w) (f3Of w))
  | 0x0C9 => some (.gcall (headOf w) (fiOf w))
  | 0x0CA => some (.gret (headOf w) (f3Of w))
  | 0x0CB => some (.trap (headOf w) (fiOf w))
  | 0x0CC => some (.rte (headOf w) (f3Of w))
  | 0x0CD => some (.step (headOf w) (f3Of w))
  | 0x0CE => some (.qput (headOf w) (fmOf w))
  | 0x0CF => some (.qget (headOf w) (fmOf w))
  | 0x0D0 => qctlOf (headOf w) (f3Of w)
  | 0x100 => some (.ld (headOf w) (fmOf w))
  | 0x101 => some (.st (headOf w) (fmOf w))
  | 0x102 => some (.lds (headOf w) (fmOf w))
  | 0x103 => some (.sts (headOf w) (fmOf w))
  | 0x104 => some (.ldc (headOf w) (fmOf w))
  | 0x105 => some (.atom (headOf w) (fmOf w))
  | 0x106 => some (.atoms (headOf w) (fmOf w))
  | 0x107 => some (.red (headOf w) (fmOf w))
  | 0x108 => some (.fence (headOf w) (fmOf w))
  | 0x109 => some (.cbinv (headOf w) (fmOf w))
  | 0x10A => some (.tlook (headOf w) (fmOf w))
  | 0x10B => some (.tset (headOf w) (fmOf w))
  | 0x10C => some (.tclr (headOf w) (f3Of w))
  | 0x10D => some (.prf (headOf w) (fmOf w))
  | 0x10E => some (.fget (headOf w) (f3Of w))
  | 0x10F => some (.fput (headOf w) (f3Of w))
  | 0x110 => some (.tinv (headOf w) (f3Of w))
  | 0x140 => some (.mma (headOf w) (f3Of w))
  | 0x141 => some (.mmam (headOf w) (f3Of w))
  | 0x142 => some (.mmt (headOf w) (f3Of w))
  | 0x143 => some (.aalloc (headOf w) (f3Of w))
  | 0x144 => some (.afree (headOf w) (f3Of w))
  | 0x145 => some (.azero (headOf w) (f3Of w))
  | 0x146 => some (.ald (headOf w) (f3Of w))
  | 0x147 => some (.aput (headOf w) (f3Of w))
  | 0x148 => some (.tmld (headOf w) (f3Of w))
  | 0x149 => some (.cpy (headOf w) (f3Of w))
  | 0x14A => some (.gth (headOf w) (f3Of w))
  | 0x14B => some (.sct (headOf w) (f3Of w))
  | 0x14C => some (.coll (headOf w) (f3Of w))
  | 0x14D => some (.waitc (headOf w) (fiOf w))
  | 0x14E => some (.cntr (headOf w) (f3Of w))
  | 0x180 => some (.srd (headOf w) (fsOf w))
  | 0x181 => some (.swr (headOf w) (fsOf w))
  | 0x182 => some (.gtm (headOf w) (f3Of w))
  | 0x183 => some (.ccnt (headOf w) (f3Of w))
  | 0x184 => some (.calq (headOf w) (f3Of w))
  | 0x185 => some (.bst (headOf w) (fiOf w))
  | 0x186 => some (.place (headOf w) (f3Of w))
  | 0x187 => some (.seal (headOf w) (f3Of w))
  | 0x188 => some (.pmpt (headOf w) (f3Of w))
  | 0x121 => some (.ldTyped (headOf w) 1 (fmOf w))
  | 0x122 => some (.ldTyped (headOf w) 2 (fmOf w))
  | 0x123 => some (.ldTyped (headOf w) 3 (fmOf w))
  | 0x124 => some (.ldTyped (headOf w) 4 (fmOf w))
  | 0x125 => some (.ldTyped (headOf w) 5 (fmOf w))
  | 0x126 => some (.ldTyped (headOf w) 6 (fmOf w))
  | 0x127 => some (.ldTyped (headOf w) 7 (fmOf w))
  | 0x128 => some (.ldTyped (headOf w) 8 (fmOf w))
  | 0x129 => some (.ldTyped (headOf w) 9 (fmOf w))
  | 0x12A => some (.ldTyped (headOf w) 10 (fmOf w))
  | 0x12B => some (.ldTyped (headOf w) 11 (fmOf w))
  | 0x131 => some (.ldsTyped (headOf w) 1 (fmOf w))
  | 0x132 => some (.ldsTyped (headOf w) 2 (fmOf w))
  | 0x133 => some (.ldsTyped (headOf w) 3 (fmOf w))
  | 0x134 => some (.ldsTyped (headOf w) 4 (fmOf w))
  | 0x135 => some (.ldsTyped (headOf w) 5 (fmOf w))
  | 0x136 => some (.ldsTyped (headOf w) 6 (fmOf w))
  | 0x137 => some (.ldsTyped (headOf w) 7 (fmOf w))
  | 0x138 => some (.ldsTyped (headOf w) 8 (fmOf w))
  | 0x139 => some (.ldsTyped (headOf w) 9 (fmOf w))
  | 0x13A => some (.ldsTyped (headOf w) 10 (fmOf w))
  | 0x13B => some (.ldsTyped (headOf w) 11 (fmOf w))
  | _ => none

/-- The decoder (R175). -/
def decode (w : W64) : Except DecodeError Instr :=
  if bit w 62 then
    let i : Instr := .pairWord (bit w 63) (halfOf (fld w 31 31)) (halfOf (fld w 0 31))
    if WellFormed i then .ok i else .error .badPair
  else
    match cell (fldN w 52 9) w with
    | none => .error (.reservedCell (fldN w 52 9))
    | some i => if WellFormed i then .ok i else .error (.badField (fldN w 52 9))

/-- The low 48 bits of an F3 word (R176). -/
def ofF3 (o : F3) : BitVec 48 := o.dst ++ o.sa ++ o.sb ++ o.sc ++ o.mod
/-- The low 48 bits of an FI word (R176). -/
def ofFI (o : FI) : BitVec 48 := o.dst ++ o.sa ++ o.imm
/-- The low 48 bits of an FM word (R176). -/
def ofFM (o : FM) : BitVec 48 :=
  o.dst ++ o.base ++ o.idx ++ o.off ++ o.scope ++ o.ord ++ o.wid ++ o.cpol ++ o.xsc
/-- The low 48 bits of an FB word (R176). -/
def ofFB (o : FB) : BitVec 48 := o.cond ++ o.tgt ++ o.rcv
/-- The low 48 bits of an FS word (R176). -/
def ofFS (o : FS) : BitVec 48 := o.dst ++ o.sa ++ o.reg ++ o.mod
/-- The 31 bits of a half (R183). -/
def ofHalf (a : Half) : BitVec 31 := a.hop ++ a.g ++ BitVec.ofBool a.n ++ a.dst ++ a.src ++ a.m4
/-- A full word: S, D = 0, U, base opcode, guard and the format's fields (R173, R174). -/
def fullWord (h : Head) (base : BitVec 9) (low : BitVec 48) : W64 :=
  BitVec.ofBool h.s ++ 0#1 ++ BitVec.ofBool h.u ++ base ++ h.g ++ BitVec.ofBool h.n ++ low

/-- The word of an instruction, from the same tables (R173, R176, R181–R183); an operation or event has none. -/
def encode : Instr → Option W64
  | .nop h o => some (fullWord h 0x000 (ofF3 o))
  | .mov h o => some (fullWord h 0x001 (ofF3 o))
  | .movi h o => some (fullWord h 0x002 (ofFI o))
  | .iadd h o => some (fullWord h 0x003 (ofF3 o))
  | .iaddi h o => some (fullWord h 0x004 (ofFI o))
  | .isub h o => some (fullWord h 0x005 (ofF3 o))
  | .imul h o => some (fullWord h 0x006 (ofF3 o))
  | .imulhi h o => some (fullWord h 0x007 (ofF3 o))
  | .imad h o => some (fullWord h 0x008 (ofF3 o))
  | .imin h o => some (fullWord h 0x009 (ofF3 o))
  | .imax h o => some (fullWord h 0x00A (ofF3 o))
  | .iabs h o => some (fullWord h 0x00B (ofF3 o))
  | .ineg h o => some (fullWord h 0x00C (ofF3 o))
  | .and h o => some (fullWord h 0x00D (ofF3 o))
  | .or h o => some (fullWord h 0x00E (ofF3 o))
  | .xor h o => some (fullWord h 0x00F (ofF3 o))
  | .not h o => some (fullWord h 0x010 (ofF3 o))
  | .andi h o => some (fullWord h 0x011 (ofFI o))
  | .ori h o => some (fullWord h 0x012 (ofFI o))
  | .xori h o => some (fullWord h 0x013 (ofFI o))
  | .shl h o => some (fullWord h 0x014 (ofF3 o))
  | .shr h o => some (fullWord h 0x015 (ofF3 o))
  | .sar h o => some (fullWord h 0x016 (ofF3 o))
  | .shli h o => some (fullWord h 0x017 (ofFI o))
  | .shri h o => some (fullWord h 0x018 (ofFI o))
  | .sari h o => some (fullWord h 0x019 (ofFI o))
  | .rot h o => some (fullWord h 0x01A (ofF3 o))
  | .bfx h o => some (fullWord h 0x01B (ofF3 o))
  | .bfi h o => some (fullWord h 0x01C (ofF3 o))
  | .popc h o => some (fullWord h 0x01D (ofF3 o))
  | .clz h o => some (fullWord h 0x01E (ofF3 o))
  | .brev h o => some (fullWord h 0x01F (ofF3 o))
  | .sel h o => some (fullWord h 0x020 (ofF3 o))
  | .icmp h o => some (fullWord h 0x021 (ofF3 o))
  | .icmpi h o => some (fullWord h 0x022 (ofFI o))
  | .plog h o => some (fullWord h 0x023 (ofF3 o))
  | .lea h o => some (fullWord h 0x024 (ofFM o))
  | .idx h o => some (fullWord h 0x025 (ofF3 o))
  | .vote h o => some (fullWord h 0x026 (ofF3 o))
  | .shfl h o => some (fullWord h 0x027 (ofF3 o))
  | .vred h o => some (fullWord h 0x028 (ofF3 o))
  | .fadd h o => some (fullWord h 0x040 (ofF3 o))
  | .fsub h o => some (fullWord h 0x041 (ofF3 o))
  | .fmul h o => some (fullWord h 0x042 (ofF3 o))
  | .ffma h o => some (fullWord h 0x043 (ofF3 o))
  | .fmin h o => some (fullWord h 0x044 (ofF3 o))
  | .fmax h o => some (fullWord h 0x045 (ofF3 o))
  | .fcmp h o => some (fullWord h 0x046 (ofF3 o))
  | .fmuli h o => some (fullWord h 0x047 (ofFI o))
  | .faddi h o => some (fullWord h 0x048 (ofFI o))
  | .fdot2 h o => some (fullWord h 0x049 (ofF3 o))
  | .fclass h o => some (fullWord h 0x04A (ofF3 o))
  | .frnd h o => some (fullWord h 0x04B (ofF3 o))
  | .frcp h o => some (fullWord h 0x050 (ofF3 o))
  | .frsq h o => some (fullWord h 0x051 (ofF3 o))
  | .fsqrt h o => some (fullWord h 0x052 (ofF3 o))
  | .fex2 h o => some (fullWord h 0x053 (ofF3 o))
  | .flg2 h o => some (fullWord h 0x054 (ofF3 o))
  | .fsin h o => some (fullWord h 0x055 (ofF3 o))
  | .fcos h o => some (fullWord h 0x056 (ofF3 o))
  | .fsig h o => some (fullWord h 0x057 (ofF3 o))
  | .ftanh h o => some (fullWord h 0x058 (ofF3 o))
  | .cvt h o => some (fullWord h 0x080 (ofF3 o))
  | .npk h o => some (fullWord h 0x081 (ofF3 o))
  | .nunpk h o => some (fullWord h 0x082 (ofF3 o))
  | .scl h o => some (fullWord h 0x083 (ofF3 o))
  | .sclx h o => some (fullWord h 0x084 (ofF3 o))
  | .tag h o => some (fullWord h 0x085 (ofF3 o))
  | .tagr h o => some (fullWord h 0x086 (ofF3 o))
  | .fmset h o => some (fullWord h 0x087 (ofFI o))
  | .bra h o => some (fullWord h 0x0C0 (ofFB o))
  | .brx h o => some (fullWord h 0x0C1 (ofF3 o))
  | .call h o => some (fullWord h 0x0C2 (ofFB o))
  | .ret h o => some (fullWord h 0x0C3 (ofF3 o))
  | .exit h o => some (fullWord h 0x0C4 (ofF3 o))
  | .bar h o => some (fullWord h 0x0C5 (ofF3 o))
  | .bara h o => some (fullWord h 0x0C6 (ofFI o))
  | .barw h o => some (fullWord h 0x0C7 (ofFI o))
  | .yld h o => some (fullWord h 0x0C8 (ofF3 o))
  | .gcall h o => some (fullWord h 0x0C9 (ofFI o))
  | .gret h o => some (fullWord h 0x0CA (ofF3 o))
  | .trap h o => some (fullWord h 0x0CB (ofFI o))
  | .rte h o => some (fullWord h 0x0CC (ofF3 o))
  | .step h o => some (fullWord h 0x0CD (ofF3 o))
  | .qput h o => some (fullWord h 0x0CE (ofFM o))
  | .qget h o => some (fullWord h 0x0CF (ofFM o))
  | .qctlDone h o => some (fullWord h 0x0D0 (ofF3 o))
  | .qctlErr h o => some (fullWord h 0x0D0 (ofF3 o))
  | .qctlRun h o => some (fullWord h 0x0D0 (ofF3 o))
  | .qctlSetr h o => some (fullWord h 0x0D0 (ofF3 o))
  | .qctlStat h o => some (fullWord h 0x0D0 (ofF3 o))
  | .ld h o => some (fullWord h 0x100 (ofFM o))
  | .st h o => some (fullWord h 0x101 (ofFM o))
  | .lds h o => some (fullWord h 0x102 (ofFM o))
  | .sts h o => some (fullWord h 0x103 (ofFM o))
  | .ldc h o => some (fullWord h 0x104 (ofFM o))
  | .atom h o => some (fullWord h 0x105 (ofFM o))
  | .atoms h o => some (fullWord h 0x106 (ofFM o))
  | .red h o => some (fullWord h 0x107 (ofFM o))
  | .fence h o => some (fullWord h 0x108 (ofFM o))
  | .cbinv h o => some (fullWord h 0x109 (ofFM o))
  | .tlook h o => some (fullWord h 0x10A (ofFM o))
  | .tset h o => some (fullWord h 0x10B (ofFM o))
  | .tclr h o => some (fullWord h 0x10C (ofF3 o))
  | .prf h o => some (fullWord h 0x10D (ofFM o))
  | .fget h o => some (fullWord h 0x10E (ofF3 o))
  | .fput h o => some (fullWord h 0x10F (ofF3 o))
  | .tinv h o => some (fullWord h 0x110 (ofF3 o))
  | .mma h o => some (fullWord h 0x140 (ofF3 o))
  | .mmam h o => some (fullWord h 0x141 (ofF3 o))
  | .mmt h o => some (fullWord h 0x142 (ofF3 o))
  | .aalloc h o => some (fullWord h 0x143 (ofF3 o))
  | .afree h o => some (fullWord h 0x144 (ofF3 o))
  | .azero h o => some (fullWord h 0x145 (ofF3 o))
  | .ald h o => some (fullWord h 0x146 (ofF3 o))
  | .aput h o => some (fullWord h 0x147 (ofF3 o))
  | .tmld h o => some (fullWord h 0x148 (ofF3 o))
  | .cpy h o => some (fullWord h 0x149 (ofF3 o))
  | .gth h o => some (fullWord h 0x14A (ofF3 o))
  | .sct h o => some (fullWord h 0x14B (ofF3 o))
  | .coll h o => some (fullWord h 0x14C (ofF3 o))
  | .waitc h o => some (fullWord h 0x14D (ofFI o))
  | .cntr h o => some (fullWord h 0x14E (ofF3 o))
  | .srd h o => some (fullWord h 0x180 (ofFS o))
  | .swr h o => some (fullWord h 0x181 (ofFS o))
  | .gtm h o => some (fullWord h 0x182 (ofF3 o))
  | .ccnt h o => some (fullWord h 0x183 (ofF3 o))
  | .calq h o => some (fullWord h 0x184 (ofF3 o))
  | .bst h o => some (fullWord h 0x185 (ofFI o))
  | .place h o => some (fullWord h 0x186 (ofF3 o))
  | .seal h o => some (fullWord h 0x187 (ofF3 o))
  | .pmpt h o => some (fullWord h 0x188 (ofF3 o))
  | .ldTyped h t o => some (fullWord h (0x120 + t.zeroExtend 9) (ofFM o))
  | .ldsTyped h t o => some (fullWord h (0x130 + t.zeroExtend 9) (ofFM o))
  | .pairWord s a b => some (BitVec.ofBool s ++ 1#1 ++ ofHalf a ++ ofHalf b)
  | .grant _ _ _ _ => none
  | .reclaim _ _ _ _ => none
  | .take _ _ _ _ => none
  | .release _ _ _ _ => none
  | .window _ _ _ _ => none
  | .unwindow _ _ _ _ => none
  | .audbuf _ _ _ _ => none
  | .preset _ _ _ _ => none
  | .audtext _ _ _ _ => none
  | .arm _ => none
  | .disarm _ => none
  | .ctlmark _ => none
  | .tohbm _ => none
  | .tocxl _ => none
  | .tocold _ => none
  | .query _ => none
  | .tierMoveComplete _ => none
  | .tqcmd _ _ _ => none
  | .evictCxlDirect _ _ _ => none
  | .evictCxlCold _ _ _ => none
  | .ckproll _ _ => none
  | .ctxkill _ => none
  | .dbgctlFreeze => none
  | .testPortFreeze => none
  | .cxlRetrain _ => none
  | .hqtailDoorbell _ _ => none
  | .hqskip _ _ => none
  | .hqctlWrite _ _ => none
  | .ttcfgWrite _ _ => none
  | .sillageConfigWrite _ _ => none
  | .energyCapture _ _ => none
  | .wearthrWrite _ => none
  | .registerWrite _ _ _ _ => none
  | .moduleReset => none
  | .boot => none
  | .frameBoundary => none
  | .budgetExhausted _ => none
  | .boostIntervalBoundary => none
  | .energyUpdate _ => none
  | .droopStretch _ => none
  | .approachWindowStart => none
  | .slotOpen => none
  | .slotClose _ => none
  | .slotOverrun _ _ => none
  | .gtSyncExchange _ => none
  | .waitSatisfied _ _ => none
  | .blockStart _ => none
  | .gangStart _ => none
  | .gangPriorityTimeout _ => none
  | .gangCannotFit _ => none
  | .blockComplete _ => none
  | .stepBoundaryComplete _ => none
  | .blockSwitchOut _ => none
  | .blockPageIn _ => none
  | .matrixPass _ => none
  | .engineOpComplete _ => none
  | .scrubLine _ => none
  | .nopPacket _ => none
  | .indirect _ => none
  | .launch _ => none
  | .bundle _ => none
  | .copy _ => none
  | .signal _ => none
  | .wait _ => none
  | .waitReread _ => none
  | .checkpoint _ => none
  | .qconfig _ => none
  | .packetFetch _ => none
  | .ticketPost _ => none
  | .commandStart _ => none
  | .ticketRepost _ => none
  | .commandRetire _ => none
  | .msixMessageSend _ => none
  | .queueRetest _ _ => none
  | .gateDeadline _ _ => none
  | .remoteTimeout _ => none
  | .remoteResponse _ _ => none
  | .inboundPeerAccess _ => none
  | .atsResponse _ _ => none
  | .atsInvalidation _ _ => none
  | .invalidationCompletion _ _ => none
  | .pageRequestResponse _ _ _ => none
  | .functionLevelReset _ => none
  | .pcieLinkDown => none
  | .linkRetryFail _ => none
  | .collRecordReceive _ _ => none
  | .collChunkMark _ _ _ => none
  | .collStallTimeout _ => none
  | .cxlPortLoss _ => none
  | .blastError _ _ _ => none
  | .turnGrant _ => none
  | .turnQuantumExpiry _ => none
  | .turnForcedSealing _ => none
  | .checkpointDue _ => none
  | .checkpointCut _ => none
  | .checkpointFrameCopy _ _ => none
  | .checkpointCommit _ => none
  | .droopRecovery _ => none
  | .scanReadout _ => none
  | .pcieLinkUp _ => none
  | .cxlTrainingComplete _ _ => none
  | .forcedSealingOverdue _ => none
  | .wordNamingNoInstruction _ => none
  | .instructionFetchFailure _ => none
  | .barMirrorRead _ _ _ _ => none

/-- The instruction the decoder reads from an instruction whose bits, numbered from the least significant bit of its one
64-bit word, are `w`. -/
def decodeTableWord (_nbits w : Nat) : Option Instr :=
  match decode (BitVec.ofNat 64 w) with
  | .ok i => some i
  | .error _ => none

end Sys2Proof
end

