-- ==== Sys2Proof/Machine/Wakes.lean ====
section
/-! DEFINITION. What becomes of a group that does not issue: waits that are satisfied, runs whose results have come, queue words
that test again, gate deadlines, and words that cannot issue (R57, R61, R66, R67, R132, R247, R373, R394, R396, R407). -/

namespace Sys2Proof.Machine

/-- A condition that a word waits for may hold, for a group resident on a core. A queue's descriptor is watched by `queueRetest`. -/
def condHolds (s : State) (h gi core : Nat) (g : Group) : Cond → Bool
  | .counter cls n => decide (g.counters.get cls ≤ n)
  | .room cls k => roomFor s g.counters (core / 4) cls k
  | .tile t => !s.tileBusy h gi t (core / 4)
  | .queue _ _ => false
  | .frame f => !s.pinned f && !s.cow.contains f && s.frontierFor f
  | .drained => decide (g.counters = {})
  | .gateOut ctx => s.sealable ctx || !s.isContext ctx
  | .partOut p _ => !s.holds p || (match (s.part p).pmpt with | some m => m.failed | none => true)
  | .husked ctx => !s.huskAway ctx
  | .placeRoom c k => decide ((s.cluster (c / 4)).reqs.length + k ≤ 32)
  | .remote => (s.remotesOf h gi).isEmpty
  | .fetch reader => !s.remotes.any (fun x => decide (x.2.hw = some (.fetch reader)))
  | .unused a va all => !s.inUse a va all

/-- A slot goes on: its word issues again, or, past a barrier or a boundary, it continues at the next one. -/
def wakeSlot (ok : Cond → Bool) (top : Option DivEntry) (x : Slot) : Slot :=
  match x.wait with
  | .retry c => if ok c then { x with wait := .none } else x
  | .passed => arriveSlot top { x with wait := .none, pc := x.pc + 8, cnt := 0 }
  | _ => x

/-- The view of a group from one of its slots, whether or not it can issue. -/
def viewFor (s : State) (h gi : Nat) (d : Bool) : Option View :=
  match AMap.get? s.blocks h with
  | none => none
  | some b =>
    match b.core?, b.groups[gi]? with
    | some core, some g => some { handle := h, gi, core, gslot := b.gslots.getD gi 0, b, g, d }
    | _, _ => none

/-- Nothing that the run of a group waits for is outstanding (R57): no result of an access, held or at the host or a peer. -/
def resultsIn (s : State) (h gi : Nat) (g : Group) : Bool := !s.lateOut h gi && !g.held.any (fun a => a.dst.isSome)

/-- A group whose block misses no page takes up what it had to leave: its divergence area, its held accesses and a merge that a
missing page kept from it (R131, R132). -/
def resumeHeld (s : State) (h gi core : Nat) : State :=
  match s.group? h gi with
  | none => s
  | some g =>
    if !(g.stopped || !g.held.isEmpty || !g.area.isEmpty) || !(s.remotesOf h gi).isEmpty then s
    else
      let s := areaWrite s h gi g 0 g.area
      let s := replayGroup s h gi core
      let miss := match AMap.get? s.blocks h with | some b => !b.missing.isEmpty | none => false
      s.modGroup h gi (fun g => { g with stopped := miss || !(s.remotesOf h gi).isEmpty })

/-- What a group on a core waits for has come (R57, R67, R394): held accesses are replayed once no page is missing, the call whose
forced return waited ends, the run whose results are in closes, and slots whose conditions hold issue again. -/
def wake (s : State) (h gi : Nat) : State :=
  match AMap.get? s.blocks h with
  | none => s
  | some b =>
    match b.core? with
    | none => s
    | some core =>
      let s := if b.missing.isEmpty then resumeHeld s h gi core else s
      match s.group? h gi with
      | none => s
      | some g =>
        let now := s.ccount (core / 4)
        let ready (s : State) : State := promote (s.modGroup h gi (fun g => { g with age := now })) core
        match g.forced with
        | some (reason, cls) =>
          if g.drained s h gi then
            ready (settle settleFuel (endCall s h gi (some (forcedCode reason cls))) h gi)
          else s
        | none =>
          if g.ending then
            (if resultsIn s h gi g && b.missing.isEmpty && !(s.remotesOf h gi).any (fun r => r.2.fill.isSome) then
              match viewFor s h gi g.cur with
              | some v => ready (closeRun s v)
              | none => s
            else s)
          else
            let ok := condHolds s h gi core g
            let x0 := wakeSlot ok g.top g.slot0
            let x1 := wakeSlot ok g.top g.slot1
            if x0 = g.slot0 ∧ x1 = g.slot1 then s
            else
              let s := s.modGroup h gi (fun g => { g with slot0 := x0, slot1 := x1 })
              ready (if g.inRun then s else settle settleFuel s h gi)

/-- A waited result or condition arrives and the group becomes ready (R67). -/
def execWaitSatisfied (handle gi : Nat) (s : State) : Out := .next (wake s handle gi)

/-- A waiting queue word tests again when its descriptor has changed (R247). -/
def execQueueRetest (handle gi : Nat) (s : State) : Out :=
  .next (
    match AMap.get? s.blocks handle with
    | none => s
    | some b =>
      match b.core?, b.groups[gi]? with
      | some core, some g =>
        let test (x : Slot) : Slot :=
          match x.wait with
          | .retry (.queue pa old) => if s.bytes pa old.length = old then x else { x with wait := .none }
          | _ => x
        if test g.slot0 = g.slot0 ∧ test g.slot1 = g.slot1 then s
        else
          let now := s.ccount (core / 4)
          promote (s.modGroup handle gi (fun g => { g with slot0 := test g.slot0, slot1 := test g.slot1, age := now })) core
      | _, _ => s)

/-- A call's deadline has passed (R396). -/
def GateFrame.expired (f : GateFrame) (gt : Nat) : Bool := match f.deadline with | some t => decide (t ≤ gt) | none => false

/-- A gate call's deadline expires (R396): the calls nested in it end first, one after another, then the call itself, with one GTO
record. -/
def execGateDeadline (handle gi : Nat) (s : State) : Out :=
  .next (
    match s.group? handle gi with
    | none => s
    | some g =>
      if g.forced.isSome || !g.gates.any (fun f => f.expired s.gt) then s
      else match g.gates with
        | [] => s
        | f :: _ =>
          let s :=
            if f.expired s.gt then
              (s.record { s.recOf handle gi clsGTO with iaddr := f.iaddr, lanes := f.mask }
                (g.ownerTo ((AMap.get? s.blocks handle).bind Block.part?))).1
            else s
          settle settleFuel
            (if f.expired s.gt then forceReturn s handle gi 3 clsGTO else forceReturn s handle gi 4 0) handle gi)

/-- A word that cannot issue raises its fault at the issuing group (R371, R412): a failure of a held access comes first. -/
def raiseWord (s : State) (q : State → View → State) : Out :=
  match issuing s with
  | none => .fault .noIssuingGroup
  | some v0 =>
    let s := startRun s v0
    match viewOf s v0.handle v0.gi with
    | none => .fault .noIssuingGroup
    | some v =>
      match v.g.pend.find? (fun f => decide (v.g.level ≤ f.level)) with
      | some f =>
        .next (faultAt s (s.modGroup v.handle v.gi (fun g => { g with pend := g.pend.filter (fun x => decide (x ≠ f)) })) v (f.req v.pc))
      | none => .next (q s v)

/-- A fetched word that names no instruction (R371, R373). -/
def execWordNamingNoInstruction (w : W64) (s : State) : Out :=
  raiseWord s (fun s v =>
    faultAt s s v { cls := if 31 ≤ v.sl.cnt ∧ !bit w 63 then clsRUN else clsENC, lanes := v.mask })

/-- An instruction fetch fails (R407), or meets a missing page, for which the group stops (R131, R409). -/
def execInstructionFetchFailure (f : FetchFailure) (s : State) : Out :=
  raiseWord s (fun s v =>
    let kind := if f.table then 6 else 4
    if f.cls = clsMSP then
      (s.modGroup v.handle v.gi (fun g => { g with stopped := true })).addMissing v.handle v.gi (.frame f.frame)
        { v.mkRec clsMSP with vaddr := v.pc, kind, frame := f.frame, tier := f.tier }
    else
      faultAt s s v
        { cls := f.cls, lanes := v.mask, vaddr := v.pc, kind, frame := f.frame, tier := f.tier, unit := f.unit
          ukind := if f.cls = clsECC then 7 else 0, kill := f.kill })

end Sys2Proof.Machine
end

