-- ==== Sys2Proof/Machine/Fetch.lean ====
section
/-! DEFINITION. Fetching an instruction word (R116, R407, R409, R420), and which words the approach of a maintenance slot holds
(R313). -/

namespace Sys2Proof.Machine

/-- A fetch that fails, as its event names it. -/
def fetchFail (cls frame tier : Nat) : FetchFailure := { cls, table := false, kill := false, frame, tier, unit := 0 }

/-- How the fetch of a word goes. -/
inductive Fetched where
  /-- The word. -/
  | word (w : W64)
  /-- Why there is none. -/
  | fail (f : FetchFailure)
  /-- It lies on a page of the host or a peer. -/
  | away (t : Tr)
  deriving DecidableEq, Repr

/-- Fetch the word at an address in an ASID through a core's TLB: its bits, why there are none, or where it is fetched from. -/
def fetchWord (s : State) (core a : Nat) (pc : W64) : State × Fetched :=
  match judge s (some core) a .fetch pc 8 with
  | (s, .mem pa _ _ _ _ _) =>
    match s.physRead pa 8 with
    | .ok bs => (s, .word (BitVec.ofNat 64 (ofBytes bs)))
    | .error u => (s, .fail { cls := clsECC, table := false, kill := true, frame := pa / 65536, tier := s.tierOf (pa / 65536), unit := u })
  | (s, .fail c f t) => (s, .fail (fetchFail c f t))
  | (s, .firstTouch) => (s, .fail (fetchFail clsFTP noFrame noTier))
  | (s, .missing f table _) => (s, .fail { fetchFail clsMSP f (s.tierOf f) with table })
  | (s, .ecc f u) => (s, .fail { cls := clsECC, table := true, kill := true, frame := f, tier := s.tierOf f, unit := u })
  | (s, t) => (s, .away t)

/-- The instruction a word names, or the event of a word that names none (R373). -/
def wordInstr (w : W64) : Instr :=
  match decode w with
  | .ok i => i
  | .error _ => .wordNamingNoInstruction w

/-- The instruction or event that a group's next word leads to (R373, R407), with the word when its bits are known; none while it is
fetched from the host or a peer; a page of the host fails with REM while the link is down (R455). A begun run goes on with the word it
has fetched (R188). -/
def nextInstr (s : State) (v : View) : State × Option (Instr × Option W64) :=
  match v.g.word with
  | some (pc, w) =>
    if v.g.inRun && decide (pc = v.pc) then (s, some (wordInstr w, some w)) else fresh
  | none => fresh
where
  fresh : State × Option (Instr × Option W64) :=
    match fetchWord s v.core v.g.asid.toNat v.pc with
    | (s, .word w) => (s, some (wordInstr w, some w))
    | (s, .fail f) => (s, some (.instructionFetchFailure f, none))
    | (s, .away t) =>
      let reader := wordReader v.handle v.gi
      let line := v.pc.toNat / 64
      match s.kept reader v.g.asid.toNat v.pc with
      | some x =>
        let s := s.fetchDone reader
        match x with
        | [c] => (s, some (.instructionFetchFailure (fetchFail c.toNat t.leafFrame t.leafTier), none))
        | bs =>
          let w : W64 := BitVec.ofNat 64 (ofBytes ((bs.drop (v.pc.toNat % 64)).take 8))
          (s, some (wordInstr w, some w))
      | none =>
        if t.leafTier = 2 ∧ !s.host.linkUp then (s, some (.instructionFetchFailure (fetchFail clsREM t.leafFrame 2), none))
        else if s.lineOut reader v.g.asid.toNat line then (s, none)
        else match s.hwRemote v.g.asid.toNat (.fetch reader) .load (BitVec.ofNat 64 (64 * line)) [] 64 t with
          | some r => (s.sendRemote { r with iaddr := v.pc, mask := v.mask, addr := r.addr - v.pc.toNat % 64 }, none)
          | none => (s, none)

/-- A core keeps the words of a line it fetches from (R188). -/
def State.keepWords (s : State) (core a : Nat) (pc : W64) : State :=
  let c := s.core core
  let x := (a, pc.toNat / 64)
  if c.words.contains x then s else s.setCore core { c with words := (x :: c.words).take 512 }

/-- The words whose accesses reach L2, which the approach of a slot and the slot hold (R313). -/
def l2Word : Instr → Bool
  | .ld .. => true
  | .ldTyped .. => true
  | .st .. => true
  | .atom .. => true
  | .red .. => true
  | .prf .. => true
  | .qput .. => true
  | .qget .. => true
  | .qctlDone .. => true
  | .qctlErr .. => true
  | .qctlRun .. => true
  | .qctlSetr .. => true
  | .qctlStat .. => true
  | .gcall .. => true
  | .place .. => true
  | .seal .. => true
  | .pmpt .. => true
  | _ => false

/-- A line that a core's control-block cache holds. -/
def State.cached (s : State) (v : View) (line : Nat) : Option CbLine :=
  (s.core v.core).cbc.find? (fun l => decide (l.asid = v.g.asid.toNat ∧ l.line = line))

/-- The control blocks that a word captures, as far as what its core holds shows them: their addresses and lengths (R123, R426). -/
def blocksOf (s : State) (v : View) : Instr → List (W64 × Nat)
  | .ldc h o => (addresses v h o (v.units h)).map (fun x => (x.2, 1))
  | .cpy h o => if v.go h then [(v.pairAddr o.sa, 64)] else []
  | .gth h o => if v.go h then [(v.pairAddr o.sa, 64)] else []
  | .sct h o => if v.go h then [(v.pairAddr o.sa, 64)] else []
  | .coll h o =>
    if !v.go h then []
    else (v.pairAddr o.sa, 64) :: (match s.cached v ((v.pairAddr o.sa).toNat / 64) with
      | some l => [(fieldA l.bytes 40, 8 * jobNmem l.bytes)]
      | none => [])
  | .tmld h o => if v.go h then [(v.pairAddr o.sa, min 256 (v.g.base.uni o.sb.toNat).toNat)] else []
  | .mmam h o => if v.lanes h ≠ 0 then [(v.pairAddr o.sb, 32)] else []
  | .trap h _ => if v.go h && decide (v.g.tvt ≠ 0) then [(v.g.vector 0, 8)] else []
  | _ => []

/-- A word needs a line of a control block that its core's cache does not hold. -/
def blockMiss (s : State) (v : View) (i : Instr) : Bool :=
  (blocksOf s v i).any (fun b =>
    let first := b.1.toNat / 64
    (List.range ((b.1.toNat + b.2 - 1) / 64 + 1 - first)).any (fun k => (s.cached v (first + k)).isNone))

/-- A `bra` that splits below a path pushes an entry to the divergence area (R61). -/
def pushes (v : View) : Instr → Bool
  | .bra h o =>
    !h.u && !bit o.cond 4 && v.g.top.isSome && v.g.gates.isEmpty && decide (takenLanes v h o ≠ 0) && decide (takenLanes v h o ≠ v.mask)
  | _ => false

/-- The next word of a group would be held by the calendar: its fetch misses or needs a walk, its access reaches L2, or it captures a
line that its core does not hold (R313; log 45). -/
def gatedWord (s : State) (v : View) : Bool :=
  decide (s.clock.phase ≠ .open_) &&
  (!(s.core v.core).tlb.any (fun e => e.hits v.g.asid.toNat v.pc.toNat) ||
    !(s.core v.core).words.contains (v.g.asid.toNat, v.pc.toNat / 64) ||
    (match (nextInstr s v).2 with
    | some x => l2Word x.1 || blockMiss s v x.1 || pushes v x.1
    | none => true))

end Sys2Proof.Machine
end

