-- ==== Sys2Proof/Machine/Slh.lean ====
section
/-! DEFINITION. The verification of SLH-DSA-SHA2-128s signatures (FIPS 205; R303): hashes of 16 bytes, seven layers of trees of
height 9, Winternitz chains of 16 values, and 14 trees of height 12 for the message. -/

namespace Sys2Proof.Machine

/-- An address of FIPS 205: the layer, the tree, the type, and three words whose meaning goes with the type. -/
structure SlhAddr where
  layer : Nat := 0
  tree : Nat := 0
  kind : Nat := 0
  pair : Nat := 0
  height : Nat := 0
  index : Nat := 0

/-- The 22 bytes of an address in its compressed form. -/
def SlhAddr.bytes (a : SlhAddr) : List Byte :=
  toBytesBE a.layer 1 ++ toBytesBE a.tree 8 ++ toBytesBE a.kind 1 ++ toBytesBE a.pair 4 ++ toBytesBE a.height 4 ++ toBytesBE a.index 4

/-- The hash of a message at an address, of 16 bytes: F, H and T of FIPS 205, which differ in the message's length alone. -/
def slhHash (seed : List Byte) (a : SlhAddr) (m : List Byte) : List Byte :=
  (sha256 (seed ++ List.replicate 48 0 ++ a.bytes ++ m)).take 16

/-- Entry `i` of 16 bytes. -/
def slhPart (bs : List Byte) (i : Nat) : List Byte := (bs.drop (16 * i)).take 16

/-- The digits of `b` bits of a big-endian byte string, the first most significant. -/
def slhDigits (bs : List Byte) (b n : Nat) : List Nat :=
  let x := ofBytes bs.reverse
  (List.range n).map (fun i => x / 2 ^ (8 * bs.length - b * (i + 1)) % 2 ^ b)

/-- Go on along a Winternitz chain for `n` steps, from place `i`. -/
def slhChain (seed : List Byte) (a : SlhAddr) : Nat → Nat → List Byte → List Byte
  | 0, _, x => x
  | n + 1, i, x => slhChain seed a n (i + 1) (slhHash seed { a with index := i } x)

/-- The Winternitz public key that a signature of a message leads to. -/
def slhWots (seed : List Byte) (a : SlhAddr) (sig m : List Byte) : List Byte :=
  let ds := slhDigits m 4 32
  let sum := ds.foldl (fun n d => n + (15 - d)) 0
  let all := ds ++ slhDigits (toBytesBE (16 * sum) 2) 4 3
  let tops := (List.range 35).flatMap (fun i =>
    let d := all.getD i 0
    slhChain seed { a with height := i } (15 - d) d (slhPart sig i))
  slhHash seed { a with kind := 1, height := 0, index := 0 } tops

/-- Climb `n` levels of a tree by an authentication path, from node `index` of a level; `k` numbers the level below. -/
def slhClimb (seed : List Byte) (a : SlhAddr) (path : List Byte) : Nat → Nat → Nat → List Byte → List Byte
  | 0, _, _, node => node
  | n + 1, k, index, node =>
    let mate := slhPart path k
    let both := if index % 2 = 0 then node ++ mate else mate ++ node
    slhClimb seed a path n (k + 1) (index / 2) (slhHash seed { a with height := k + 1, index := index / 2 } both)

/-- The root of a tree that a signature at a leaf leads to. -/
def slhXmss (seed : List Byte) (layer tree leaf : Nat) (sig m : List Byte) : List Byte :=
  let node := slhWots seed { layer, tree, kind := 0, pair := leaf } sig m
  slhClimb seed { layer, tree, kind := 2 } (sig.drop (16 * 35)) 9 0 leaf node

/-- The root that the seven layers of a signature lead to. -/
def slhLayers (seed : List Byte) : Nat → Nat → Nat → Nat → List Byte → List Byte → List Byte
  | 0, _, _, _, _, m => m
  | n + 1, layer, tree, leaf, sig, m =>
    slhLayers seed n (layer + 1) (tree / 2 ^ 9) (tree % 2 ^ 9) (sig.drop (16 * 44)) (slhXmss seed layer tree leaf sig m)

/-- The message's public key that its part of a signature leads to. -/
def slhFors (seed : List Byte) (tree leaf : Nat) (sig md : List Byte) : List Byte :=
  let ds := slhDigits md 12 14
  let roots := (List.range 14).flatMap (fun i =>
    let s := sig.drop (16 * 13 * i)
    let index := i * 2 ^ 12 + ds.getD i 0
    let a : SlhAddr := { tree, kind := 3, pair := leaf }
    slhClimb seed a (s.drop 16) 12 0 index (slhHash seed { a with index } (slhPart s 0)))
  slhHash seed { tree, kind := 4, pair := leaf } roots

/-- The mask generation function of SHA-256, for at most 32 bytes. -/
def slhMgf (seed : List Byte) (n : Nat) : List Byte := (sha256 (seed ++ toBytesBE 0 4)).take n

/-- A signature of a message verifies under a public key, with an empty context string. -/
def slhVerify (key m sig : List Byte) : Bool :=
  let seed := key.take 16
  let root := (key.drop 16).take 16
  let r := sig.take 16
  let digest := slhMgf (r ++ seed ++ sha256 (r ++ seed ++ root ++ [0, 0] ++ m)) 30
  let tree := ofBytes ((digest.drop 21).take 7).reverse % 2 ^ 54
  let leaf := ofBytes ((digest.drop 28).take 2).reverse % 2 ^ 9
  let fors := slhFors seed tree leaf (sig.drop 16) (digest.take 21)
  decide (sig.length = 7856) && decide (slhLayers seed 7 0 tree leaf (sig.drop (16 * (1 + 14 * 13))) fors = root)

end Sys2Proof.Machine
end

