-- ==== Sys2Proof/Machine/Time.lean ====
section
/-! DEFINITION. Reset, boot, GT, frames and budgets, boost intervals, energy, droops, the maintenance calendar, link
synchronisation and scan read-out (R25, R42, R303, R305–R317, R436–R441, R453). -/

namespace Sys2Proof.Machine

/-! ### Reset and boot -/

/-- The state after module reset (R25): what is no part of the module, and its flash, stays. -/
def moduleReset (s : State) : State :=
  { State.reset with
    host := { State.reset.host with flash := s.host.flash }
    outbox := s.outbox, choices := s.choices, fresh := s.fresh, inbox := s.inbox }

/-- The module is reset (R25). -/
def execModuleReset (s : State) : Out := .next (moduleReset s)

/-- The entry of the image's agents. -/
def agentEntry : W64 := pair (Config.bootValue 0x10000 &&& ~~~ 7#32) (Config.bootValue 0x10001 &&& 0xFFFFFF#32)

/-- The agent of a core starts with a fresh register state (R303, R436). -/
def startAgent (s : State) (core : Nat) : State :=
  let s := s.setCore core { s.core core with agentDead := false }
  { s with blocks := AMap.put s.blocks (agentKey core) (slot31Block s (.agent core) core 0x400 1 agentEntry) }

/-- Word `i` of a digest (R303). -/
def digestWord (d : List Byte) (i : Nat) : W32 := BitVec.ofNat 32 (fieldOf d (4 * i) 4)

/-- Write a digest into `fwmeas`. -/
def setFwmeas (s : State) (d : List Byte) : State :=
  (List.range 8).foldl (fun s i => s.setReg 0 (0x5600 + i) (digestWord d i)) s

/-- The boot ROM's checks on the image in flash (R303, R438): `bootstat`.CODE. PRESUMED: the signature is of the pure form with an empty
context string, which the spec does not say (log 51). -/
def bootCode (flash : List Byte) : Nat :=
  let n := 64 + fieldOf flash 8 4
  if flash.length < 64 ∨ flash.length < n + 7856 then 1
  else
    let key := sha256 ((flash.drop 12).take 32)
    if (List.range 8).any (fun i => decide (digestWord key i ≠ Config.bootValue (0x30000 + i))) then 2
    else if !slhVerify ((flash.drop 12).take 32) (flash.take n) ((flash.drop n).take 7856) then 3
    else if BitVec.ofNat 32 (fieldOf flash 4 4) < Config.bootValue 0x30010 then 4
    else 0

/-- The boot ROM runs once, no earlier than GT 384 (R303, R312, R438). -/
def boot (s : State) : State :=
  if s.clock.booted ∨ s.gt < 384 then s
  else
    let flash := s.host.flash
    let code := bootCode flash
    let s := { s with clock := { s.clock with booted := true } }
    let s := if code = 1 then s else setFwmeas s (sha256 (flash.take (64 + fieldOf flash 8 4)))
    let s := s.setReg 0 0x5609 (BitVec.ofNat 32 code)
    if code ≠ 0 then s
    else (List.range Config.cores).foldl startAgent (s.setReg 0 0x5608 (BitVec.ofNat 32 (fieldOf flash 4 4)))

/-- The boot ROM verifies the image and starts the agents, or records why not (R303). -/
def execBoot (s : State) : Out := .next (boot s)

/-! ### Ticks of GT -/

/-- A cluster's clock goes on at its step's rate through one tick that GT does not show (R24, R305); one that droops adds the edges that
are not stretched away (R306). -/
def clockTick (s : State) (c : Nat) : State :=
  let x := s.cluster c
  let n := x.frac + rate20 (s.regF c 0x3010 0 2)
  if x.droop then (s.setCluster c { x with cycles := x.cycles + Config.freeValue s.fresh % (n / 20 + 1), frac := n % 20 }).tick
  else s.setCluster c { x with cycles := x.cycles + n / 20, frac := n % 20 }

/-- The clusters' clocks go on through a tick in which GT stands. -/
def holdClocks (s : State) : State := (List.range Config.clusters).foldl clockTick s

/-- GT has caught up with the reference to within 8 ns once no more ticks than that are left to hold (R314). -/
def nearLock (s : State) : State :=
  if s.clock.locking ∧ s.clock.hold ≤ 8 then
    { s with clock := { s.clock with locking := false } }.setRegF 0 0x5050 1 1 1
  else s

/-- Clocks whose supply droops add the edges that occur in one tick, as many as are not stretched away (R306). -/
def droopClocks (s : State) : State :=
  s.clusters.foldl (fun s c =>
    if (s.cluster c.1).droop then
      let s := clockTick s c.1
      s.setCluster c.1 { s.cluster c.1 with cyclesAt := s.gt + 1 }
    else s) s

/-- The ticks of its budget that an activity has used (R315). -/
def Clock.used (k : Clock) (a : Activity) : Nat :=
  match k.spent.find? (fun x => decide (x.1 = a)) with
  | some x => x.2
  | none => 0

/-- The activities of the present tick have used it, outside a slot (R315). -/
def Clock.charge (k : Clock) : Clock :=
  let spent := if k.phase = .slot then k.spent
    else k.acting.foldl (fun m a => (a, { k with spent := m }.used a + 1) :: m.filter (fun x => decide (x.1 ≠ a))) k.spent
  { k with spent, acting := [] }

/-- One MNT for a partition's owner in a slot (R441). -/
def mntOwner (s : State) (p : Nat) : State :=
  if (s.part p).mnt then s
  else ((s.setPart p { s.part p with mnt := true }).record { cls := clsMNT, part := some p } .queue).1

/-- The partitions of the groups whose words the calendar holds (R313, R441). -/
def heldParts (s : State) : List Nat :=
  (s.heldWords.filterMap (fun x => (AMap.get? s.blocks x.1).bind Block.part?)).eraseDups

/-- Owners hear of their accesses that are held beyond START + LEN (R441). -/
def mntHeld (s : State) : State :=
  if s.clock.phase = .slot ∧ 4096 * s.clock.slotFrame + s.clock.slotLen ≤ s.gt then (heldParts s).foldl mntOwner s else s

/-- One tick passes (R25, R305, R314, R315, R332). -/
def oneTick (s : State) : State :=
  if s.frozen then { s with sys := { s.sys with gt := s.gt + 1 } }
  else
    let k := s.clock.charge
    if 0 < k.hold then chargeCycles s (nearLock (holdClocks { s with clock := { k with hold := k.hold - 1 } }))
    else
      let s := mntHeld { s with clock := k }
      let t := droopClocks s
      chargeTurns s { t with sys := { t.sys with gt := s.gt + 1 } }

/-! ### Frames and budgets (R305, R315) -/

/-- The budget of an activity in the frame, as its register stood when the frame began. -/
def State.budget (s : State) (a : Activity) : Nat :=
  let at_ (inst num : Nat) : Nat := fldN (SMap.get regDefault s.clock.budgets (65536 * inst + num)) 0 12
  match a with
  | .partition p => at_ p 0x6032
  | .copyEngine e => at_ (e / 4) (0x4010 + e % 4)
  | .collective => at_ 0 0x5060
  | .agent _ => at_ 0 0x5061

/-- An activity that has used its ticks of the frame pauses until the next (R315). -/
def execBudgetExhausted (a : Activity) (s : State) : Out :=
  .next (if s.paused.contains a ∨ s.clock.used a < s.budget a then s else { s with paused := a :: s.paused })

/-- A frame begins (R42, R305, R315, R333, R436). -/
def frameBoundary (s : State) : State :=
  if s.gt < 4096 * s.clock.nextFrame then s
  else
    let f := s.gt / 4096
    let s := { s with
      paused := []
      clock := { s.clock with nextFrame := f + 1, spent := [], budgets := s.sys.regs, dueTasks := [] } }
    let s := (List.range (min 64 (s.regF 0 0x5122 0 7))).foldl (startTask f) s
    let s := (s.cores.filter (fun c => c.2.agentDead)).foldl (fun s c => startAgent s c.1) s
    prioClaims s

/-- A frame begins. -/
def execFrameBoundary (s : State) : Out := .next (frameBoundary s)

/-! ### Boost intervals (R307, R309, R310) -/

/-- The regulator domain of a cluster in effect. -/
def State.domainOf (s : State) (c : Nat) : Nat := AMap.getD s.doms c (c / 48)
/-- The clusters of a domain, in ascending order. -/
def State.domain (s : State) (g : Nat) : List Nat := (List.range Config.clusters).filter (fun c => decide (s.domainOf c = g))
/-- The step of a cluster. -/
def State.step (s : State) (c : Nat) : Nat := s.regF c 0x3010 0 2
/-- A cluster takes a step. The edge of its clock that has begun goes on at the new rate (DESIGN CHOICE: R24 states rates only; log 11). -/
def State.setStep (s : State) (c k : Nat) : State := (s.countCycles c).setRegF c 0x3010 0 2 k
/-- CLAIM of a cluster. -/
def State.claim (s : State) (c : Nat) : Nat := s.regF c 0x3010 2 2
/-- S2CL of a domain. -/
def State.s2cl (s : State) (g : Nat) : Nat := s.regF 0 (0x5030 + g) 16 8
/-- Set S2CL of a domain. -/
def State.setS2cl (s : State) (g x : Nat) : State := s.setRegF 0 (0x5030 + g) 16 8 x
/-- COUNT of a domain. -/
def State.permits (s : State) (g : Nat) : Nat := s.regF 0 (0x5030 + g) 0 8
/-- Set COUNT of a domain. -/
def State.setPermits (s : State) (g x : Nat) : State := s.setRegF 0 (0x5030 + g) 0 8 x
/-- Change the internal states of a domain. -/
def State.modDomain (s : State) (g : Nat) (f : Domain → Domain) : State := { s with domains := AMap.put s.domains g (f (AMap.getD s.domains g {})) }

/-- A cluster of a domain leaves a step for another; S2CL becomes 0xFF when its cluster leaves step 2. -/
def dropTo (g : Nat) (s : State) (c k : Nat) : State :=
  let s := if s.s2cl g = c ∧ k ≠ 2 then s.setS2cl g 0xFF else s
  s.setStep c k

/-- Step 1: a fourth quiet interval refills one permit. -/
def boostRefill (s : State) (g : Nat) : State :=
  let d := AMap.getD s.domains g {}
  if d.boosted then s.modDomain g (fun d => { d with refill := 0 })
  else if d.refill + 1 = 4 then
    (s.setPermits g (min (s.permits g + 1) (s.regF 0 (0x5030 + g) 8 8))).modDomain g (fun d => { d with refill := 0 })
  else s.modDomain g (fun d => { d with refill := d.refill + 1 })

/-- Pending releases are applied. -/
def boostRelease (g : Nat) (s : State) (c : Nat) : State :=
  if (s.cluster c).release then
    let s := dropTo g s c 0
    s.setCluster c { s.cluster c with release := false }
  else s

/-- Step 2: while FALL is set every boosted cluster drops one step. -/
def boostFall (s : State) (g : Nat) : State :=
  let s := (s.domain g).foldl (fun s c =>
    if s.step c = 0 then boostRelease g s c
    else if (s.cluster c).release then boostRelease g s c
    else dropTo g s c (s.step c - 1)) s
  if (s.domain g).any (fun c => decide (0 < s.step c)) then s else s.modDomain g (fun d => { d with fall := false })

/-- One claim of step 3. A claim of 2 by the very cluster that S2CL names finds S2CL taken as any other does: it is granted step 1, and
CLAIM stays 2 (log 41). -/
def boostGrant (g : Nat) (s : State) (c : Nat) : State :=
  if s.claim c = 1 then (dropTo g s c 1).setRegF c 0x3010 2 2 0
  else if s.s2cl g = 0xFF then ((s.setStep c 2).setS2cl g c).setRegF c 0x3010 2 2 0
  else dropTo g s c 1

/-- The claims of a domain, in ascending age, ties to the lower cluster. -/
def boostClaims (s : State) (g : Nat) : List Nat :=
  let cs := (s.domain g).filter (fun c => decide (s.claim c ≠ 0))
  cs.foldl (fun acc c =>
    let older := acc.takeWhile (fun x => decide ((s.cluster x).claimAge ≤ (s.cluster c).claimAge))
    older ++ c :: acc.drop older.length) []

/-- Steps 3 and 4: grants, then the charge. -/
def boostCharge (s : State) (g : Nat) : State :=
  let s := (s.domain g).foldl (boostRelease g) s
  let s := if 1 ≤ s.permits g then (boostClaims s g).foldl (boostGrant g) s else s
  let charge := ((s.domain g).map s.step).foldl (· + ·) 0
  if charge ≤ s.permits g then s.setPermits g (s.permits g - charge)
  else
    let s := (s.domain g).foldl (fun s c => s.setRegF c 0x3010 2 2 0) s
    (s.setPermits g 0).modDomain g (fun d => { d with fall := true })

/-- A domain at an interval boundary (R310). -/
def boostDomain (s : State) (g : Nat) : State :=
  let s := boostRefill s g
  let s := if (AMap.getD s.domains g {}).fall then boostFall s g else boostCharge s g
  let now := (s.domain g).any (fun c => decide (0 < s.step c))
  s.modDomain g (fun d => { d with boosted := now })

/-- A boost interval begins (R310, R348): where GT was stepped past several boundaries, each is performed in turn. -/
def execBoostIntervalBoundary (s : State) : Out :=
  .next (
    if s.gt < 8192 * s.clock.nextBoost then s
    else (List.range 4).foldl boostDomain { s with clock := { s.clock with nextBoost := s.clock.nextBoost + 1 } })

/-! ### Energy (R308, R442) -/

/-- A regulator's accumulator of 48 bits grows; WRAP is set when it wraps. -/
def addEnergy (s : State) (g x : Nat) : State :=
  let lo := 0x5040 + 2 * g
  let n := (s.reg 0 lo).toNat + 2 ^ 32 * s.regF 0 (lo + 1) 0 16 + x
  let s := (s.setReg 0 lo (BitVec.ofNat 32 n)).setRegF 0 (lo + 1) 0 16 (n / 2 ^ 32)
  if n < 2 ^ 48 then s else s.setRegF 0 (lo + 1) 31 1 1

/-- A counter of traffic grows by an amount the spec does not state, which may be none (R91). -/
def growFree (s : State) (num : Nat) : State := (s.addReg64 0 num (Config.freeValue s.fresh % 2 ^ 16)).tick

/-- The energy delivered in 256 ticks is added, cluster by cluster (R308); the lines moved meanwhile for the partitions that
hold rotations are counted (R91). -/
def execEnergyUpdate (amounts : List Nat) (s : State) : Out :=
  .next (
    if s.gt < 256 * s.clock.nextEnergy then s
    else
      let s := { s with clock := { s.clock with nextEnergy := s.gt / 256 + 1 } }
      let s := (List.range Config.clusters).foldl (fun s c =>
        let x := amounts.getD c 0
        let s := addEnergy s (s.domainOf c) x
        match s.clusterPart c with
        | some p => s.addReg64 0 (0x7000 + 32 * p + 2) x
        | none => s) s
      ((List.range Config.partitions).filter s.holds).foldl (fun s p => growFree (growFree s (0x7000 + 32 * p + 4)) (0x7000 + 32 * p + 6)) s)

/-! ### Droops (R306) -/

/-- A cluster's supply droops: its clock is stretched. -/
def execDroopStretch (cluster : Nat) (s : State) : Out :=
  .next (
    if (s.cluster cluster).droop ∨ Config.clusters ≤ cluster then s
    else
      let s := s.countCycles cluster
      s.setCluster cluster { s.cluster cluster with droop := true })

/-- The supply recovers. -/
def execDroopRecovery (cluster : Nat) (s : State) : Out :=
  .next (if (s.cluster cluster).droop then s.setCluster cluster { s.cluster cluster with droop := false, cyclesAt := s.gt } else s)

/-! ### The maintenance calendar (R311–R313, R439–R441) -/

/-- The length of a frame's slot (R311). -/
def slotLength (f : Nat) : Nat := if f ≠ 0 ∧ f % 1024 = 0 then 1536 else 384
/-- The classes of a frame's slot (R311). -/
def slotClass (f : Nat) : Nat := 1 + 2 * b2n (decide (f % 16 = 0)) + 4 * b2n (decide (f % 256 = 0)) + 8 * b2n (decide (f % 1024 = 0))

/-- The calendar registers describe the slot of a frame (R89, R312). -/
def setCalendar (s : State) (f : Nat) : State :=
  ((s.setReg64 0 0x5010 (BitVec.ofNat 64 (4096 * f))).setReg 0 0x5012 (BitVec.ofNat 32 (slotLength f))).setReg 0 0x5013
    (BitVec.ofNat 32 (slotClass f))

/-- Set the phase of the calendar. -/
def State.setPhase (s : State) (p : Phase) : State := { s with clock := { s.clock with phase := p } }

/-- The approach window of the next slot begins (R313). -/
def execApproachWindowStart (s : State) : Out :=
  .next (if s.clock.phase = .open_ ∧ 4096 * (s.clock.slotFrame + 1) ≤ s.gt + 256 then s.setPhase .approach else s)

/-- The domain that `regmap` selects for a cluster (R89). -/
def State.regmapOf (s : State) (c : Nat) : Nat := s.regF 0 (0x5020 + c / 16) (2 * (c % 16)) 2

/-- A changed `regmap` takes effect (R307): a cluster that changes its domain takes step 0, and its claim is cancelled. -/
def applyRegmap (s : State) : State :=
  (List.range Config.clusters).foldl (fun s c =>
    let old := s.domainOf c
    let new := s.regmapOf c
    if old = new then s
    else
      let s := dropTo old s c 0
      let s := s.setRegF c 0x3010 2 2 0
      let s := s.setCluster c { s.cluster c with release := false }
      { s with doms := if new = c / 48 then AMap.del s.doms c else AMap.put s.doms c new }) s

/-- A slot opens (R307, R312, R441). At an even frame the boost interval begins at the same tick: the clusters take their new domains
first, and the claims of the interval are judged in these (DESIGN CHOICE: the spec gives no order; log 58). -/
def slotOpen (s : State) : State :=
  if s.clock.phase ≠ .approach ∨ s.gt < 4096 * (s.clock.slotFrame + 1) then s
  else
    let f := s.gt / 4096
    let s := { s with clock := { s.clock with phase := .slot, slotFrame := f, slotLen := slotLength f, ext := 0 } }
    let s := setCalendar (applyRegmap s) (f + 1)
    let s := { s with parts := s.parts.map (fun (p : Nat × Part) => (p.1, { p.2 with mnt := false })) }
    (s.ops.filter (fun o => s.engBusy o.1)).foldl (fun s o => match o.2.part with | some p => mntOwner s p | none => s) s

/-- A slot opens. -/
def execSlotOpen (s : State) : Out := .next (slotOpen s)

/-- A sensor sweep's temperatures and lives, and the operator's warnings (R317, R453). -/
def sensorSweep (s : State) (r : SlotReport) : State :=
  let s := (r.temps.filter (fun t => decide (t.1 < Config.dies))).foldl (fun s t => s.setReg t.1 0x4000 (BitVec.ofNat 32 (t.2 % 2 ^ 12))) s
  (r.wears.filter (fun w => decide (w.1 < Config.clusters))).foldl (fun s w =>
    let days := w.2 % 2 ^ 16
    let s := s.setReg w.1 0x3020 (BitVec.ofNat 32 days)
    let low := decide (days < s.regF 0 0x5090 0 16)
    let s := if low && (s.cluster w.1).wearAbove then s.operRecord { cls := clsAGE, unit := w.1 } else s
    s.setCluster w.1 { s.cluster w.1 with wearAbove := !low }) s

/-- A port that leaves STATE 2 because the operator disables it: jobs that used it begin again (R321, R444). -/
def linkDisable (s : State) (p : Nat) : State :=
  let was := s.linkState p
  let s := s.setRegF 0 (0x5200 + 2 * p) 0 2 3
  if was ≠ 2 then s
  else unlockAlone (s.jobsLose p)

/-- The links at the close of a slot that carries LNK (R320, R321, R443): disabled ports, then what training came to. -/
def linkClose (s : State) (r : SlotReport) : State :=
  (List.range 128).foldl (fun s p =>
    if bit (s.reg 0 (0x50A0 + p / 32)) (p % 32) then linkDisable s p
    else
      let s := if s.linkState p = 3 then s.setRegF 0 (0x5200 + 2 * p) 0 2 1 else s
      match r.links.find? (fun x => decide (x.1 = p)) with
      | none => s
      | some (_, st, pmod, pport) =>
        if st = 2 then
          ((s.setRegF 0 (0x5200 + 2 * p) 0 2 2).setRegF 0 (0x5200 + 2 * p) 2 7 pport).setReg 0 (0x5201 + 2 * p) (BitVec.ofNat 32 pmod)
        else if s.linkState p = 2 then linkLost s p
        else s.setRegF 0 (0x5200 + 2 * p) 0 2 (min st 1)) s

/-- A slot closes (R311–R313, R317, R320, R321). -/
def slotClose (s : State) (r : SlotReport) : State :=
  let k := s.clock
  if k.phase ≠ .slot ∨ s.gt < 4096 * k.slotFrame + k.slotLen + 64 * k.ext then s
  else
    let s := s.setPhase .open_
    let s := if k.slotFrame = 0 then setCalendar s 1 else s
    let s := if k.slotFrame % 16 = 0 ∧ r.sensed then sensorSweep s r else s
    if k.slotFrame % 1024 = 0 then linkClose s r else s

/-- A slot closes. -/
def execSlotClose (r : SlotReport) (s : State) : Out := .next (slotClose s r)

/-- Housekeeping is not complete at the slot's end: the slot goes on for 64 ticks, never beyond START + 3,584 (R439, R441). From GT 384
on the calendar registers describe the slot of frame 1, also where the reset slot is extended (R312). -/
def execSlotOverrun (unit : Nat) (memory : Bool) (s : State) : Out :=
  .next (
    let k := s.clock
    let past := k.slotLen + 64 * k.ext
    if k.phase ≠ .slot ∨ s.gt < 4096 * k.slotFrame + past ∨ 3584 < past + 64 ∨ (if memory then 16 else 128) ≤ unit then s
    else
      let s := { s with clock := { k with ext := k.ext + 1 } }
      let s := if k.slotFrame = 0 then setCalendar s 1 else s
      let s := if k.ext = 0 then
          s.operRecord { cls := clsMNT, unit := if memory then unit else 0x200 + unit, ukind := if memory then 7 else 0 }
        else s
      mntHeld s)

/-! ### Synchronisation (R314) -/

/-- An offset as OFFS holds it. -/
def offsBits (x : Int) : Nat := (BitVec.ofInt 16 (max (-32768) (min x 32767))).toNat

/-- GT is stepped forward; the clusters' counts go on from where they are. -/
def stepGt (s : State) (n : Nat) : State :=
  let s := s.countAll
  let s := { s with sys := { s.sys with gt := s.gt + n } }
  (List.range Config.clusters).foldl (fun s c => s.setCluster c { s.cluster c with cyclesAt := s.gt }) s

/-- GT holds for some ticks. -/
def holdGt (s : State) (n : Nat) : State :=
  let s := s.countAll
  { s with clock := { s.clock with hold := s.clock.hold + n } }

/-- A link carries traffic: an access of this module to a peer or of a peer to it is outstanding, or a collective job has started. -/
def State.linkTraffic (s : State) : Bool :=
  s.remotes.any (fun x => !x.2.host) || !s.inbound.isEmpty || s.jobs.any (fun j => j.2.started && !j.2.finished)

/-- A follower measures its offset: at its first lock GT is stepped or held, later one tick is corrected at most once in 1,024
(R314). LOCKED becomes 1 when GT is within 8 ns of the reference. -/
def execGtSyncExchange (offset : Int) (s : State) : Out :=
  .next (
    if s.regF 0 0x5050 0 1 = 1 then s
    else
      let s := s.setRegF 0 0x5050 16 16 (offsBits offset)
      let lock (s : State) (b : Bool) : State := s.setRegF 0 0x5050 1 1 (b2n b)
      let near : Bool := decide (offset.natAbs ≤ 8)
      let move (s : State) (n : Nat) : State := if offset < 0 then stepGt s n else if 0 < offset then holdGt s n else s
      if !s.clock.everLocked then
        if s.linkTraffic then lock s near
        else
          let s := move s offset.natAbs
          lock { s with clock := { s.clock with everLocked := true, fixedAt := s.gt, locking := decide (0 < offset) && !near } }
            (decide (offset < 0) || near)
      else
        let s := lock s near
        if s.gt < s.clock.fixedAt + 1024 ∨ offset = 0 then s
        else
          let s := move s 1
          { s with clock := { s.clock with fixedAt := s.gt } })

/-! ### The frozen package (R316) -/

/-- The bytes of a scan chain: those of an array that holds tenant state as AES-256-GCM ciphertext with its tag, under the scan key of
its partition and the GT at the freeze (R43, R316). What a chain holds, and the IV, are not stated; DESIGN CHOICE: the tag stands
after the ciphertext, and there are no authenticated data (log 12). -/
def State.scanOut (s : State) (chain : Nat) : List Byte :=
  let p := Config.scanOwner chain s.frozenAt
  let bs := Config.scanBytes chain s.frozenAt
  if Config.partitions ≤ p then bs
  else
    let key := scanKey (s.partKey p) s.frozenAt
    let iv := (List.range 12).map (Config.scanIv chain s.frozenAt)
    let c := gcmCipher key iv bs
    c ++ gcmTag key iv [] c

/-- A scan chain is read out of the frozen package. -/
def execScanReadout (chain : Nat) (s : State) : Out :=
  .next (if s.frozen then { s with outbox := .scan chain s.frozenAt (s.scanOut chain) :: s.outbox } else s)

end Sys2Proof.Machine
end

