-- ==== Sys2Proof/Machine/Dispatch.lean ====
section
/-! DEFINITION. One arm for each row of the opcode table: the meaning of every instruction, command and event. -/

namespace Sys2Proof.Machine

/-- What an instruction, command or event does. -/
def exec (i : Instr) (s : State) : Host.Outcome State Fault Refusal :=
  match i with
  | .nop h o => Sys2Proof.Machine.execNop h o s
  | .mov h o => Sys2Proof.Machine.execMov h o s
  | .movi h o => Sys2Proof.Machine.execMovi h o s
  | .iadd h o => Sys2Proof.Machine.execIadd h o s
  | .iaddi h o => Sys2Proof.Machine.execIaddi h o s
  | .isub h o => Sys2Proof.Machine.execIsub h o s
  | .imul h o => Sys2Proof.Machine.execImul h o s
  | .imulhi h o => Sys2Proof.Machine.execImulhi h o s
  | .imad h o => Sys2Proof.Machine.execImad h o s
  | .imin h o => Sys2Proof.Machine.execImin h o s
  | .imax h o => Sys2Proof.Machine.execImax h o s
  | .iabs h o => Sys2Proof.Machine.execIabs h o s
  | .ineg h o => Sys2Proof.Machine.execIneg h o s
  | .and h o => Sys2Proof.Machine.execAnd h o s
  | .or h o => Sys2Proof.Machine.execOr h o s
  | .xor h o => Sys2Proof.Machine.execXor h o s
  | .not h o => Sys2Proof.Machine.execNot h o s
  | .andi h o => Sys2Proof.Machine.execAndi h o s
  | .ori h o => Sys2Proof.Machine.execOri h o s
  | .xori h o => Sys2Proof.Machine.execXori h o s
  | .shl h o => Sys2Proof.Machine.execShl h o s
  | .shr h o => Sys2Proof.Machine.execShr h o s
  | .sar h o => Sys2Proof.Machine.execSar h o s
  | .shli h o => Sys2Proof.Machine.execShli h o s
  | .shri h o => Sys2Proof.Machine.execShri h o s
  | .sari h o => Sys2Proof.Machine.execSari h o s
  | .rot h o => Sys2Proof.Machine.execRot h o s
  | .bfx h o => Sys2Proof.Machine.execBfx h o s
  | .bfi h o => Sys2Proof.Machine.execBfi h o s
  | .popc h o => Sys2Proof.Machine.execPopc h o s
  | .clz h o => Sys2Proof.Machine.execClz h o s
  | .brev h o => Sys2Proof.Machine.execBrev h o s
  | .sel h o => Sys2Proof.Machine.execSel h o s
  | .icmp h o => Sys2Proof.Machine.execIcmp h o s
  | .icmpi h o => Sys2Proof.Machine.execIcmpi h o s
  | .plog h o => Sys2Proof.Machine.execPlog h o s
  | .lea h o => Sys2Proof.Machine.execLea h o s
  | .idx h o => Sys2Proof.Machine.execIdx h o s
  | .vote h o => Sys2Proof.Machine.execVote h o s
  | .shfl h o => Sys2Proof.Machine.execShfl h o s
  | .vred h o => Sys2Proof.Machine.execVred h o s
  | .fadd h o => Sys2Proof.Machine.execFadd h o s
  | .fsub h o => Sys2Proof.Machine.execFsub h o s
  | .fmul h o => Sys2Proof.Machine.execFmul h o s
  | .ffma h o => Sys2Proof.Machine.execFfma h o s
  | .fmin h o => Sys2Proof.Machine.execFmin h o s
  | .fmax h o => Sys2Proof.Machine.execFmax h o s
  | .fcmp h o => Sys2Proof.Machine.execFcmp h o s
  | .fmuli h o => Sys2Proof.Machine.execFmuli h o s
  | .faddi h o => Sys2Proof.Machine.execFaddi h o s
  | .fdot2 h o => Sys2Proof.Machine.execFdot2 h o s
  | .fclass h o => Sys2Proof.Machine.execFclass h o s
  | .frnd h o => Sys2Proof.Machine.execFrnd h o s
  | .frcp h o => Sys2Proof.Machine.execFrcp h o s
  | .frsq h o => Sys2Proof.Machine.execFrsq h o s
  | .fsqrt h o => Sys2Proof.Machine.execFsqrt h o s
  | .fex2 h o => Sys2Proof.Machine.execFex2 h o s
  | .flg2 h o => Sys2Proof.Machine.execFlg2 h o s
  | .fsin h o => Sys2Proof.Machine.execFsin h o s
  | .fcos h o => Sys2Proof.Machine.execFcos h o s
  | .fsig h o => Sys2Proof.Machine.execFsig h o s
  | .ftanh h o => Sys2Proof.Machine.execFtanh h o s
  | .cvt h o => Sys2Proof.Machine.execCvt h o s
  | .npk h o => Sys2Proof.Machine.execNpk h o s
  | .nunpk h o => Sys2Proof.Machine.execNunpk h o s
  | .scl h o => Sys2Proof.Machine.execScl h o s
  | .sclx h o => Sys2Proof.Machine.execSclx h o s
  | .tag h o => Sys2Proof.Machine.execTag h o s
  | .tagr h o => Sys2Proof.Machine.execTagr h o s
  | .fmset h o => Sys2Proof.Machine.execFmset h o s
  | .bra h o => Sys2Proof.Machine.execBra h o s
  | .brx h o => Sys2Proof.Machine.execBrx h o s
  | .call h o => Sys2Proof.Machine.execCall h o s
  | .ret h o => Sys2Proof.Machine.execRet h o s
  | .exit h o => Sys2Proof.Machine.execExit h o s
  | .bar h o => Sys2Proof.Machine.execBar h o s
  | .bara h o => Sys2Proof.Machine.execBara h o s
  | .barw h o => Sys2Proof.Machine.execBarw h o s
  | .yld h o => Sys2Proof.Machine.execYld h o s
  | .gcall h o => Sys2Proof.Machine.execGcall h o s
  | .gret h o => Sys2Proof.Machine.execGret h o s
  | .trap h o => Sys2Proof.Machine.execTrap h o s
  | .rte h o => Sys2Proof.Machine.execRte h o s
  | .step h o => Sys2Proof.Machine.execStep h o s
  | .qput h o => Sys2Proof.Machine.execQput h o s
  | .qget h o => Sys2Proof.Machine.execQget h o s
  | .qctlDone h o => Sys2Proof.Machine.execQctlDone h o s
  | .qctlErr h o => Sys2Proof.Machine.execQctlErr h o s
  | .qctlRun h o => Sys2Proof.Machine.execQctlRun h o s
  | .qctlSetr h o => Sys2Proof.Machine.execQctlSetr h o s
  | .qctlStat h o => Sys2Proof.Machine.execQctlStat h o s
  | .ld h o => Sys2Proof.Machine.execLd h o s
  | .ldTyped h tag o => Sys2Proof.Machine.execLdTyped h tag o s
  | .st h o => Sys2Proof.Machine.execSt h o s
  | .lds h o => Sys2Proof.Machine.execLds h o s
  | .ldsTyped h tag o => Sys2Proof.Machine.execLdsTyped h tag o s
  | .sts h o => Sys2Proof.Machine.execSts h o s
  | .ldc h o => Sys2Proof.Machine.execLdc h o s
  | .atom h o => Sys2Proof.Machine.execAtom h o s
  | .atoms h o => Sys2Proof.Machine.execAtoms h o s
  | .red h o => Sys2Proof.Machine.execRed h o s
  | .fence h o => Sys2Proof.Machine.execFence h o s
  | .cbinv h o => Sys2Proof.Machine.execCbinv h o s
  | .tlook h o => Sys2Proof.Machine.execTlook h o s
  | .tset h o => Sys2Proof.Machine.execTset h o s
  | .tclr h o => Sys2Proof.Machine.execTclr h o s
  | .prf h o => Sys2Proof.Machine.execPrf h o s
  | .fget h o => Sys2Proof.Machine.execFget h o s
  | .fput h o => Sys2Proof.Machine.execFput h o s
  | .tinv h o => Sys2Proof.Machine.execTinv h o s
  | .mma h o => Sys2Proof.Machine.execMma h o s
  | .mmam h o => Sys2Proof.Machine.execMmam h o s
  | .mmt h o => Sys2Proof.Machine.execMmt h o s
  | .aalloc h o => Sys2Proof.Machine.execAalloc h o s
  | .afree h o => Sys2Proof.Machine.execAfree h o s
  | .azero h o => Sys2Proof.Machine.execAzero h o s
  | .ald h o => Sys2Proof.Machine.execAld h o s
  | .aput h o => Sys2Proof.Machine.execAput h o s
  | .tmld h o => Sys2Proof.Machine.execTmld h o s
  | .cpy h o => Sys2Proof.Machine.execCpy h o s
  | .gth h o => Sys2Proof.Machine.execGth h o s
  | .sct h o => Sys2Proof.Machine.execSct h o s
  | .coll h o => Sys2Proof.Machine.execColl h o s
  | .waitc h o => Sys2Proof.Machine.execWaitc h o s
  | .cntr h o => Sys2Proof.Machine.execCntr h o s
  | .srd h o => Sys2Proof.Machine.execSrd h o s
  | .swr h o => Sys2Proof.Machine.execSwr h o s
  | .gtm h o => Sys2Proof.Machine.execGtm h o s
  | .ccnt h o => Sys2Proof.Machine.execCcnt h o s
  | .calq h o => Sys2Proof.Machine.execCalq h o s
  | .bst h o => Sys2Proof.Machine.execBst h o s
  | .place h o => Sys2Proof.Machine.execPlace h o s
  | .seal h o => Sys2Proof.Machine.execSeal h o s
  | .pmpt h o => Sys2Proof.Machine.execPmpt h o s
  | .pairWord sb a b => Sys2Proof.Machine.execPairWord sb a b s
  | .grant core pa pb opm => Sys2Proof.Machine.execGrant core pa pb opm s
  | .reclaim core pa pb opm => Sys2Proof.Machine.execReclaim core pa pb opm s
  | .take core pa pb opm => Sys2Proof.Machine.execTake core pa pb opm s
  | .release core pa pb opm => Sys2Proof.Machine.execRelease core pa pb opm s
  | .window core pa pb opm => Sys2Proof.Machine.execWindow core pa pb opm s
  | .unwindow core pa pb opm => Sys2Proof.Machine.execUnwindow core pa pb opm s
  | .audbuf core pa pb opm => Sys2Proof.Machine.execAudbuf core pa pb opm s
  | .preset core pa pb opm => Sys2Proof.Machine.execPreset core pa pb opm s
  | .audtext core pa pb opm => Sys2Proof.Machine.execAudtext core pa pb opm s
  | .arm part => Sys2Proof.Machine.execArm part s
  | .disarm part => Sys2Proof.Machine.execDisarm part s
  | .ctlmark part => Sys2Proof.Machine.execCtlmark part s
  | .tohbm core => Sys2Proof.Machine.execTohbm core s
  | .tocxl core => Sys2Proof.Machine.execTocxl core s
  | .tocold core => Sys2Proof.Machine.execTocold core s
  | .query core => Sys2Proof.Machine.execQuery core s
  | .tierMoveComplete frame => Sys2Proof.Machine.execTierMoveComplete frame s
  | .tqcmd core off slots => Sys2Proof.Machine.execTqcmd core off slots s
  | .evictCxlDirect core part opf => Sys2Proof.Machine.execEvictCxlDirect core part opf s
  | .evictCxlCold core part opf => Sys2Proof.Machine.execEvictCxlCold core part opf s
  | .ckproll part cutgt => Sys2Proof.Machine.execCkproll part cutgt s
  | .ctxkill handle => Sys2Proof.Machine.execCtxkill handle s
  | .dbgctlFreeze => Sys2Proof.Machine.execDbgctlFreeze s
  | .testPortFreeze => Sys2Proof.Machine.execTestPortFreeze s
  | .cxlRetrain port => Sys2Proof.Machine.execCxlRetrain port s
  | .hqtailDoorbell ring value => Sys2Proof.Machine.execHqtailDoorbell ring value s
  | .hqskip ring value => Sys2Proof.Machine.execHqskip ring value s
  | .hqctlWrite ring value => Sys2Proof.Machine.execHqctlWrite ring value s
  | .ttcfgWrite handle value => Sys2Proof.Machine.execTtcfgWrite handle value s
  | .sillageConfigWrite part value => Sys2Proof.Machine.execSillageConfigWrite part value s
  | .energyCapture g odd => Sys2Proof.Machine.execEnergyCapture g odd s
  | .wearthrWrite value => Sys2Proof.Machine.execWearthrWrite value s
  | .registerWrite fn target part value => Sys2Proof.Machine.execRegisterWrite fn target part value s
  | .moduleReset => Sys2Proof.Machine.execModuleReset s
  | .boot => Sys2Proof.Machine.execBoot s
  | .frameBoundary => Sys2Proof.Machine.execFrameBoundary s
  | .budgetExhausted a => Sys2Proof.Machine.execBudgetExhausted a s
  | .boostIntervalBoundary => Sys2Proof.Machine.execBoostIntervalBoundary s
  | .energyUpdate amounts => Sys2Proof.Machine.execEnergyUpdate amounts s
  | .droopStretch cluster => Sys2Proof.Machine.execDroopStretch cluster s
  | .approachWindowStart => Sys2Proof.Machine.execApproachWindowStart s
  | .slotOpen => Sys2Proof.Machine.execSlotOpen s
  | .slotClose r => Sys2Proof.Machine.execSlotClose r s
  | .slotOverrun unit memory => Sys2Proof.Machine.execSlotOverrun unit memory s
  | .gtSyncExchange offset => Sys2Proof.Machine.execGtSyncExchange offset s
  | .waitSatisfied handle gi => Sys2Proof.Machine.execWaitSatisfied handle gi s
  | .blockStart launch => Sys2Proof.Machine.execBlockStart launch s
  | .gangStart launch => Sys2Proof.Machine.execGangStart launch s
  | .gangPriorityTimeout launch => Sys2Proof.Machine.execGangPriorityTimeout launch s
  | .gangCannotFit launch => Sys2Proof.Machine.execGangCannotFit launch s
  | .blockComplete handle => Sys2Proof.Machine.execBlockComplete handle s
  | .stepBoundaryComplete launch => Sys2Proof.Machine.execStepBoundaryComplete launch s
  | .blockSwitchOut handle => Sys2Proof.Machine.execBlockSwitchOut handle s
  | .blockPageIn handle => Sys2Proof.Machine.execBlockPageIn handle s
  | .matrixPass cluster => Sys2Proof.Machine.execMatrixPass cluster s
  | .engineOpComplete op => Sys2Proof.Machine.execEngineOpComplete op s
  | .scrubLine frame => Sys2Proof.Machine.execScrubLine frame s
  | .nopPacket ring => Sys2Proof.Machine.execNopPacket ring s
  | .indirect ring => Sys2Proof.Machine.execIndirect ring s
  | .launch cmd => Sys2Proof.Machine.execLaunch cmd s
  | .bundle cmd => Sys2Proof.Machine.execBundle cmd s
  | .copy cmd => Sys2Proof.Machine.execCopy cmd s
  | .signal cmd => Sys2Proof.Machine.execSignal cmd s
  | .wait cmd => Sys2Proof.Machine.execWait cmd s
  | .waitReread cmd => Sys2Proof.Machine.execWaitReread cmd s
  | .checkpoint cmd => Sys2Proof.Machine.execCheckpoint cmd s
  | .qconfig cmd => Sys2Proof.Machine.execQconfig cmd s
  | .packetFetch ring => Sys2Proof.Machine.execPacketFetch ring s
  | .ticketPost cmd => Sys2Proof.Machine.execTicketPost cmd s
  | .commandStart ticket => Sys2Proof.Machine.execCommandStart ticket s
  | .ticketRepost ticket => Sys2Proof.Machine.execTicketRepost ticket s
  | .commandRetire cmd => Sys2Proof.Machine.execCommandRetire cmd s
  | .msixMessageSend fn => Sys2Proof.Machine.execMsixMessageSend fn s
  | .queueRetest handle gi => Sys2Proof.Machine.execQueueRetest handle gi s
  | .gateDeadline handle gi => Sys2Proof.Machine.execGateDeadline handle gi s
  | .remoteTimeout id => Sys2Proof.Machine.execRemoteTimeout id s
  | .remoteResponse id a => Sys2Proof.Machine.execRemoteResponse id a s
  | .inboundPeerAccess x => Sys2Proof.Machine.execInboundPeerAccess x s
  | .atsResponse id grant => Sys2Proof.Machine.execAtsResponse id grant s
  | .atsInvalidation pasid page => Sys2Proof.Machine.execAtsInvalidation pasid page s
  | .invalidationCompletion pasid page => Sys2Proof.Machine.execInvalidationCompletion pasid page s
  | .pageRequestResponse pasid page code => Sys2Proof.Machine.execPageRequestResponse pasid page code s
  | .functionLevelReset fn => Sys2Proof.Machine.execFunctionLevelReset fn s
  | .pcieLinkDown => Sys2Proof.Machine.execPcieLinkDown s
  | .linkRetryFail port => Sys2Proof.Machine.execLinkRetryFail port s
  | .collRecordReceive job r => Sys2Proof.Machine.execCollRecordReceive job r s
  | .collChunkMark job chunk contrib => Sys2Proof.Machine.execCollChunkMark job chunk contrib s
  | .collStallTimeout job => Sys2Proof.Machine.execCollStallTimeout job s
  | .cxlPortLoss port => Sys2Proof.Machine.execCxlPortLoss port s
  | .blastError ukind unit x => Sys2Proof.Machine.execBlastError ukind unit x s
  | .turnGrant rot => Sys2Proof.Machine.execTurnGrant rot s
  | .turnQuantumExpiry rot => Sys2Proof.Machine.execTurnQuantumExpiry rot s
  | .turnForcedSealing part => Sys2Proof.Machine.execTurnForcedSealing part s
  | .checkpointDue part => Sys2Proof.Machine.execCheckpointDue part s
  | .checkpointCut part => Sys2Proof.Machine.execCheckpointCut part s
  | .checkpointFrameCopy part frame => Sys2Proof.Machine.execCheckpointFrameCopy part frame s
  | .checkpointCommit part => Sys2Proof.Machine.execCheckpointCommit part s
  | .droopRecovery cluster => Sys2Proof.Machine.execDroopRecovery cluster s
  | .scanReadout chain => Sys2Proof.Machine.execScanReadout chain s
  | .pcieLinkUp conventional => Sys2Proof.Machine.execPcieLinkUp conventional s
  | .cxlTrainingComplete port serial => Sys2Proof.Machine.execCxlTrainingComplete port serial s
  | .forcedSealingOverdue part => Sys2Proof.Machine.execForcedSealingOverdue part s
  | .wordNamingNoInstruction w => Sys2Proof.Machine.execWordNamingNoInstruction w s
  | .instructionFetchFailure f => Sys2Proof.Machine.execInstructionFetchFailure f s
  | .barMirrorRead fn num part word => Sys2Proof.Machine.execBarMirrorRead fn num part word s

end Sys2Proof.Machine
end

