-- ==== Sys2Proof/Machine/Schedule.lean ====
section
/-! DEFINITION. What the module does next: which word a core issues (R62, R65–R68, R313, R315), which events are due, which the
hardware may choose, and when a tick passes. Every choice the spec leaves to the hardware is taken from `choices` (assumption
log 3). -/

namespace Sys2Proof.Machine

/-! ### Events -/

/-- The state after an event. -/
def runEvent (s : State) (e : Instr) : State :=
  match exec e s with
  | .next t => t
  | _ => s

/-- An event is enabled: it changes the state. -/
def enabled (s : State) (e : Instr) : Bool := decide (runEvent s e ≠ s)

/-- Something has been done since GT last advanced. -/
def noteWork (s : State) : State := { s with clock := { s.clock with worked := true } }

/-- One tick passes, and nothing has been done since. -/
def passTick (s : State) : State :=
  let s := oneTick s
  { s with clock := { s.clock with worked := false } }

/-- An entry of the inbox can come from outside: it is an event, not a word of a program. -/
def isEvent (i : Instr) : Bool :=
  match i with
  | .wordNamingNoInstruction _ => false
  | .instructionFetchFailure _ => false
  | i => (encode i).isNone

/-- The first entry of the inbox that is due and satisfies a test, with the others. -/
def takeDue (gt : Nat) (test : Instr → Bool) : List (Nat × Instr) → Option (Instr × List (Nat × Instr))
  | [] => none
  | (t, i) :: es =>
    if t ≤ gt ∧ test i then some (i, es)
    else (takeDue gt test es).map (fun r => (r.1, (t, i) :: r.2))

/-- What a frozen package still answers to (R316). -/
def wakesFrozen (i : Instr) : Bool :=
  match i with
  | .moduleReset => true
  | .scanReadout _ => true
  | _ => false

/-- The next entry of the inbox arrives, when one is due. -/
def arrival (s : State) (test : Instr → Bool) : Option State :=
  (takeDue s.gt test s.inbox).map (fun r =>
    let s := { s with inbox := r.2 }
    if isEvent r.1 then noteWork (runEvent s r.1) else s)

/-! ### What is due (R303, R305–R313) -/

/-- The ports that were not retrained by the limit of a slot's extension: any of them, as the hardware turns out. -/
def untrained (s : State) : State × List Nat :=
  (List.range 128).foldl (fun a p => let c := a.1.choose 2; (c.1, if c.2 = 1 then p :: a.2 else a.2)) (s, [])

/-- The slot ends, or housekeeping overruns it, as the hardware turns out (R311, R439). At the limit of the extension, sweeps and ports
that are not done are abandoned: such a port takes STATE 0. Else a close of the module's own carries no link results, and what a sweep
of a slot that carries SNS measures has no stated value (log 43). -/
def slotEnd (s : State) : Option State :=
  let k := s.clock
  if k.phase ≠ .slot ∨ s.gt < 4096 * k.slotFrame + k.slotLen + 64 * k.ext then none
  else
    let (s, past) := s.choose 2
    let (s, memory) := if past = 1 then s.choose 2 else (s, 0)
    let (s, unit) := if past = 1 then s.choose (if memory = 1 then 16 else 128) else (s, 0)
    let longer := runEvent s (.slotOverrun unit (decide (memory = 1)))
    if past = 1 ∧ longer ≠ s then some longer
    else
      let free (n k : Nat) : List (Nat × Nat) := (List.range n).map (fun i => (i, Config.freeValue (s.fresh + k + i)))
      let (s, lost) := if past = 1 then untrained s else (s, [])
      let (s, swept) := if past = 1 then s.choose 2 else (s, 1)
      let sensed := decide (k.slotFrame % 16 = 0) && decide (swept = 1)
      let t := { s with fresh := if sensed then s.fresh + Config.dies + Config.clusters else s.fresh }
      some (runEvent t (.slotClose { temps := free Config.dies 0, wears := free Config.clusters Config.dies, links := lost.map (fun p => (p, 0, 0, 0)), sensed }))

/-- The energy delivered is whatever it is (R308). -/
def energyDue (s : State) : Option State :=
  if s.gt < 256 * s.clock.nextEnergy then none
  else
    some (runEvent { s with fresh := s.fresh + Config.clusters }
      (.energyUpdate ((List.range Config.clusters).map (fun c => Config.freeValue (s.fresh + c)))))

/-- The groups of the state, by handle and index. -/
def allGroups (s : State) : List (Nat × Nat) :=
  s.blocks.flatMap (fun hb => (List.range hb.2.groups.length).map (fun gi => (hb.1, gi)))

/-- The events that happen when their time comes. -/
def deadlines (s : State) : List Instr :=
  [.boot, .frameBoundary, .approachWindowStart, .slotOpen, .boostIntervalBoundary] ++
  s.clock.spent.map (fun x => .budgetExhausted x.1) ++
  (List.range 16).map .turnQuantumExpiry ++
  ((List.range Config.partitions).filter s.holds).map .turnForcedSealing ++
  (List.range Config.partitions).map .forcedSealingOverdue ++
  s.parts.map (fun p => .checkpointDue p.1) ++
  (allGroups s).map (fun g => .gateDeadline g.1 g.2) ++
  s.tickets.map (fun t => .ticketRepost t.1) ++
  (s.cmds.filter (fun c => c.2.pollDue s.gt)).map (fun c => .waitReread c.1) ++
  s.launches.map (fun l => .gangPriorityTimeout l.1) ++
  s.remotes.map (fun r => .remoteTimeout r.1) ++
  s.jobs.map (fun j => .collStallTimeout j.1)

/-! ### What the hardware may do next -/

/-- The events of the blocks and their groups. -/
def blockEvents (s : State) : List Instr :=
  (allGroups s).flatMap (fun g => [.waitSatisfied g.1 g.2, .queueRetest g.1 g.2]) ++
  s.blocks.flatMap (fun b => [.blockComplete b.1, .blockSwitchOut b.1, .blockPageIn b.1])

/-- The events of the launches. -/
def launchEvents (s : State) : List Instr :=
  s.launches.flatMap (fun l => [.blockStart l.1, .gangStart l.1, .gangCannotFit l.1, .stepBoundaryComplete l.1])

/-- The inbound accesses that may go on: the first of each port, when it waits for no page (R323). -/
def inboundReady (s : State) : List Inbound :=
  (s.inbound.filter (fun x => x.2.isNone && decide ((s.inbound.find? (fun y => decide (y.1.port = x.1.port))).map (·.1) = some x.1))).map (·.1)

/-- The events of the engines and of memory. -/
def engineEvents (s : State) : List Instr :=
  (s.clusters.filter (fun c => !c.2.reqs.isEmpty)).map (fun c => .matrixPass c.1) ++
  s.ops.map (fun o => .engineOpComplete o.1) ++
  (s.jobs.filterMap (fun j => if j.2.finished then j.2.op else none)).map .engineOpComplete ++
  s.jobs.flatMap (fun j => ownChunks s j.1 j.2) ++
  (inboundReady s).map .inboundPeerAccess ++
  s.frontiers.map (fun f => .scrubLine f.1) ++
  s.moves.map (fun m => .tierMoveComplete m.frame) ++
  s.host.inv.map (fun x => .invalidationCompletion x.pasid x.page) ++
  s.host.msix.map (fun m => .msixMessageSend (fnOf m.1))

/-- The event by which a ring goes on. -/
def ringEvent (s : State) (r : Nat) : Instr :=
  match headType s r with
  | some 0 => .nopPacket r
  | some 8 => .indirect r
  | _ => .packetFetch r

/-- The events of a command. -/
def cmdEvents (id : Nat) (c : Cmd) : List Instr :=
  match c.type with
  | 1 => [.ticketPost id, .launch id, .commandRetire id]
  | 2 => [.ticketPost id, .bundle id, .commandRetire id]
  | 3 => [.ticketPost id, .copy id, .commandRetire id]
  | 4 => [.ticketPost id, .signal id]
  | 5 => [.ticketPost id, .wait id, .waitReread id]
  | 6 => [.ticketPost id, .checkpoint id]
  | 7 => [.ticketPost id, .qconfig id]
  | _ => []

/-- The events of the rings and their commands. -/
def ringEvents (s : State) : List Instr :=
  ((List.range (1024 + 16)).filter (mayFetch s)).map (ringEvent s) ++
  s.cmds.flatMap (fun c => cmdEvents c.1 c.2) ++
  (ticketStarts s).map .commandStart

/-- The frames of a checkpoint that are still to be copied. -/
def frameEvents (p : Nat) (c : Ckpt) : List Instr :=
  match c.stream with
  | some m => (m.frames.filter (fun f => !m.copied.any (fun x => decide (x.1 = f)))).map (.checkpointFrameCopy p)
  | none => []

/-- The events of a partition. -/
def partEvents (p : Nat) (x : Part) : List Instr :=
  (match x.roll with | some cut => [.ckproll p (BitVec.ofNat 64 cut)] | none => []) ++
  (match x.ckpt with | some c => .checkpointCut p :: .checkpointCommit p :: frameEvents p c | none => [])

/-- The events of the partitions and their turns. -/
def turnEvents (s : State) : List Instr :=
  s.parts.flatMap (fun p => partEvents p.1 p.2) ++
  (List.range 16).map .turnGrant

/-- The events the hardware may choose from, each when it is enabled. -/
def events (s : State) : List Instr :=
  (blockEvents s ++ launchEvents s ++ engineEvents s ++ ringEvents s ++ turnEvents s).filter (enabled s)

/-! ### Words (R62, R65–R68) -/

/-- The activity whose ticks a group's words use (R315). -/
def wordActivity (v : View) : Option Activity :=
  match v.b.owner with
  | .launch (some p) => some (.partition p)
  | .launch none => none
  | _ => some (.agent v.core)

/-- A group comes to its next word: it is ready, in an active place of its own or of the tenants, and has ticks left. A counting task
runs in its agent's place (R42). -/
def atWord (s : State) (v : View) : Bool :=
  let placed : Bool :=
    match v.b.owner with
    | .launch _ => v.g.active
    | .agent c => (AMap.get? s.blocks (taskKey c)).isNone
    | .task _ => true
  let free : Bool := match wordActivity v with | some a => !s.paused.contains a | none => true
  placed && groupReady s v.handle v.g && free && decide (v.g.notBefore ≤ s.gt)

/-- A group may issue a word now: it comes to it, and the calendar does not hold it. -/
def mayIssue (s : State) (v : View) : Bool := atWord s v && !gatedWord s v

/-- The groups that may issue on a core. -/
def issuable (s : State) (core : Nat) : List View :=
  (allGroups s).filterMap (fun g =>
    match viewOf s g.1 g.2 with
    | some v => if v.core = core ∧ mayIssue s v then some v else none
    | none => none)

/-- The candidate that is taken before another: earlier age, then round-robin (R65). -/
def earlier? (last : Nat) (x y : View) : Bool :=
  decide (x.g.age < y.g.age) || (decide (x.g.age = y.g.age) && decide (slotTurn last x.gslot ≤ slotTurn last y.gslot))

/-- The candidate a core chooses (R65). -/
def chosen (last : Nat) : List View → Option View
  | [] => none
  | v :: vs =>
    match chosen last vs with
    | some w => if earlier? last v w then some v else some w
    | none => some v

/-- The words a core may issue next: those of the runs in its two issue slots, and the first of a run where a slot is free. -/
def coreWords (s : State) (core : Nat) : List View :=
  let vs := issuable s core
  let busy := vs.filter (fun v => v.g.inRun)
  if 2 ≤ busy.length then busy else busy ++ (chosen (s.core core).lastSlot (vs.filter (fun v => !v.g.inRun))).toList

/-- The cores that hold a block. -/
def busyCores (s : State) : List Nat := (s.blocks.filterMap (fun b => b.2.core?)).eraseDups

/-- The groups whose words the calendar holds, in the order they came to them (R313). -/
def noteHeld (s : State) : State :=
  if s.clock.phase = .open_ then s
  else
    let now := (allGroups s).filter (fun x => match viewOf s x.1 x.2 with | some v => atWord s v && gatedWord s v | none => false)
    let kept := s.heldWords.filter now.contains
    { s with heldWords := kept ++ now.filter (fun x => !kept.contains x) }

/-- The words that were held are performed in the order they came (R313). -/
def inArrival (s : State) (ws : List View) : List View :=
  match s.heldWords.filter (fun x => ws.any (fun v => decide ((v.handle, v.gi) = x))) with
  | [] => ws
  | x :: xs => ws.filter (fun v => decide ((v.handle, v.gi) = x) || !xs.contains (v.handle, v.gi))

/-- The words the module may issue next. -/
def words (s : State) : List View := inArrival s ((busyCores s).flatMap (coreWords s))

/-! ### Long instructions under forced sealing (R382) -/

/-- The long instructions (R382). -/
def isLong : Instr → Bool
  | .atom h _ => !h.u
  | .red h _ => !h.u
  | .fget h _ => !h.u
  | .fput h _ => !h.u
  | .tinv h _ => !h.u
  | _ => false

/-- The state in which a group's next word is fetched: its tick is used, and its core keeps the words of the line. -/
def beforeFetch (s : State) (v : View) : State :=
  let s := s.keepWords v.core v.g.asid.toNat v.pc
  match wordActivity v with
  | some a => s.act a
  | none => s

/-- The state after a word of a group, other than the one the module issues. -/
def runWord (s : State) (h gi : Nat) (i : Instr) : State := { runEvent { s with cursor := some (h, gi) } i with cursor := s.cursor }

/-- A context that is about to be sealed may stop inside a long word of a group (R382, R400): a number of its lanes is performed, if the
word can be performed at all and the sealing need wait for nothing. How many is the hardware's choice. -/
def stopPartway (h : Nat) (s : State) (gi : Nat) : State :=
  match viewOf s h gi with
  | none => s
  | some v =>
    if !mayIssue s v then s
    else match nextInstr (beforeFetch s v) v with
      | (s1, some (i, w)) =>
        if !isLong i then s
        else
          let s1 := s1.modGroup h gi (fun g => { g with word := w.map (fun x => (v.pc, x)) })
          let done : Bool := match (runWord s1 h gi i).group? h gi with | some g => decide ((g.slot v.d).pc = v.pc + 8) | none => false
          if !done then s
          else
            let (s, k) := s.choose 32
            let (s1, _) := s1.choose 32
            if k ≤ v.g.prog.toNat then s
            else
              let t := runWord (s1.modGroup h gi (fun g => { g with stopAt := k })) h gi i
              let t := t.modGroup h gi (fun g => { g with stopAt := 32 })
              if t.sealable h then t else s
      | _ => s

/-- The contexts on cores that a sealing takes from them, or stops there: `t` is the state after it. -/
def sealedBy (s t : State) : List (Nat × Nat) :=
  (s.blocks.filter (fun hb => hb.2.core?.isSome && s.isContext hb.1 && (match AMap.get? t.blocks hb.1 with
    | some b => b.core?.isNone || (b.halted && !hb.2.halted)
    | none => false))).map (fun hb => (hb.1, hb.2.groups.length))

/-- Before a forced sealing, the long words of the groups it seals stop partway (R382): the group that issues the sealing word is not
among them. -/
def beforeSealing (t s : State) : State :=
  let u := (sealedBy s t).foldl (fun s x => (List.range x.2).foldl (stopPartway x.1) s) s
  if (issuing u).isSome = (issuing s).isSome then u else s

/-- An event happens. -/
def happen (s : State) (e : Instr) : State :=
  match e with
  | .turnForcedSealing _ => runEvent (beforeSealing (runEvent s e) s) e
  | e => runEvent s e

/-- The first of a list of events that is enabled happens. -/
def firstEnabled (s : State) (es : List Instr) : Option State := (es.find? (enabled s)).map (happen s)

/-- What must happen before anything else does. -/
def dueNow (s : State) : Option State :=
  ((slotEnd s).or (energyDue s)).or (firstEnabled s (deadlines s))

/-- A word is performed. -/
def performWord (i : Instr) (s : State) : Host.Outcome State Fault Refusal :=
  match i with
  | .seal _ _ => exec i (beforeSealing (runEvent s i) s)
  | .pmpt _ _ => exec i (beforeSealing (runEvent s i) s)
  | i => exec i s

/-- A word is chosen: the next step issues it. -/
def pointAt (s : State) (v : View) : State :=
  let s := if v.g.inRun then s else s.setCore v.core { s.core v.core with lastSlot := v.gslot }
  { s with cursor := some (v.handle, v.gi), heldWords := s.heldWords.filter (fun x => decide (x ≠ (v.handle, v.gi)))
           clock := { s.clock with lastCore := v.core, wordLast := true } }

/-- An event is chosen. -/
def takeEvent (s : State) (e : Instr) : State :=
  noteWork (happen { s with clock := { s.clock with wordLast := false, picked := s.clock.picked + 1 } } e)

/-- How far a core lies after the one that last issued a word. -/
def coreTurn (s : State) (v : View) : Nat := (v.core + 767 - s.clock.lastCore) % 768

/-- The words with the core whose turn it is at their head. -/
def wordsInTurn (s : State) : List View :=
  let ws := words s
  let first : Option View := ws.foldl (fun best v => match best with
    | none => some v
    | some w => if coreTurn s v < coreTurn s w then some v else some w) none
  match first with
  | some v => ws.filter (fun w => decide (w.core = v.core)) ++ ws.filter (fun w => decide (w.core ≠ v.core))
  | none => []

/-- The events, beginning with the one whose turn it is. -/
def eventsInTurn (s : State) : List Instr :=
  let es := events s
  es.drop (s.clock.picked % es.length) ++ es.take (s.clock.picked % es.length)

/-- The active places of every core are given out (R67), and the module takes one of its words and events, or lets a tick
pass. With no list of choices, words and events take turns, the cores among themselves and the events among themselves. -/
def chooseNext (s : State) : State :=
  let s := noteHeld ((busyCores s).foldl (fun s c => promote (noteReady s c) c) s)
  let ws : List (View ⊕ Instr) := (wordsInTurn s).map Sum.inl
  let es : List (View ⊕ Instr) := (eventsInTurn s).map Sum.inr
  let all := if s.clock.wordLast then es ++ ws else ws ++ es
  if all.isEmpty then passTick s
  else
    let (s, k) := s.choose all.length
    match all[k]? with
    | some (.inl v) => pointAt s v
    | some (.inr e) => takeEvent s e
    | none => passTick s

/-- A frozen package only lets time pass, is reset, or is read out (R316). -/
def frozenNext (s : State) : State := (arrival s wakesFrozen).getD (passTick s)

/-- What the module does when no word is about to issue. -/
def pickNext (s : State) : State :=
  if s.frozen then frozenNext s
  else
    match arrival s (fun _ => true) with
    | some t => t
    | none =>
      match dueNow s with
      | some t => noteWork t
      | none =>
        if s.clock.worked then
          let (s, k) := s.choose 2
          if k = 0 then passTick s else chooseNext s
        else chooseNext s

/-! ### Issuing -/

/-- A word has been issued. -/
def settleStep (s : State) : State := noteWork { s with cursor := none }

/-- Fetch the word of the group the cursor names and do what it says. -/
def issueNext (s : State) : Host.Outcome State Fault Refusal :=
  match issuing s with
  | none => .next { s with cursor := none }
  | some v =>
    match nextInstr (beforeFetch s v) v with
    | (s, none) => .next (settleStep (holdAt s v (.fetch (wordReader v.handle v.gi))))
    | (s, some (i, w)) =>
      let s := s.modGroup v.handle v.gi (fun g => { g with word := w.map (fun x => (v.pc, x)) })
      match performWord i s with
      | .next t => .next (settleStep t)
      | r => r

/-! ### Placing a word for the next step -/

/-- A block of one group that fetches its first word at address 0 of ASID 0 on core 0. -/
def wordBlock : Block :=
  { owner := .launch (some 0), place := .core 0, gslots := [0]
    groups := [{ slot0 := { live := true, pc := 0, mask := allLanes }, active := true }]
    regsN := 255, accs := 8, scratchN := 1 }

/-- The translation of page 0 of ASID 0 to frame 0. -/
def wordPage : TlbEnt :=
  { asid := 0, lg := false, vpn := 0, frame := 0, ord := 0, w := true, x := true, ctl := false, host := false, peer := false
    exp := false, tier := 0, tgt := 0 }

/-- The state with eight bytes of memory at the address a group on core 0 fetches next (assumption log 10). -/
def placeWord (s : State) (w : W64) : State :=
  let h := s.nextHandle
  let s := s.setCore 0 { s.core 0 with tlb := [wordPage] }
  let s := s.setFt 0 (ftMake 1 0 false false false false false 0 false false false)
  let s := s.setLoc 0 .hbm
  { s with
    blocks := AMap.put s.blocks h wordBlock
    nextHandle := h + 1
    mem := memPut s.mem 0 (toBytes w.toNat 8)
    frontiers := AMap.del s.frontiers 0
    badLines := s.badLines.filter (fun l => decide (l ≠ 0))
    l2Bad := s.l2Bad.filter (fun l => decide (l ≠ 0))
    cursor := some (h, 0) }

end Sys2Proof.Machine
end

