-- ==== Sys2Proof/Machine/Step.lean ====
section
/-! DEFINITION. One step of the module. -/

namespace Sys2Proof.Machine

/-- One step: the group chosen issues its word; else an event happens, a word is chosen, or a tick passes. -/
def step (s : State) : Host.Outcome State Fault Refusal :=
  match s.cursor with
  | some _ => issueNext s
  | none => .next (pickNext s)

/-- The state with an instruction word placed where the next step fetches it (assumption log 10). -/
def State.withFetchWord (s : State) (nbits w : Nat) : State := placeWord s (BitVec.ofNat 64 (w % 2 ^ nbits))

end Sys2Proof.Machine
end

