-- ==== Sys2Proof/Safety.lean ====
section
/-! DEFINITION. The terms in which claims are stated: a word that reaches its effect, the results it leaves, and the invariant of the
machine's memory. -/

namespace Sys2Proof.Machine

/-- The checks that come before a word's own effect all pass (R371): the group `v0` issues, its run has started as `v`, no failed
access of an earlier word is to be delivered, the run is not too long, the encoding fits the launch, and the authority holds the
right. -/
structure Issues (i : Instr) (ends : Bool) (r : Rights) (s : State) (v0 v : View) : Prop where
  first : issuing s = some v0
  view : viewOf (startRun s v0) v0.handle v0.gi = some v
  quiet : v.g.pend.find? (fun f => decide (v.g.level ≤ f.level)) = none
  count : v.sl.cnt < 31 ∨ ends = true
  enc : encOk v.regs v.accs i = true
  right : r.allow v.g.auth.toNat = true

/-- The step of a machine that neither faults nor refuses. -/
def Goes (s : State) : Prop := ∃ t, step s = .next t

/-- The register files of a group other than one. -/
inductive File where
  /-- Vector registers. -/
  | v
  /-- Vector predicates. -/
  | p
  /-- Uniform registers. -/
  | s
  /-- Uniform predicates. -/
  | q
  deriving DecidableEq, Repr

/-- `R'` differs from `R` at most in one register file: in the others every register of every lane reads the same, and the
accumulator allocation, the format registers written and the results still to come stay. -/
def OnlyIn (f : File) (R R' : Regs) : Prop :=
  (f = .v ∨ ∀ r l, R'.vec r l = R.vec r l) ∧ (f = .p ∨ ∀ k l, R'.pred k l = R.pred k l) ∧
  (f = .s ∨ ∀ r, R'.uni r = R.uni r) ∧ (f = .q ∨ ∀ k, R'.upred k = R.upred k) ∧ R'.acc = R.acc ∧ R'.fm = R.fm

/-- What a result writes into register `r`: its low word in `d`, and for 64 bits its high word in `d + 1` (R78). -/
def regPart (w : Bool) (d r : Nat) (x : W64) : Option W32 :=
  if r = d then some (lo32 x) else if w = true ∧ r = d + 1 then some (hi32 x) else none

/-- `R` is the issuing group's register files with a result of 32 or 64 bits: the uniform file's when the word is in uniform form and
its guard holds, else one in each executing lane, with its tag; every other register is as before. -/
def WroteN (v : View) (h : Head) (w : Bool) (d : Nat) (tag : BitVec 4) (f : Nat → W64) (R : Regs) : Prop :=
  OnlyIn (if h.u then .s else .v) v.g.live R ∧
  if h.u then ∀ r, R.uni r = (if v.go h then regPart w d r (f 0) else none).getD (v.g.live.uni r)
  else ∀ r l, l < 32 →
    R.vec r l = match (if bit (v.lanes h) l then regPart w d r (f l) else none) with
      | some x => { bits := x, tag }
      | none => v.g.live.vec r l

/-- `WroteN` for a result of 32 bits. -/
def Wrote (v : View) (h : Head) (d : Nat) (tag : BitVec 4) (f : Nat → W32) (R : Regs) : Prop :=
  WroteN v h false d tag (fun l => (f l).zeroExtend 64) R

/-- `R` is the issuing group's register files with a predicate result; a write of `p7` or `q7` is discarded (R77). -/
def WrotePrd (v : View) (h : Head) (k : Nat) (f : Nat → Bool) (R : Regs) : Prop :=
  OnlyIn (if h.u then .q else .p) v.g.live R ∧
  if h.u then ∀ j, R.upred j = if v.go h = true ∧ j = k ∧ j ≠ 7 then f 0 else v.g.live.upred j
  else ∀ j l, l < 32 → R.pred j l = if bit (v.lanes h) l = true ∧ j = k ∧ j ≠ 7 then f l else v.g.live.pred j l

/-- `R` is the issuing group's register files with one uniform register written. -/
def WroteUni (v : View) (d : Nat) (x : W32) (R : Regs) : Prop :=
  OnlyIn .s v.g.live R ∧ ∀ r, R.uni r = if r = d then x else v.g.live.uni r

/-- A word completes: nothing changes but the issuing group's register files, as said, and what the end of a word does. -/
def Ends (i : Instr) (h : Head) (s : State) (v0 v : View) (P : Regs → Prop) : Prop :=
  ∃ R, exec i s = .next (finish v h.s (v.put (startRun s v0) R)) ∧ P R

/-- A word with a rounding mode completes; under rs (4) the group's random counter advances once if anything executed (R108). -/
def EndsRs (i : Instr) (h : Head) (o : F3) (s : State) (v0 v : View) (P : Regs → Prop) : Prop :=
  ∃ R, exec i s = .next (finish v h.s
    (if rnd o = 4 ∧ (v.units h).isEmpty = false then
      (v.put (startRun s v0) R).modGroup v.handle v.gi (fun g => { g with rngctr := g.rngctr + 1 })
    else v.put (startRun s v0) R)) ∧ P R

/-- The number of elements of a register of a type (R93). -/
def elems (t : Nat) : Nat := if t = 0 then 1 else 2

/-- The exact value of a finite number. -/
def realVal (neg : Bool) (m : Nat) (e : Int) : ℚ := (if neg then -1 else 1) * m * 2 ^ e

/-- Bits of a format that hold a finite number of this value. -/
def Holds (f : Fmt) (bits : Nat) (y : ℚ) : Prop := ∃ s m e, f.decode bits = .fin s m e ∧ realVal s m e = y

/-- A word that sets the slots itself completes: the issuing group is changed, and its run ends. -/
def Jumps (i : Instr) (s : State) (v0 v : View) (f : Group → Group) : Prop :=
  exec i s = .next (finishJump v ((startRun s v0).modGroup v.handle v.gi f))

/-- The issuing slot goes on at an address, one more word of its run issued. -/
def goTo (v : View) (pc : W64) (g : Group) : Group :=
  g.setSlot v.d { g.slot v.d with pc, cnt := (g.slot v.d).cnt + 1, wait := .none }

/-- A word completes by waiting: the issuing slot waits at it, and its run ends. -/
def Parks (i : Instr) (s : State) (v : View) (w : Wait) (s' : State) : Prop :=
  exec i s = .next (endRun ((s'.modGroup v.handle v.gi (fun g => g.setSlot v.d { g.slot v.d with wait := w })).modBlock v.handle
    Block.checkBar) v)

/-- Nothing of the group's earlier words is still outstanding at the memory system: no held access, no failed or unanswered access to
the host or a peer. -/
def Drained (s : State) (v0 v : View) : Prop :=
  v.g.held = [] ∧ v.g.remFail = [] ∧ (startRun s v0).remotesOf v.handle v.gi = []

/-- A word's fault of a class, for the lanes of the issuing slot. -/
def RaisesAt (i : Instr) (s : State) (v0 v : View) (cls : Nat) : Prop :=
  exec i s = .next (faultAt (startRun s v0) (startRun s v0) v { cls, lanes := v.mask })

/-- A queue instruction reaches its descriptor in good order (R244, R379): the 64 bytes at the home, through a page marked for control
data, and the captured line, which together make a valid descriptor. -/
def QueueAt (s : State) (v : View) (va : W64) (s' : State) (pa : Nat) (home : List Byte) (q : Queue) : Prop :=
  ∃ s2 line x e so, judge s (some v.core) v.g.asid.toNat .block va 64 = (s2, .mem pa true x true e so) ∧ s2.physRead pa 64 = .ok home ∧
    capture s2 v.core v.g.asid.toNat va 64 = (s', .ok line) ∧ q = Queue.ofBytes home line ∧ q.ok = true

/-! ### Accesses -/

/-- Every executing lane of an access reaches a present page of device memory that meets no uncorrectable error, and nothing of the
group is held or outstanding: the state after the translations and each lane's physical address. -/
structure Lands (s1 : State) (v : View) (k : Acc) (w : Nat) (us : List (Nat × W64)) (s2 : State) (pa : Nat → Nat) : Prop where
  judged : ∃ js, judgeAll s1 v k w us = (s2, js) ∧ ∀ j ∈ js, ∃ wr x c e so, j.2.2 = .mem (pa j.1) wr x c e so
  clean : ∀ u ∈ us, s2.eccUnit (pa u.1) w false = none
  held : v.g.held = []
  failed : v.g.remFail = []
  quiet : s1.remotesOf v.handle v.gi = []

/-- Memory after some lanes, in order, each replace the `w` bytes at their location, and the bytes each found there. -/
def memRun (w : Nat) (at_ : Nat → Nat) (new : Nat → List Byte → List Byte) : (Nat → Byte) → List Nat → (Nat → Byte) × (Nat → List Byte)
  | m, [] => (m, fun _ => [])
  | m, l :: ls =>
    let old := (List.range w).map (fun k => m (at_ l + k))
    let r := memRun w at_ new (fun a => if at_ l ≤ a ∧ a < at_ l + w then (new l old).getD (a - at_ l) 0 else m a) ls
    (r.1, fun x => if x = l then old else r.2 x)

/-- Registers hold loaded bytes: in the lanes listed, word `j` of a lane's bytes in register `d + j` with the tag; every other register
is as before (R258). -/
def Loaded (v : View) (u : Bool) (d w : Nat) (tag : BitVec 4) (ls : List Nat) (f : Nat → List Byte) (R : Regs) : Prop :=
  let word (l j : Nat) : W32 := BitVec.ofNat 32 (ofBytes (((f l).drop (4 * j)).take 4))
  let here (r l : Nat) : Bool := decide (l ∈ ls ∧ d ≤ r ∧ 4 * (r - d) < w)
  OnlyIn (if u then .s else .v) v.g.live R ∧
  if u then ∀ r, R.uni r = if here r 0 then word 0 (r - d) else v.g.live.uni r
  else ∀ r l, l < 32 → R.vec r l = if here r l then { bits := word l (r - d), tag } else v.g.live.vec r l

/-- A byte of the register group from `d` on, little-endian (R258). -/
def groupByte (v : View) (u : Bool) (d l k : Nat) : Byte :=
  (if u then v.g.base.uni (d + k / 4) else (v.g.base.vec (d + k / 4) l).bits).extractLsb' (8 * (k % 4)) 8

/-- The lanes of a scratchpad access each reach their block offset, where no error lies. -/
structure SpLands (s1 : State) (v : View) (w : Nat) (us : List (Nat × W64)) (off : Nat → Nat) : Prop where
  judged : ∀ u ∈ us, spJudge v w u.2 = .at_ (off u.1)
  clean : ∀ u ∈ us, s1.spBroken v.core v.b (off u.1) = false
  held : v.g.held = []
  failed : v.g.remFail = []
  quiet : s1.remotesOf v.handle v.gi = []

/-- `t` is `s` but for device memory: its bytes, its scrub frontiers and the lines that hold errors. -/
def OnlyMemory (s t : State) : Prop :=
  t = { s with mem := t.mem, frontiers := t.frontiers, badLines := t.badLines, l2Bad := t.l2Bad }

/-- A word has handed one operation of a class to the engines (R276): the operation `op`, numbered `s.nextOp`, is outstanding beside
those before; the group's counter and its count of submissions are one higher; the group has changed by `f` besides, and nothing else
but the cluster's reservation table and the free numbers taken. -/
def Submits (s t : State) (v : View) (cls : Nat) (op : EngOp) (f : Group → Group) : Prop :=
  t = { s with ops := t.ops, nextOp := s.nextOp + 1, blocks := t.blocks, clusters := t.clusters, fresh := t.fresh } ∧
  AMap.get? t.ops s.nextOp = some op ∧ (∀ k, k ≠ s.nextOp → AMap.get? t.ops k = AMap.get? s.ops k) ∧
  op.owner = .group v.handle v.gi v.g.gates.length ∧ op.cls = cls ∧ op.asid = v.g.asid ∧ op.auth = v.g.auth ∧ op.part = v.b.part? ∧
  op.cluster = v.cluster ∧ op.iaddr = v.pc ∧ op.seq = v.g.subs.get cls ∧ op.done = false ∧ op.fail = none ∧ op.cancelled = false ∧
  (∀ h, h ≠ v.handle → AMap.get? t.blocks h = AMap.get? s.blocks h) ∧
  t.group? v.handle v.gi = some (f { v.g with
    counters := v.g.counters.set cls (v.g.counters.get cls + 1), subs := v.g.subs.set cls (v.g.subs.get cls + 1) })

/-- `n` bytes captured line by line from an address on, with the state after: none when a line is not at hand (R426). -/
def linesFrom (core a : Nat) : Nat → State → W64 → Nat → Option (State × List Byte)
  | 0, s, _, n => if n = 0 then some (s, []) else none
  | fuel + 1, s, va, n =>
    if n = 0 then some (s, [])
    else
      let m := min n (64 - va.toNat % 64)
      match capture s core a va m with
      | (s', .ok bs) => (linesFrom core a fuel s' (va + BitVec.ofNat 64 m) (n - m)).map (fun x => (x.1, bs ++ x.2))
      | _ => none

/-- The lanes of `ldc`, in order, each capture their bytes: each address is a multiple of the width and canonical, and each capture begins in
the state the one before left (R263, R426). -/
def CapturesAll (core a w : Nat) (f : Nat → List Byte) : List (Nat × W64) → State → State → Prop
  | [], s, t => t = s
  | (l, va) :: us, s, t =>
    va.toNat % w = 0 ∧ va.toNat < 2 ^ 56 ∧ (f l).length = w ∧
      ∃ s', capture s core a va w = (s', .ok (f l)) ∧ CapturesAll core a w f us s' t

/-- Register words whose write has no effect but on the word itself, and no bounds of its own. -/
def plainReg (n : Nat) : Bool :=
  decide (0x2000 ≤ n) && !([0x2080, 0x2082, 0x2085, 0x2087, 0x208A, 0x5060, 0x5061, 0x5070, 0x5084, 0x5086, 0x5090, 0x5122, 0x6002, 0x6020,
    0x6030, 0x6032, 0x6034, 0x6038, 0x6039, 0x603A, 0x6052, 0x6082, 0x6084, 0x6086, 0x6095].contains n) &&
  !decide (0x4010 ≤ n ∧ n ≤ 0x4013) && !decide (0x5030 ≤ n ∧ n ≤ 0x5033) && !decide (0x50B0 ≤ n ∧ n ≤ 0x50B7) &&
  !decide (0x5500 ≤ n ∧ n ≤ 0x557F) && !decide (0x5B00 ≤ n ∧ n ≤ 0x5B7F) && !decide (0x6100 ≤ n ∧ n ≤ 0x617F)

/-- The fields of a frame ownership entry (R35). -/
structure FtFields where
  kind : Nat
  part : Nat
  ctl : Bool
  win : Bool
  opm : Bool
  armA : Bool
  armB : Bool
  pb : Nat
  pool : Bool
  aub : Bool
  aux : Bool
  deriving DecidableEq, Repr

/-- The fields of an entry. -/
def ftView (e : W64) : FtFields :=
  { kind := ftKind e, part := ftPart e, ctl := ftCtl e, win := ftWin e, opm := ftOpm e, armA := ftArmA e, armB := ftArmB e, pb := ftPb e,
    pool := ftPool e, aub := ftAub e, aux := ftAux e }

/-- No frame command, eviction or scrub waits. -/
def State.noWaits (s : State) : Prop := s.ftWaits = [] ∧ s.evWaits = [] ∧ s.scrubQ = []

/-- The memory of the machine and its frame ownership table, location table and system registers are in canonical form. -/
def State.canonical (s : State) : Prop :=
  Memory.wf s.mem = true ∧ SMap.wf (fun _ => 0) s.fot = true ∧ SMap.wf homeLoc s.loc = true

end Sys2Proof.Machine
end

