-- ==== Sys2Proof/Certificates/Slice0/Obligations.lean ====
section
/-! DEFINITION. The statements for the provers. Each is said of the machine: of `exec` on every state and operands that meet its
hypotheses, of `step`, or of the decoder. -/

open Sys2Proof Sys2Proof.Machine

/-! ### Moves, arithmetic and logic (R194–R196) -/

/-- R194: `nop` changes nothing but what the end of a word changes; `mov` and `movi` write their source; `iadd` and `isub` give the exact sum or
difference of the operands read as signed or unsigned, modulo 2^n, or clamped to n bits with SAT; `iaddi` gives the sum with IMM32. -/
def Obligations.MovesAndSums : Prop :=
  (∀ (s : State) (v0 v : View) (h : Head),
    (∀ o : F3, Issues (.nop h o) h.s .all s v0 v → exec (.nop h o) s = .next (finish v h.s (startRun s v0))) ∧
    (∀ o : F3, Issues (.mov h o) h.s .all s v0 v →
      Ends (.mov h o) h s v0 v (WroteN v h (bit o.mod 0) o.dst.toNat 0 (fun l => v.srcN h (bit o.mod 0) (bit o.mod 13) o.sa l))) ∧
    (∀ o : FI, Issues (.movi h o) h.s .all s v0 v → Ends (.movi h o) h s v0 v (Wrote v h o.dst.toNat 0 (fun _ => o.imm)))) ∧
  (∀ (s : State) (v0 v : View) (h : Head),
    (∀ o : F3, Issues (.iadd h o) h.s .all s v0 v →
      Ends (.iadd h o) h s v0 v (WroteN v h (bit o.mod 0) o.dst.toNat 0 (fun l =>
        let w := bit o.mod 0
        let rd (x : W64) : Int := intOf w (bit o.mod 2) x
        let x := rd (v.srcN h w (bit o.mod 13) o.sa l) + rd (v.srcN h w (bit o.mod 14) o.sb l)
        let n := if w then 64 else 32
        BitVec.ofInt 64 (if bit o.mod 1 then (if bit o.mod 2 then satU x n else satS x n) else x)))) ∧
    (∀ o : F3, Issues (.isub h o) h.s .all s v0 v →
      Ends (.isub h o) h s v0 v (WroteN v h (bit o.mod 0) o.dst.toNat 0 (fun l =>
        let w := bit o.mod 0
        let rd (x : W64) : Int := intOf w (bit o.mod 2) x
        let x := rd (v.srcN h w (bit o.mod 13) o.sa l) - rd (v.srcN h w (bit o.mod 14) o.sb l)
        let n := if w then 64 else 32
        BitVec.ofInt 64 (if bit o.mod 1 then (if bit o.mod 2 then satU x n else satS x n) else x)))) ∧
    (∀ o : FI, Issues (.iaddi h o) h.s .all s v0 v →
      Ends (.iaddi h o) h s v0 v (Wrote v h o.dst.toNat 0 (fun l =>
        BitVec.ofNat 32 ((v.src h false o.sa l).toNat + o.imm.toNat)))))

/-- R194: `imul`, `imulhi` and `imad` give words of the exact product, `imin` and `imax` the smaller and larger operand, `iabs` and
`ineg` the magnitude and the negative of the signed operand, clamped with SAT. -/
def Obligations.ProductsAndExtremes : Prop :=
  ∀ (s : State) (v0 v : View) (h : Head) (o : F3),
    let a (w : Bool) (l : Nat) : W64 := v.srcN h w (bit o.mod 13) o.sa l
    let b (w : Bool) (l : Nat) : W64 := v.srcN h w (bit o.mod 14) o.sb l
    let c (l : Nat) : W64 := v.srcN h (bit o.mod 0) (bit o.mod 15) o.sc l
    let u := bit o.mod 2
    let sgn (l : Nat) : Int := (v.src h (bit o.mod 13) o.sa l).toInt
    (Issues (.imul h o) h.s .all s v0 v → Ends (.imul h o) h s v0 v (Wrote v h o.dst.toNat 0 (fun l =>
      BitVec.ofNat 32 ((a false l).toNat * (b false l).toNat)))) ∧
    (Issues (.imulhi h o) h.s .all s v0 v → Ends (.imulhi h o) h s v0 v (Wrote v h o.dst.toNat 0 (fun l =>
      BitVec.ofInt 32 (intOf false u (a false l) * intOf false u (b false l) / 2 ^ 32)))) ∧
    (Issues (.imad h o) h.s .all s v0 v → Ends (.imad h o) h s v0 v (WroteN v h (bit o.mod 0) o.dst.toNat 0 (fun l =>
      BitVec.ofInt 64 (intOf false u (a false l) * intOf false u (b false l) + (c l).toNat)))) ∧
    (Issues (.imin h o) h.s .all s v0 v → Ends (.imin h o) h s v0 v (WroteN v h (bit o.mod 0) o.dst.toNat 0 (fun l =>
      BitVec.ofInt 64 (min (intOf (bit o.mod 0) u (a (bit o.mod 0) l)) (intOf (bit o.mod 0) u (b (bit o.mod 0) l)))))) ∧
    (Issues (.imax h o) h.s .all s v0 v → Ends (.imax h o) h s v0 v (WroteN v h (bit o.mod 0) o.dst.toNat 0 (fun l =>
      BitVec.ofInt 64 (max (intOf (bit o.mod 0) u (a (bit o.mod 0) l)) (intOf (bit o.mod 0) u (b (bit o.mod 0) l)))))) ∧
    (Issues (.iabs h o) h.s .all s v0 v → Ends (.iabs h o) h s v0 v (Wrote v h o.dst.toNat 0 (fun l =>
      BitVec.ofInt 32 (if bit o.mod 1 then satS (sgn l).natAbs 32 else (sgn l).natAbs)))) ∧
    (Issues (.ineg h o) h.s .all s v0 v → Ends (.ineg h o) h s v0 v (Wrote v h o.dst.toNat 0 (fun l =>
      BitVec.ofInt 32 (if bit o.mod 1 then satS (-sgn l) 32 else -sgn l))))

/-- R195: the logic instructions act on each bit; left shifts multiply and right shifts divide by a power of two, rounding down, for every
amount; `rot` turns by the amount modulo 32; `popc` counts ones, `clz` leading zeros, `brev` reverses; none takes a class or a flag, and an
immediate shift amount is 0–31. -/
def Obligations.LogicAndShifts : Prop :=
  (∀ (s : State) (v0 v : View) (h : Head),
    let each (i : Instr) (d : Nat) (f : Nat → Nat → Bool) : Prop :=
      Issues i h.s .all s v0 v → ∃ x : Nat → W32, Ends i h s v0 v (Wrote v h d 0 x) ∧ ∀ l k, k < 32 → bit (x l) k = f l k
    ∀ (o : F3) (p : FI),
      let a (l k : Nat) : Bool := bit (v.src h (bit o.mod 13) o.sa l) k
      let b (l k : Nat) : Bool := bit (v.src h (bit o.mod 14) o.sb l) k
      let c (l k : Nat) : Bool := bit (v.src h false p.sa l) k
      each (.and h o) o.dst.toNat (fun l k => a l k && b l k) ∧
      each (.or h o) o.dst.toNat (fun l k => a l k || b l k) ∧
      each (.xor h o) o.dst.toNat (fun l k => a l k != b l k) ∧
      each (.not h o) o.dst.toNat (fun l k => !a l k) ∧
      each (.andi h p) p.dst.toNat (fun l k => c l k && bit p.imm k) ∧
      each (.ori h p) p.dst.toNat (fun l k => c l k || bit p.imm k) ∧
      each (.xori h p) p.dst.toNat (fun l k => c l k != bit p.imm k)) ∧
  (∀ (s : State) (v0 v : View) (h : Head),
    let gives (i : Instr) (d : Nat) (f : Nat → W32) : Prop := Issues i h.s .all s v0 v → Ends i h s v0 v (Wrote v h d 0 f)
    ∀ (o : F3) (p : FI),
      let a (l : Nat) : W32 := v.src h (bit o.mod 13) o.sa l
      let n (l : Nat) : Nat := (v.src h (bit o.mod 14) o.sb l).toNat
      let c (l : Nat) : W32 := v.src h false p.sa l
      let m : Nat := p.imm.toNat
      gives (.shl h o) o.dst.toNat (fun l => BitVec.ofNat 32 ((a l).toNat * 2 ^ n l)) ∧
      gives (.shr h o) o.dst.toNat (fun l => BitVec.ofNat 32 ((a l).toNat / 2 ^ n l)) ∧
      gives (.sar h o) o.dst.toNat (fun l => BitVec.ofInt 32 ((a l).toInt / (2 ^ n l : Nat))) ∧
      gives (.shli h p) p.dst.toNat (fun l => BitVec.ofNat 32 ((c l).toNat * 2 ^ m)) ∧
      gives (.shri h p) p.dst.toNat (fun l => BitVec.ofNat 32 ((c l).toNat / 2 ^ m)) ∧
      gives (.sari h p) p.dst.toNat (fun l => BitVec.ofInt 32 ((c l).toInt / (2 ^ m : Nat))) ∧
      gives (.rot h o) o.dst.toNat (fun l => BitVec.ofNat 32 ((a l).toNat * 2 ^ (n l % 32) + (a l).toNat / 2 ^ (32 - n l % 32)))) ∧
  (∀ (s : State) (v0 v : View) (h : Head) (o : F3),
    let has (i : Instr) (P : Nat → W32 → Prop) : Prop :=
      Issues i h.s .all s v0 v → ∃ x : Nat → W32, Ends i h s v0 v (Wrote v h o.dst.toNat 0 x) ∧ ∀ l, P l (x l)
    let a (l : Nat) : W32 := v.src h (bit o.mod 13) o.sa l
    has (.popc h o) (fun l x => x.toNat = ((List.range 32).filter (fun k => bit (a l) k)).length) ∧
    has (.clz h o) (fun l x => x.toNat ≤ 32 ∧ (∀ k, k < x.toNat → bit (a l) (31 - k) = false) ∧
      (x.toNat < 32 → bit (a l) (31 - x.toNat) = true)) ∧
    has (.brev h o) (fun l x => ∀ k, k < 32 → bit x k = bit (a l) (31 - k))) ∧
  (∀ (h : Head) (o : F3) (p : FI) (i : Instr), WellFormed i = true →
    (i ∈ [.and h o, .or h o, .xor h o, .not h o, .shl h o, .shr h o, .sar h o, .rot h o, .popc h o, .clz h o, .brev h o] →
      ∀ k, k < 13 → bit o.mod k = false) ∧
    (i ∈ [.shli h p, .shri h p, .sari h p] → p.imm.toNat < 32))

/-- R196: `bfx` reads the field of its first source that the descriptor names, cut at bit 31, sign- or zero-extended; `bfi` replaces that
field by the low bits of its second source. -/
def Obligations.FieldsAreReadAndReplaced : Prop :=
  ∀ (s : State) (v0 v : View) (h : Head) (o : F3),
    let has (i : Instr) (P : Nat → W32 → Prop) : Prop :=
      Issues i h.s .all s v0 v → ∃ x : Nat → W32, Ends i h s v0 v (Wrote v h o.dst.toNat 0 x) ∧ ∀ l, P l (x l)
    let a (l : Nat) : W32 := v.src h (bit o.mod 13) o.sa l
    let b (l : Nat) : W32 := v.src h (bit o.mod 14) o.sb l
    let c (l : Nat) : W32 := v.src h (bit o.mod 15) o.sc l
    let pos (f : W32) : Nat := min (f.toNat % 256) 32
    let len (f : W32) : Nat := min (f.toNat / 256 % 256) (32 - pos f)
    has (.bfx h o) (fun l x => ∀ k, k < 32 → bit x k =
      if k < len (b l) then bit (a l) (pos (b l) + k)
      else !bit o.mod 2 && decide (0 < len (b l)) && bit (a l) (pos (b l) + len (b l) - 1)) ∧
    has (.bfi h o) (fun l x => ∀ k, k < 32 → bit x k =
      if pos (c l) ≤ k ∧ k < pos (c l) + len (c l) then bit (b l) (k - pos (c l)) else bit (a l) k)

/-! ### Predicates, selection and addresses (R197–R206) -/

/-- R197–R200: `sel` chooses by a predicate; `icmp` and `icmpi` write the truth of a comparison, `icmp` combined with a predicate as
COMB says; `plog` combines two predicates; and the codes that name no instruction are not well formed. -/
def Obligations.PredicatesAndSelection : Prop :=
  ∀ (s : State) (v0 v : View) (h : Head),
    let holds (c : Nat) (x y : Int) : Bool :=
      if c = 0 then decide (x = y) else if c = 1 then decide (x ≠ y) else if c = 2 then decide (x < y)
      else if c = 3 then decide (x ≤ y) else if c = 4 then decide (y < x) else decide (y ≤ x)
    (∀ o : F3, Issues (.sel h o) h.s .all s v0 v →
      Ends (.sel h o) h s v0 v (WroteN v h (bit o.mod 0) o.dst.toNat 0 (fun l =>
        if v.prd h (fldN o.sc 0 3) l = bit o.sc 3 then v.srcN h (bit o.mod 0) (bit o.mod 14) o.sb l
        else v.srcN h (bit o.mod 0) (bit o.mod 13) o.sa l))) ∧
    (∀ o : F3, Issues (.icmp h o) h.s .all s v0 v →
      Ends (.icmp h o) h s v0 v (WrotePrd v h o.dst.toNat (fun l =>
        let rd (x : W64) : Int := intOf (bit o.mod 0) (bit o.mod 2) x
        let t := holds (fldN o.mod 4 4) (rd (v.srcN h (bit o.mod 0) (bit o.mod 13) o.sa l)) (rd (v.srcN h (bit o.mod 0) (bit o.mod 14) o.sb l))
        let p := v.prd h (fldN o.sc 0 3) l != bit o.sc 3
        if fldN o.mod 8 2 = 0 then t else if fldN o.mod 8 2 = 1 then t && p else t || p))) ∧
    (∀ o : FI, Issues (.icmpi h o) h.s .all s v0 v →
      Ends (.icmpi h o) h s v0 v (WrotePrd v h (fldN o.dst 0 3) (fun l =>
        let rd (x : W32) : Int := if bit o.dst 3 then x.toNat else x.toInt
        holds (fldN o.dst 4 3) (rd (v.src h false o.sa l)) (rd o.imm)))) ∧
    (∀ o : F3, Issues (.plog h o) h.s .all s v0 v →
      Ends (.plog h o) h s v0 v (WrotePrd v h o.dst.toNat (fun l =>
        let a := v.prd h o.sa.toNat l != bit o.mod 3
        let b := v.prd h o.sb.toNat l != bit o.mod 8
        if fldN o.mod 4 4 = 0 then a && b else if fldN o.mod 4 4 = 1 then a || b
        else if fldN o.mod 4 4 = 2 then a != b else !a))) ∧
    (∀ o : F3,
      (WellFormed (.sel h o) = true → o.sc.toNat < 16 ∧ bit o.mod 15 = false) ∧
      (WellFormed (.icmp h o) = true → fldN o.mod 4 4 ≤ 5 ∧ fldN o.mod 8 2 ≤ 2 ∧ o.dst.toNat < 8 ∧ o.sc.toNat < 16 ∧
        (fldN o.mod 8 2 = 0 → o.sc = 0)) ∧
      (WellFormed (.plog h o) = true → fldN o.mod 4 4 ≤ 3 ∧ o.dst.toNat < 8 ∧ o.sa.toNat < 8 ∧ o.sb.toNat < 8 ∧
        (fldN o.mod 4 4 = 3 → o.sb = 0 ∧ bit o.mod 8 = false))) ∧
    (∀ o : FI, WellFormed (.icmpi h o) = true → fldN o.dst 4 3 ≤ 5 ∧ bit o.dst 7 = false)

/-- R201, R202: `lea` gives base plus scaled index plus scaled offset, modulo 2^64; `idx` gives the lane, the group, the launch's coordinates
and extents, and the placement at issue; a group outside a launch reads 0 for the launch's. -/
def Obligations.AddressesAndPlacement : Prop :=
  (∀ (s : State) (v0 v : View) (h : Head) (o : FM), Issues (.lea h o) h.s .all s v0 v →
    Ends (.lea h o) h s v0 v (WroteN v h true o.dst.toNat 0 (fun l =>
      let i : Int := if o.idx.toNat = 0xFF then 0 else if o.xsc.toNat = 0 then (v.src h false o.idx l).toInt else (v.src h false o.idx l).toNat
      BitVec.ofInt 64 ((v.src64 h false o.base l).toNat + i * 2 ^ o.wid.toNat + o.off.toInt * 2 ^ o.wid.toNat)))) ∧
  (∀ (s : State) (v0 v : View) (h : Head) (o : F3), Issues (.idx h o) h.s .all s v0 v →
    let sel := fldN o.mod 4 4
    let gives (x : Nat → Nat) : Prop := Ends (.idx h o) h s v0 v (Wrote v h o.dst.toNat 0 (fun l => BitVec.ofNat 32 (x l)))
    (sel = 0 → gives (fun l => l)) ∧ (sel = 11 → gives (fun _ => v.core / 96)) ∧ (sel = 12 → gives (fun _ => v.core / 4)) ∧
    (sel = 13 → gives (fun _ => v.core)) ∧
    (sel = 14 → gives (fun _ => ((startRun s v0).clusterPart (v.core / 4)).getD 0xFFFFFFFF)) ∧
    (v.b.launch = none → (1 ≤ sel ∧ sel ≤ 10 ∨ sel = 15) → gives (fun _ => 0)) ∧
    (∀ k L, v.b.launch = some k → AMap.get? (startRun s v0).launches k = some L →
      (sel = 1 → gives (fun _ => v.gi)) ∧ (sel = 5 → gives (fun _ => L.gx)) ∧ (sel = 6 → gives (fun _ => L.gy)) ∧
      (sel = 7 → gives (fun _ => L.gz)) ∧ (sel = 9 → gives (fun _ => L.stages)) ∧ (sel = 10 → gives (fun _ => L.groups)) ∧
      (sel = 15 → gives (fun _ => v.b.lidx)) ∧
      (0 < L.stages → 0 < L.gx → 0 < L.gy → ∃ x y z pip, v.b.lidx = ((z * L.gy + y) * L.gx + x) * L.stages + pip ∧
        x < L.gx ∧ y < L.gy ∧ pip < L.stages ∧ (sel = 2 → gives (fun _ => x)) ∧ (sel = 3 → gives (fun _ => y)) ∧
        (sel = 4 → gives (fun _ => z)) ∧ (sel = 8 → gives (fun _ => pip)))))

/-- R203–R206: `vote` tells whether any or all contributing lanes hold a predicate, or which do; `shfl` reads the lane it names, if
that lane is in the mask; `vred` combines the contributing lanes' values; and each gives its empty value when none contributes. -/
def Obligations.LanesCross : Prop :=
  ∀ (s : State) (v0 v : View) (h : Head) (o : F3),
    let C : List Nat := (List.range 32).filter (fun i => bit v.mask i && (v.g.base.pred h.g.toNat i != h.n))
    let sel := fldN o.mod 4 4
    let p (i : Nat) : Bool := v.g.base.pred o.sa.toNat i != bit o.mod 3
    let a (i : Nat) : W32 := (v.g.base.vec o.sa.toNat i).bits
    (Issues (.vote h o) h.s .all s v0 v →
      (sel = 0 → Ends (.vote h o) h s v0 v (fun R => OnlyIn .q v.g.live R ∧
        ∀ j, R.upred j = if j = o.dst.toNat ∧ j ≠ 7 then decide (∃ i ∈ C, p i = true) else v.g.live.upred j)) ∧
      (sel = 1 → Ends (.vote h o) h s v0 v (fun R => OnlyIn .q v.g.live R ∧
        ∀ j, R.upred j = if j = o.dst.toNat ∧ j ≠ 7 then decide (∀ i ∈ C, p i = true) else v.g.live.upred j)) ∧
      (sel = 2 → ∃ x, Ends (.vote h o) h s v0 v (WroteUni v o.dst.toNat x) ∧ ∀ i, i < 32 → bit x i = (decide (i ∈ C) && p i))) ∧
    (Issues (.shfl h o) h.s .all s v0 v →
      Ends (.shfl h o) h s v0 v (WroteN v h false o.dst.toNat 0 (fun i =>
        let n : Int := (if bit o.mod 14 then v.g.base.uni o.sb.toNat else (v.g.base.vec o.sb.toNat i).bits).toNat
        let j : Int := if sel = 0 then n else if sel = 1 then i - n else if sel = 2 then i + n else (i ^^^ n.toNat : Nat)
        ((if 0 ≤ j ∧ j ≤ 31 ∧ bit v.mask j.toNat = true then a j.toNat else a i)).zeroExtend 64))) ∧
    (Issues (.vred h o) h.s .all s v0 v →
      ∃ x : W32, Ends (.vred h o) h s v0 v (WroteUni v o.dst.toNat x) ∧
        (sel = 0 → x = BitVec.ofNat 32 ((C.map (fun i => (a i).toNat)).sum)) ∧
        (sel = 3 → ∀ k, k < 32 → bit x k = decide (∀ i ∈ C, bit (a i) k = true)) ∧
        (sel = 4 → ∀ k, k < 32 → bit x k = decide (∃ i ∈ C, bit (a i) k = true)) ∧
        (sel = 1 ∨ sel = 2 → C ≠ [] → (∃ i ∈ C, x = a i) ∧ ∀ i ∈ C,
          if bit o.mod 2 then (if sel = 1 then x.toNat ≤ (a i).toNat else (a i).toNat ≤ x.toNat)
          else (if sel = 1 then x.toInt ≤ (a i).toInt else (a i).toInt ≤ x.toInt)) ∧
        (C = [] → (sel = 1 → x.toNat = if bit o.mod 2 then 0xFFFFFFFF else 0x7FFFFFFF) ∧
          (sel = 2 → x.toNat = if bit o.mod 2 then 0 else 0x80000000)))

/-! ### Floating point (R93–R95, R207–R226) -/

/-- R94, R95, R107: rounding a finite non-zero value into a standard format keeps its sign, and gives, in rz, rd and ru, the nearest
representable value on the side the mode names, in rn a nearest one, the even code of two equally near, and in rs (4) the grid magnitude below
or above, the one above exactly when the fraction of the spacing, in 32 bits rounded down, exceeds the random word. An infinity is given in rn
from half a spacing above the largest finite magnitude on, in rd and ru only on the mode's own side of it, in rs for a magnitude chosen at or
beyond the end of the extended grid, and never in rz. -/
def Obligations.RoundingIsCorrect : Prop :=
  ∀ f ∈ [F32, F16, BF16], ∀ (mode rb : Nat) (s : Bool) (m : Nat) (e : Int), mode ≤ 4 → m ≠ 0 →
    let x := realVal s m e
    let r := f.round mode (.fin s m e) rb
    let half : ℚ := 2 ^ (f.emax - f.fw - 1)
    let big : ℚ := 2 ^ (f.emax + 1) - 2 * half
    r < 2 ^ f.width ∧ r / 2 ^ (f.ew + f.fw) = b2n s ∧
    (∀ y, Holds f r y →
      (mode = 0 → (∀ b z, Holds f b z → |y - x| ≤ |z - x|) ∧ (∀ b z, Holds f b z → z ≠ y → |z - x| = |y - x| → r % 2 = 0)) ∧
      (mode = 1 → |y| ≤ |x| ∧ ∀ b z, Holds f b z → |z| ≤ |x| → |z| ≤ |y|) ∧
      (mode = 2 → y ≤ x ∧ ∀ b z, Holds f b z → z ≤ x → z ≤ y) ∧
      (mode = 3 → x ≤ y ∧ ∀ b z, Holds f b z → x ≤ z → y ≤ z)) ∧
    ((∀ y, ¬ Holds f r y) → r = f.infBits s ∧ (mode ≤ 3 → ∀ b z, Holds f b z → |z| < |x|)) ∧
    (r = f.infBits s ↔ (mode = 0 ∧ big + half ≤ |x|) ∨ (mode = 2 ∧ s = true ∧ big < |x|) ∨ (mode = 3 ∧ s = false ∧ big < |x|) ∨
      (mode = 4 ∧ ∃ n : Nat, (n : ℚ) * (2 * half) ≤ |x| ∧ |x| < (n + 1) * (2 * half) ∧
        (2 ^ (f.emax + 1) ≤ |x| ∨ ((n + 1 : ℚ) * (2 * half) = 2 ^ (f.emax + 1) ∧
          (rb : Int) < ⌊(|x| / (2 * half) - n) * 2 ^ 32⌋)))) ∧
    (mode = 4 → r ≠ f.infBits s → ∃ (k : Int) (n : Nat), k = max (Int.log 2 |x|) f.emin - f.fw ∧
      (n : ℚ) * 2 ^ k ≤ |x| ∧ |x| < (n + 1) * 2 ^ k ∧
      Holds f r (realVal s (if (rb : Int) < ⌊(|x| / 2 ^ k - n) * 2 ^ 32⌋ then n + 1 else n) k))

/-- R208, R209, R211: on every element `fadd`, `fsub`, `fmul` and `ffma` give the exact sum, difference, product, or product and sum,
of the operands with their sign modifiers, rounded once in RND, with the type's tag. -/
def Obligations.FloatArithmetic : Prop :=
  ∀ (s : State) (v0 v : View) (h : Head) (o : F3),
    let a := fval v h o 0
    let b := fval v h o 1
    let c := fval v h o 2
    let gives (i : Instr) (n : Nat) (x : Nat → Nat → FV) : Prop :=
      Issues i h.s .all s v0 v → (∀ l ∈ v.units h, srcTags n v h o l = true) →
      Ends i h s v0 v (Wrote v h o.dst.toNat (tagTy (ty o)) (fun l =>
        packElems (ty o) (fun e => (tyFmt (ty o)).round (rnd o) (x l e) 0)))
    gives (.fadd h o) 2 (fun l e => (a l e).add (rnd o) (b l e)) ∧
    gives (.fsub h o) 2 (fun l e => (a l e).add (rnd o) (b l e).neg) ∧
    gives (.fmul h o) 2 (fun l e => (a l e).mul (b l e)) ∧
    gives (.ffma h o) 3 (fun l e => ((a l e).mul (b l e)).add (rnd o) (c l e))

/-- R212, R214–R216: `fmin` and `fmax` give the other operand when one is NaN, the canonical NaN when both are, else the smaller or larger one,
with -0 below +0; `fcmp` writes the ordered comparison, or UN when an operand is NaN; `fclass` the mask bit of the operand's class; `frnd`
keeps NaN canonical and infinities, and gives an integral value within one of the operand. -/
def Obligations.FloatExtremesAndTests : Prop :=
  (∀ (s : State) (v0 v : View) (h : Head) (o : F3),
    let f := tyFmt (ty o)
    let a := fsrc v h o 0
    let b := fsrc v h o 1
    let gives (i : Instr) (isMax : Bool) : Prop :=
      Issues i h.s .all s v0 v → (∀ l ∈ v.units h, srcTags 2 v h o l = true) →
      ∃ x : Nat → Nat → Nat, Ends i h s v0 v (Wrote v h o.dst.toNat (tagTy (ty o)) (fun l => packElems (ty o) (x l))) ∧
        ∀ l e, e < elems (ty o) →
          let A := f.decode (a l e)
          let B := f.decode (b l e)
          let X := f.decode (x l e)
          (A = .nan → B = .nan → x l e = f.nanBits) ∧ (A = .nan → B ≠ .nan → x l e = b l e) ∧
          (A ≠ .nan → B = .nan → x l e = a l e) ∧
          (A ≠ .nan → B ≠ .nan → (x l e = a l e ∨ x l e = b l e) ∧
            (if isMax then 0 ≤ X.cmp A ∧ 0 ≤ X.cmp B else X.cmp A ≤ 0 ∧ X.cmp B ≤ 0) ∧
            (A.isZero = true → B.isZero = true → X.isNeg = if isMax then A.isNeg && B.isNeg else A.isNeg || B.isNeg))
    gives (.fmin h o) false ∧ gives (.fmax h o) true) ∧
  (∀ (s : State) (v0 v : View) (h : Head) (o : F3),
    let f := tyFmt (ty o)
    let el := if bit o.mod 6 then 1 else 0
    (Issues (.fcmp h o) h.s .all s v0 v → (∀ l ∈ v.units h, srcTags 2 v h o l = true) →
      Ends (.fcmp h o) h s v0 v (WrotePrd v h (fldN o.dst 0 3) (fun l =>
        let a := fval v h o 0 l el
        let b := fval v h o 1 l el
        let c := fldN o.dst 3 3
        if a = .nan ∨ b = .nan then bit o.dst 6
        else
          let d := a.cmp b
          if c = 0 then decide (d = 0) else if c = 1 then decide (d ≠ 0) else if c = 2 then decide (d < 0)
          else if c = 3 then decide (d ≤ 0) else if c = 4 then decide (0 < d) else decide (0 ≤ d)))) ∧
    (Issues (.fclass h o) h.s .all s v0 v → (∀ l ∈ v.units h, srcTags 1 v h o l = true) →
      ∃ c : Nat → Nat, Ends (.fclass h o) h s v0 v (WrotePrd v h o.dst.toNat (fun l => bit (v.src h (bit o.mod 14) o.sb l) (c l))) ∧
        ∀ l, match f.decode (fsrc v h o 0 l el) with
          | .nan => c l = 8
          | .inf s => c l = if s then 0 else 7
          | .fin s m _ => (m = 0 → c l = if s then 3 else 4) ∧
            (m ≠ 0 → m < 2 ^ f.fw → c l = if s then 2 else 5) ∧ (2 ^ f.fw ≤ m → c l = if s then 1 else 6)) ∧
    (Issues (.frnd h o) h.s .all s v0 v → (∀ l ∈ v.units h, srcTags 1 v h o l = true) →
      ∃ x : Nat → Nat → FV, Ends (.frnd h o) h s v0 v (Wrote v h o.dst.toNat (tagTy (ty o)) (fun l =>
          packElems (ty o) (fun e => f.round (rnd o) (x l e) 0))) ∧
        ∀ l e, match fval v h o 0 l e with
          | .nan => x l e = .nan
          | .inf s => x l e = .inf s
          | .fin s m k => ∃ n, x l e = .fin s n 0 ∧ |realVal s n 0 - realVal s m k| < 1 ∧
            (rnd o = 1 → |realVal s n 0| ≤ |realVal s m k|) ∧ (rnd o = 2 → realVal s n 0 ≤ realVal s m k) ∧
            (rnd o = 3 → realVal s m k ≤ realVal s n 0) ∧ (rnd o = 0 → |realVal s n 0 - realVal s m k| ≤ 1 / 2)))

/-- R211, R213: `fmuli` and `faddi` work on F32 and IMM32, rounded to nearest; `fdot2` gives the two products and the addend, summed
exactly and rounded once to F32. -/
def Obligations.FloatImmediatesAndDots : Prop :=
  ∀ (s : State) (v0 v : View) (h : Head),
    (∀ o : FI,
      let a (l : Nat) : FV := F32.decode (v.src h false o.sa l).toNat
      let k : FV := F32.decode o.imm.toNat
      let gives (i : Instr) (x : Nat → FV) : Prop :=
        Issues i h.s .all s v0 v → (∀ l ∈ v.units h, v.tagOk h false o.sa.toNat 1 l = true) →
        Ends i h s v0 v (Wrote v h o.dst.toNat 1 (fun l => BitVec.ofNat 32 (F32.round 0 (x l) 0)))
      gives (.fmuli h o) (fun l => (a l).mul k) ∧ gives (.faddi h o) (fun l => (a l).add 0 k)) ∧
    (∀ o : F3, Issues (.fdot2 h o) h.s .all s v0 v →
      (∀ l ∈ v.units h, (srcTags 2 v h o l && v.tagOk h (bit o.mod 15) o.sc.toNat 1 l) = true) →
      ∃ x : Nat → FV, Ends (.fdot2 h o) h s v0 v (Wrote v h o.dst.toNat 1 (fun l => BitVec.ofNat 32 (F32.round (rnd o) (x l) 0))) ∧
        ∀ l,
          let p := (fval v h o 0 l 0).mul (fval v h o 1 l 0)
          let q := (fval v h o 0 l 1).mul (fval v h o 1 l 1)
          let c := F32.decode (modSign F32 (bit o.mod 5) (bit o.mod 2) (v.src h (bit o.mod 15) o.sc l).toNat)
          (p = .nan ∨ q = .nan ∨ c = .nan → x l = .nan) ∧
          (∀ sp mp ep sq mq eq sc mc ec, p = .fin sp mp ep → q = .fin sq mq eq → c = .fin sc mc ec →
            ∃ sx mx ex, x l = .fin sx mx ex ∧ realVal sx mx ex = realVal sp mp ep + realVal sq mq eq + realVal sc mc ec) ∧
          (p = .inf false → q = .inf true → x l = .nan))

/-- R217: every transcendental completes on every operand, NaN giving the canonical NaN, and gives the special values of the table.
On finite non-zero operands, of any type, each element is the F32 result, rounded to nearest into the element format: of `frcp` one of the two
F32 values next to the exact reciprocal; of `frsq` a value within 2 ulp of the exact root's reciprocal; `fex2` is exact on integral operands
and `flg2` on powers of two; and the results of the others lie within their bound of the model's enclosure of the exact value, in fixed point
of 512 fractional bits (its error, below 2^-448, is allowed beside the bound: the model's choice, log 9). `fsqrt` is correctly rounded
into the element format in every mode it takes. -/
def Obligations.TranscendentalSpecials : Prop :=
  (∀ (s : State) (v0 v : View) (h : Head) (o : F3),
    let NAN := 0x7FC00000
    let INF := 0x7F800000
    let NINF := 0xFF800000
    let a (l : Nat) : Nat := fsrc v h o 0 l 0
    let gives (i : Instr) (special : List (Nat × Nat)) (negNan : Bool) : Prop :=
      Issues i h.s .all s v0 v → (∀ l ∈ v.units h, srcTags 1 v h o l = true) →
      ∃ x : Nat → Nat → Nat, Ends i h s v0 v (Wrote v h o.dst.toNat (tagTy (ty o)) (fun l => packElems (ty o) (x l))) ∧
        (ty o = 0 → ∀ l, (F32.decode (a l) = .nan → x l 0 = NAN) ∧ (∀ p ∈ special, a l = p.1 → x l 0 = p.2) ∧
          (negNan = true → ∀ m e, F32.decode (a l) = .fin true m e → m ≠ 0 → x l 0 = NAN))
    gives (.frcp h o) [(0, INF), (0x80000000, NINF), (INF, 0), (NINF, 0x80000000)] false ∧
    gives (.frsq h o) [(0, INF), (0x80000000, NINF), (INF, 0), (NINF, NAN)] true ∧
    gives (.fsqrt h o) [(0, 0), (0x80000000, 0x80000000), (INF, INF), (NINF, NAN)] true ∧
    gives (.fex2 h o) [(NINF, 0), (INF, INF)] false ∧
    gives (.flg2 h o) [(0, NINF), (0x80000000, NINF), (INF, INF), (NINF, NAN), (0x3F800000, 0)] true ∧
    gives (.fsin h o) [(0, 0), (0x80000000, 0x80000000), (INF, NAN), (NINF, NAN)] false ∧
    gives (.fcos h o) [(0, 0x3F800000), (0x80000000, 0x3F800000), (INF, NAN), (NINF, NAN)] false ∧
    gives (.fsig h o) [(NINF, 0), (INF, 0x3F800000), (0, 0x3F000000), (0x80000000, 0x3F000000)] false ∧
    gives (.ftanh h o) [(0, 0), (0x80000000, 0x80000000), (INF, 0x3F800000), (NINF, 0xBF800000)] false) ∧
  (∀ (s : State) (v0 v : View) (h : Head) (o : F3),
    let computes (i : Instr) (P : Bool → Nat → Int → Nat → Prop) : Prop :=
      Issues i h.s .all s v0 v → (∀ l ∈ v.units h, srcTags 1 v h o l = true) →
      ∃ x : Nat → Nat → Nat, Ends i h s v0 v (Wrote v h o.dst.toNat (tagTy (ty o)) (fun l => packElems (ty o) (x l))) ∧
        ∀ l e, e < elems (ty o) → ∀ sg m ex, fval v h o 0 l e = .fin sg m ex → m ≠ 0 →
          ∃ r, P sg m ex r ∧ x l e = if ty o = 0 then r else (tyFmt (ty o)).round 0 (F32.decode r) 0
    let near (X bound : Int) (r : Nat) : Prop :=
      if fpOf false 1 128 ≤ (X.natAbs : Int) then r = F32.infBits (decide (X < 0))
      else if (X.natAbs : Int) < fpOf false 1 (-149) then r = b2n (decide (X < 0)) * 2 ^ 31
      else ∃ y, fpOfBits (BitVec.ofNat 32 r) = some y ∧ ((y - X).natAbs : Int) ≤ bound + 2 ^ 64
    computes (.frcp h o) (fun sg m ex r =>
      let X := 1 / realVal sg m ex
      (∀ y, Holds F32 r y → (y ≤ X ∧ ∀ b z, Holds F32 b z → z ≤ X → z ≤ y) ∨ (X ≤ y ∧ ∀ b z, Holds F32 b z → X ≤ z → y ≤ z)) ∧
      ((∀ y, ¬ Holds F32 r y) → r = F32.infBits sg ∧ ∀ b z, Holds F32 b z → |z| < |X|)) ∧
    computes (.frsq h o) (fun sg m ex r =>
      if sg then r = F32.nanBits
      else ∀ k : Int, (4 : ℚ) ^ k * realVal sg m ex ≤ 1 → 1 < (4 : ℚ) ^ (k + 1) * realVal sg m ex →
        let d : ℚ := 2 * 2 ^ (k - 23) + 2 ^ (-440 : Int)
        ∃ y, Holds F32 r y ∧ 0 ≤ y ∧ 1 ≤ realVal sg m ex * (y + d) ^ 2 ∧ (y ≤ d ∨ realVal sg m ex * (y - d) ^ 2 ≤ 1)) ∧
    computes (.fex2 h o) (fun sg m ex r =>
      let A := realVal sg m ex
      (∀ k : Int, A = k → (-149 ≤ k → k < 128 → Holds F32 r ((2 : ℚ) ^ k)) ∧ (k < -149 → r = 0)) ∧
      (128 ≤ A → r = F32.infBits false) ∧ (A ≤ -200 → r = 0) ∧
      ((∀ k : Int, A ≠ k) → -200 < A → A < 128 → near (fpExp2 (fpOf sg m ex)) (twoUlp (fpExp2 (fpOf sg m ex))) r)) ∧
    computes (.flg2 h o) (fun sg m ex r =>
      if sg then r = F32.nanBits
      else
        let A := realVal sg m ex
        (∀ k : Int, A = (2 : ℚ) ^ k → Holds F32 r k) ∧
        ((∀ k : Int, A ≠ (2 : ℚ) ^ k) →
          near (fpLog2 m ex) (if 1 / 2 ≤ A ∧ A ≤ 2 then fpOf false 1 (-22) else twoUlp (fpLog2 m ex)) r)) ∧
    computes (.fsin h o) (fun sg m ex r => near (fpTrig 0 (fpOf sg m ex)) (smoothBound (fpTrig 0 (fpOf sg m ex))) r) ∧
    computes (.fcos h o) (fun sg m ex r => near (fpTrig 1 (fpOf sg m ex)) (smoothBound (fpTrig 1 (fpOf sg m ex))) r) ∧
    computes (.fsig h o) (fun sg m ex r =>
      let t := if 300 ≤ |realVal sg m ex| then 0 else fpExpNeg (fpOf false m ex)
      let X := if sg then fpDiv t (fpOne + t) else fpDiv fpOne (fpOne + t)
      near X (smoothBound X) r) ∧
    computes (.ftanh h o) (fun sg m ex r =>
      let t := if 300 ≤ |realVal sg m ex| then 0 else fpExpNeg (2 * fpOf false m ex)
      let X := (if sg then -1 else 1) * fpDiv (fpOne - t) (fpOne + t)
      near X (smoothBound X) r)) ∧
  (∀ (s : State) (v0 v : View) (h : Head) (o : F3),
    let f := tyFmt (ty o)
    Issues (.fsqrt h o) h.s .all s v0 v → (∀ l ∈ v.units h, srcTags 1 v h o l = true) →
    ∃ x : Nat → Nat → Nat, Ends (.fsqrt h o) h s v0 v (Wrote v h o.dst.toNat (tagTy (ty o)) (fun l => packElems (ty o) (x l))) ∧
      ∀ l e, e < elems (ty o) → ∀ m ex, fval v h o 0 l e = .fin false m ex → m ≠ 0 →
        let A := realVal false m ex
        ∃ y, Holds f (x l e) y ∧ 0 ≤ y ∧
          (rnd o = 0 → ∀ b z, Holds f b z → (y < z → A ≤ ((y + z) / 2) ^ 2) ∧ (0 ≤ z → z < y → ((y + z) / 2) ^ 2 ≤ A)) ∧
          ((rnd o = 1 ∨ rnd o = 2) → y ^ 2 ≤ A ∧ ∀ b z, Holds f b z → 0 ≤ z → z ^ 2 ≤ A → z ≤ y) ∧
          (rnd o = 3 → A ≤ y ^ 2 ∧ ∀ b z, Holds f b z → 0 ≤ z → A ≤ z ^ 2 → y ≤ z))

/-- R218, R219: `cvt` writes its source's value converted to the type DTY names: an integer saturated to the type's range (NaN gives 0),
or the value rounded in RND, with the type's tag; under rs the random counter advances. -/
def Obligations.ConversionsWriteTheirType : Prop :=
  ∀ (s : State) (v0 v : View) (h : Head) (o : F3),
    let two := cvtPacks (sty o) (dty o)
    let a (l : Nat) : FV := cvtVal v h (sty o) (bit o.mod 13) o.sa l (b2n (bit o.mod 8))
    let b (l : Nat) : FV := if two then cvtVal v h (sty o) (bit o.mod 14) o.sb l 0 else cvtVal v h (sty o) (bit o.mod 13) o.sa l 1
    Issues (.cvt h o) h.s .all s v0 v →
    (∀ l ∈ v.units h, (cvtTag v h (sty o) (bit o.mod 13) o.sa l && (!two || cvtTag v h (sty o) (bit o.mod 14) o.sb l)) = true) →
    let wide (lo hi : Int) : Prop :=
      EndsRs (.cvt h o) h o s v0 v (WroteN v h true o.dst.toNat 0 (fun l => BitVec.ofInt 64 ((a l).toRange (rnd o) lo hi)))
    let narrow (lo hi : Int) : Prop :=
      EndsRs (.cvt h o) h o s v0 v (Wrote v h o.dst.toNat 0 (fun l => BitVec.ofInt 32 ((a l).toRange (rnd o) lo hi)))
    let packed (f : Fmt) (tag : BitVec 4) : Prop :=
      EndsRs (.cvt h o) h o s v0 v (Wrote v h o.dst.toNat tag (fun l => BitVec.ofNat 32
        (f.round (rnd o) (a l) (v.rng h l 0) % 2 ^ 16 + 2 ^ 16 * (f.round (rnd o) (b l) (v.rng h l 1) % 2 ^ 16))))
    (dty o = 0 → narrow (-(2 ^ 31)) (2 ^ 31 - 1)) ∧ (dty o = 1 → narrow 0 (2 ^ 32 - 1)) ∧
    (dty o = 2 → wide (-(2 ^ 63)) (2 ^ 63 - 1)) ∧ (dty o = 3 → wide 0 (2 ^ 64 - 1)) ∧
    (dty o = 4 → EndsRs (.cvt h o) h o s v0 v (Wrote v h o.dst.toNat 1 (fun l => BitVec.ofNat 32 (F32.round (rnd o) (a l) 0)))) ∧
    (dty o = 5 → packed F16 2) ∧ (dty o = 6 → packed BF16 3) ∧
    (dty o = 7 → EndsRs (.cvt h o) h o s v0 v (fun R => OnlyIn (if h.u then .s else .v) v.g.live R ∧
      ∀ l ∈ v.units h,
        let x := F48.round 0 (a l) 0
        let d := o.dst.toNat
        if h.u then R.uni d = BitVec.ofNat 32 (x / 65536) ∧ R.uni (d + 1) = BitVec.ofNat 32 (x % 65536 * 65536)
        else R.vec d l = { bits := BitVec.ofNat 32 (x / 65536), tag := 12 } ∧
          R.vec (d + 1) l = { bits := BitVec.ofNat 32 (x % 65536 * 65536), tag := 13 }))

/-- R220–R223: `npk` packs the converted values of consecutive registers and `nunpk` unpacks them, each under a valid format register
and with the tags it asks for; `scl` multiplies by a power of two, or gives NaN for scale code 0xFF; `sclx` gives each lane the
scale code of its span. -/
def Obligations.NarrowFormatsAndScales : Prop :=
  ∀ (s : State) (v0 v : View) (h : Head) (o : F3),
    let f := v.fm o.sc.toNat
    let n := nfCount f
    let scale (l : Nat) : Nat := if nfScm f = 2 then fldN (v.src h (bit o.mod 14) o.sb l) 0 8 else 127
    let fits (x : Nat) : Prop := x + n ≤ if h.u then 64 else v.regs
    (Issues (.npk h o) h.s .all s v0 v → nfValid f = true → fits o.sa.toNat →
      (∀ l ∈ v.units h, ∀ i, i < n → v.tagOk h false (o.sa.toNat + i) 1 l = true) →
      EndsRs (.npk h o) h o s v0 v (Wrote v h o.dst.toNat (BitVec.ofNat 4 (4 + o.sc.toNat)) (fun l => nfPack f ((List.range n).map (fun i =>
        nfEncode f (rnd o) (scale l) (F32.decode (v.src h false (o.sa + BitVec.ofNat 8 i) l).toNat) (v.rng h l i)))))) ∧
    (Issues (.nunpk h o) h.s .all s v0 v → nfValid f = true → fits o.dst.toNat →
      (∀ l ∈ v.units h, v.tagOk h false o.sa.toNat (BitVec.ofNat 4 (4 + o.sc.toNat)) l = true) →
      Ends (.nunpk h o) h s v0 v (fun R => OnlyIn (if h.u then .s else .v) v.g.live R ∧
        (if h.u then ∀ r, (r < o.dst.toNat ∨ o.dst.toNat + n ≤ r ∨ v.go h = false) → R.uni r = v.g.live.uni r
         else ∀ r l, l < 32 → (r < o.dst.toNat ∨ o.dst.toNat + n ≤ r ∨ l ∉ v.units h) → R.vec r l = v.g.live.vec r l) ∧
        ∀ l ∈ v.units h, ∀ i, i < n →
          let x := BitVec.ofNat 32 (F32.round 0 (nfDecode f (scale l) (nfElem f (v.src h false o.sa l).toNat i)) 0)
          if h.u then R.uni (o.dst.toNat + i) = x else R.vec (o.dst.toNat + i) l = { bits := x, tag := 1 })) ∧
    (Issues (.scl h o) h.s .all s v0 v → (∀ l ∈ v.units h, v.tagOk h (bit o.mod 13) o.sa.toNat (tagTy (ty o)) l = true) →
      EndsRs (.scl h o) h o s v0 v (Wrote v h o.dst.toNat (tagTy (ty o)) (fun l =>
        let x := fldN (v.src h (bit o.mod 14) o.sb l) 0 8
        let k : Int := if bit o.mod 0 then 127 - x else x - 127
        let t := tyFmt (ty o)
        packElems (ty o) (fun e =>
          if x = 0xFF then t.nanBits
          else t.round (rnd o) ((t.decode (elemOf (ty o) e (v.src h (bit o.mod 13) o.sa l))).scale k) (v.rng h l e))))) ∧
    (Issues (.sclx h o) h.s .all s v0 v → nfValid f = true → (∀ l ∈ v.units h, v.tagOk h false o.sa.toNat 1 l = true) →
      ∃ x : Nat → Nat, Ends (.sclx h o) h s v0 v (Wrote v h o.dst.toNat 0 (fun l => BitVec.ofNat 32 (x l))) ∧
        let span := if fldN o.mod 4 2 = 0 then 32 else if fldN o.mod 4 2 = 1 then 8 else 4
        let value (l : Nat) : FV := F32.decode (v.g.base.vec o.sa.toNat l).bits.toNat
        ∀ l, l < 32 → bit (v.lanes h) l = true →
          let S : List Nat := (List.range 32).filter (fun j => bit (v.lanes h) j && decide (j / span = l / span))
          ((∃ j ∈ S, ∀ s m e, value j ≠ .fin s m e) → x l = 0xFF) ∧
          ((∀ j ∈ S, (value j).isZero = true) → x l = 127) ∧
          (∀ j ∈ S, ∀ s m e, value j = .fin s m e → m ≠ 0 →
            (∀ i ∈ S, ∃ s' m' e', value i = .fin s' m' e' ∧ |realVal s' m' e'| ≤ |realVal s m e|) →
            (x l : Int) = max 0 (min 254 ((bitLen m : Int) - 1 + e - nfEmax f - nfTscale f + 127))))

/-- R208, R224–R226, R371: `tag` and `tagr` copy their source's bits and set its tag; `fmset` writes a format register, a result of its run; a
source without its tag raises TAG, for the lanes whose source fails, and nothing else of the word happens. -/
def Obligations.TagsAndFormats : Prop :=
  (∀ (s : State) (v0 v : View) (h : Head),
    (∀ o : F3, Issues (.tag h o) h.s .all s v0 v →
      Ends (.tag h o) h s v0 v (Wrote v h o.dst.toNat (BitVec.ofNat 4 (o.mod.toNat % 16)) (fun l => v.src h (bit o.mod 13) o.sa l))) ∧
    (∀ o : F3, Issues (.tagr h o) h.s .all s v0 v →
      (∀ l ∈ v.units h, (v.src h (bit o.mod 14) o.sb l).toNat % 16 ≤ 13) →
      Ends (.tagr h o) h s v0 v (fun R => OnlyIn .v v.g.live R ∧ ∀ r l, l < 32 → R.vec r l =
        if bit (v.lanes h) l = true ∧ r = o.dst.toNat then
          { bits := v.src h (bit o.mod 13) o.sa l, tag := BitVec.ofNat 4 (v.src h (bit o.mod 14) o.sb l).toNat }
        else v.g.live.vec r l)) ∧
    (∀ o : FI, Issues (.fmset h o) h.s .all s v0 v →
      Ends (.fmset h o) h s v0 v (fun R => R = if v.go h then { v.g.live with fm := AMap.put v.g.live.fm o.dst.toNat o.imm } else v.g.live))) ∧
  (∀ (s : State) (v0 v : View) (h : Head) (o : F3),
    let raises (i : Instr) (n : Nat) : Prop :=
      Issues i h.s .all s v0 v → (∃ l ∈ v.units h, srcTags n v h o l = false) →
      exec i s = .next (faultAt (startRun s v0) (startRun s v0) v
        { cls := clsTAG, lanes := v.failMask h ((v.units h).filter (fun l => !srcTags n v h o l)) })
    raises (.fadd h o) 2 ∧ raises (.fmul h o) 2 ∧ raises (.ffma h o) 3 ∧ raises (.fmin h o) 2 ∧ raises (.fcmp h o) 2 ∧
    raises (.fsqrt h o) 1 ∧ raises (.frnd h o) 1)
/-! ### Control flow (R55–R62, R227–R247, R361–R366) -/

/-- R56, R57, R61: a word with S = 0 that does not reach the reconvergence address leaves everything as its effect left it, but for the issuing
slot, whose PC is the next word and whose count is one higher; at a run end that waits for nothing, the results of the run's words become the
registers' values, and the group is between runs. -/
def Obligations.RunsWriteAtTheirEnd : Prop :=
  (∀ (s : State) (v : View) (g : Group), s.group? v.handle v.gi = some g → (g.slot v.d).arr = false →
    (∀ t, g.top = some t → t.pc ≠ v.pc + 8) →
    finish v false s = s.modGroup v.handle v.gi (goTo v (v.pc + 8))) ∧
  (∀ (s : State) (v : View) (g : Group), s.group? v.handle v.gi = some g → g.longRun = false → g.remFail = [] → g.forced = none →
    g.exited ≠ allLanes → (g.slot0.live = true ∨ g.slot1.live = true) → (g.top = none ∨ g.gathered = false) →
    ∃ g', (endRun s v).group? v.handle v.gi = some g' ∧ g'.base = { g.live with fm := [] } ∧ g'.live = g'.base ∧ g'.inRun = false ∧
      g'.swrs = [])

/-- R174, R189: a uniform-only word of control, order or queues whose guard fails has no effect of its own. -/
def Obligations.FailedGuardDoesNothing : Prop :=
  ∀ (s : State) (v0 v : View) (h : Head) (o : F3) (p : FI) (m : FM),
    let still (i : Instr) (r : Rights) : Prop :=
      Issues i h.s r s v0 v → v.go h = false → exec i s = .next (finish v h.s (startRun s v0))
    still (.bar h o) .notAud ∧ still (.bara h p) .notAud ∧ still (.barw h p) .notAud ∧ still (.yld h o) .notAud ∧
    still (.gcall h p) .owner ∧ still (.gret h o) .notAud ∧ still (.trap h p) .notAud ∧ still (.rte h o) .notAud ∧
    still (.step h o) .notAud ∧ still (.qput h m) .notAud ∧ still (.qget h m) .notAud ∧ still (.qctlDone h o) .notAud ∧
    still (.qctlErr h o) .notAud ∧ still (.qctlRun h o) .notAud ∧ still (.qctlSetr h o) .notAud ∧ still (.qctlStat h o) .notAud

/-- R59–R61, R228, R386: `bra` jumps when the condition holds in every lane of the slot, falls through when in none, raises UNI when they
disagree under `.uni`, and else splits the slot: the taken lanes at the target, the others at the next word, with a new reconvergence
point. Under an existing divergence top the top is pushed first, and then the other slot when it is live, or DIV is raised when the
entries do not fit; a push writes 16 bytes at entry `divdepth` of the area, and a pop reads them. When every live slot has arrived, slot 0
takes the top's path, slot 1 the newest entry of the same RPC, and the next entry becomes the top. -/
def Obligations.BraJumpsFallsOrSplits : Prop :=
  (∀ (s : State) (v0 v : View) (h : Head) (o : FB), Issues (.bra h o) h.s .all s v0 v →
    let next := v.pc + 8
    let target := BitVec.ofInt 64 (v.pc.toNat + 8 * o.tgt.toInt)
    let rcv := BitVec.ofInt 64 (v.pc.toNat + 8 * o.rcv.toInt)
    let k := fldN o.cond 0 3
    let taken (i : Nat) : Bool := bit v.mask i && (v.g.base.pred h.g.toNat i != h.n) && (v.g.base.pred k i != bit o.cond 3)
    (h.u = true → (v.go h && (v.g.base.upred k != bit o.cond 3)) = true → Jumps (.bra h o) s v0 v (goTo v target)) ∧
    (h.u = true → (v.go h && (v.g.base.upred k != bit o.cond 3)) = false → Jumps (.bra h o) s v0 v (goTo v next)) ∧
    (h.u = false → ∀ T : W32, (∀ i, i < 32 → bit T i = taken i) →
      (T = v.mask → Jumps (.bra h o) s v0 v (goTo v target)) ∧
      (T = 0 → T ≠ v.mask → Jumps (.bra h o) s v0 v (goTo v next)) ∧
      (T ≠ 0 → T ≠ v.mask → bit o.cond 4 = true → RaisesAt (.bra h o) s v0 v clsUNI) ∧
      (T ≠ 0 → T ≠ v.mask → bit o.cond 4 = false → v.g.top = none → v.g.depth ≤ v.g.divLimit →
        Jumps (.bra h o) s v0 v (fun g =>
          let g := { g with top := some { pc := rcv, mask := v.mask, rpc := none, arr := false } }
          (g.setSlot v.d { live := true, pc := target, mask := T }).setSlot (!v.d)
            { live := true, pc := next, mask := v.mask &&& ~~~ T })) ∧
      (∀ t, T ≠ 0 → T ≠ v.mask → bit o.cond 4 = false → v.g.top = some t →
        let other := v.g.slot (!v.d)
        let split (g : Group) : Group :=
          let g := { g with top := some { pc := rcv, mask := v.mask, rpc := some t.pc, arr := false } }
          (g.setSlot v.d { live := true, pc := target, mask := T }).setSlot (!v.d) { live := true, pc := next, mask := v.mask &&& ~~~ T }
        (v.g.divLimit < v.g.depth + (if other.live then 2 else 1) → RaisesAt (.bra h o) s v0 v clsDIV) ∧
        (v.g.depth + (if other.live then 2 else 1) ≤ v.g.divLimit → ∀ s2 s3, pushEntry (startRun s v0) v t .none = (s2, none) →
          (if other.live then pushEntry s2 v { pc := other.pc, mask := other.mask, rpc := some t.pc, arr := other.arr } other.wait
           else (s2, none)) = (s3, none) →
          exec (.bra h o) s = .next (finishJump v (s3.modGroup v.handle v.gi split)))))) ∧
  (∀ (s s2 : State) (v : View) (g : Group) (e : DivEntry) (w : Wait), s.group? v.handle v.gi = some g → g.gates = [] →
    g.depth < g.divLimit →
    let image : Nat := (if e.arr then 3 else 1) + e.pc.toNat + 2 ^ 64 * e.mask.toNat + 2 ^ 96 * (match e.rpc with
      | none => 0x80000000
      | some r => (((r.toNat : Int) - e.pc.toNat) / 8 % 2 ^ 32).toNat)
    e.pc.toNat % 8 = 0 → e.pc.toNat < 2 ^ 56 → (∀ r, e.rpc = some r → r.toNat < 2 ^ 56) →
    vpost s g.asid.toNat .post (g.divBase + BitVec.ofNat 64 (16 * g.depth)) (toBytes image 16) = (s2, none) →
    s2.isAway g.asid.toNat (g.divBase + BitVec.ofNat 64 (16 * g.depth)) = false → s2.group? v.handle v.gi = some g →
    ∃ t g', pushEntry s v e w = (t, none) ∧ t.group? v.handle v.gi = some g' ∧ g'.depth = g.depth + 1 ∧ g'.slot0 = g.slot0 ∧
      g'.slot1 = g.slot1 ∧ g'.top = g.top ∧ t.mem = s2.mem) ∧
  (∀ (n : Nat) (s : State) (h gi : Nat) (b : Block) (g : Group) (t : DivEntry),
    AMap.get? s.blocks h = some b → b.groups[gi]? = some g → g.forced = none → g.exited ≠ 0xFFFFFFFF#32 → g.top = some t →
    g.area.isEmpty = true → (g.slot0.live = true → g.slot0.arr = true) → (g.slot1.live = true → g.slot1.arr = true) →
    let m := t.mask &&& ~~~ g.exited
    let first : Slot := if m = 0 then {} else { live := true, pc := t.pc, mask := m }
    let mark (top : Option DivEntry) (x : Slot) : Slot := if x.live = true ∧ top.map DivEntry.pc = some x.pc then { x with arr := true } else x
    let second (e : DivEntry) : Slot :=
      let k := e.mask &&& ~~~ g.exited
      { (if k = 0 then ({} : Slot) else { live := true, arr := e.arr, pc := e.pc, mask := k }) with
        wait := AMap.getD g.pushed (g.depth - 1) .none }
    let to_ (s' : State) (top : Option DivEntry) (depth : Nat) (one : Slot) : Prop :=
      settle (n + 1) s h gi = settle n (s'.modGroup h gi (fun _ =>
        { g with slot0 := mark top first, slot1 := one, top, depth })) h gi
    (g.depth ≤ g.floor → to_ s none g.depth {}) ∧
    (∀ s1 e, g.floor < g.depth → newestEntry s { g with slot0 := first, slot1 := {}, top := none } = (s1, .ok e) →
      (e.rpc ≠ t.rpc → to_ s1 (some e) (g.depth - 1) {}) ∧
      (e.rpc = t.rpc → g.depth - 1 ≤ g.floor → to_ s1 none (g.depth - 1) (second e)) ∧
      (∀ s2 e2, e.rpc = t.rpc → g.floor < g.depth - 1 →
        newestEntry s1 { g with slot0 := first, slot1 := second e, top := none, depth := g.depth - 1 } = (s2, .ok e2) →
        to_ s2 (some e2) (g.depth - 2) (second e)))) ∧
  (∀ (s s1 : State) (g : Group) (bs : List Byte), g.gates = [] → AMap.get? g.away (g.depth - 1) = none →
    vread s g.asid.toNat (g.divBase + BitVec.ofNat 64 (16 * (g.depth - 1))) 16 = (s1, .ok bs) → bs.length = 16 →
    let at_ (k n : Nat) : Nat := ofBytes ((bs.drop k).take n)
    ∃ e, newestEntry s g = (s1, .ok e) ∧ e.pc.toNat = at_ 0 7 / 8 * 8 ∧ e.mask.toNat = at_ 8 4 ∧ (e.arr = true ↔ at_ 0 1 / 2 % 2 = 1) ∧
      (e.rpc = none ↔ at_ 12 4 = 0x80000000) ∧
      ∀ r, e.rpc = some r → r = e.pc + BitVec.ofInt 64 (8 * (BitVec.ofNat 32 (at_ 12 4)).toInt))

/-- R229, R376, R378: `brx` and `ret` jump to the target their pair holds, when every executing lane holds it; with no executing lane they
fall through; a target that is no multiple of 8 raises ALN, and lanes that disagree or stay out raise UNI. -/
def Obligations.PairJumps : Prop :=
  ∀ (s : State) (v0 v : View) (h : Head) (o : F3),
    let tgt (l : Nat) : W64 := v.src64 h (bit o.mod 13) o.sa l
    let does (i : Instr) : Prop :=
      Issues i h.s .all s v0 v →
      (v.units h = [] → Jumps i s v0 v (goTo v (v.pc + 8))) ∧
      (∀ t : W64, v.units h ≠ [] → (h.u = true ∨ v.lanes h = v.mask) → (∀ l ∈ v.units h, tgt l = t) → t.toNat % 8 = 0 →
        Jumps i s v0 v (goTo v t)) ∧
      (h.u = false → v.units h ≠ [] → (∀ l ∈ v.units h, (tgt l).toNat % 8 = 0) →
        (v.lanes h ≠ v.mask ∨ ∃ l ∈ v.units h, ∃ m ∈ v.units h, tgt l ≠ tgt m) → RaisesAt i s v0 v clsUNI) ∧
      ((∃ l ∈ v.units h, (tgt l).toNat % 8 ≠ 0) → ∃ q : Req, q.cls = clsALN ∧
        exec i s = .next (faultAt (startRun s v0) (startRun s v0) v q))
    does (.brx h o) ∧ does (.ret h o)

/-- R230, R231, R389, R390, R394: `call` writes the address of the next word into the link pair and jumps; `exit` takes lanes out of the
group. When none is left in a handler, its level ends: the slots and the top come back from the save area without the lanes that have
exited, and the slot that entered does not count on its RPC unless lanes of it are left. When none is left in a gate call with
nothing outstanding, the call ends as a forced return of reason 5: the caller goes on with its image, zeros for the arguments and
results, and 0x80000500 in `s0`. -/
def Obligations.CallsAndExits : Prop :=
  (∀ (s : State) (v0 v : View) (h : Head),
    (∀ o : FB, Issues (.call h o) h.s .all s v0 v →
      (v.units h = [] → Jumps (.call h o) s v0 v (goTo v (v.pc + 8))) ∧
      (h.u = false → v.units h ≠ [] → v.lanes h ≠ v.mask → RaisesAt (.call h o) s v0 v clsUNI) ∧
      (v.units h ≠ [] → (h.u = true ∨ v.lanes h = v.mask) →
        ∃ R, exec (.call h o) s = .next (finishJump v ((v.put (startRun s v0) R).modGroup v.handle v.gi
            (goTo v (BitVec.ofInt 64 (v.pc.toNat + 8 * o.tgt.toInt))))) ∧
          WroteN v h true o.cond.toNat 0 (fun _ => v.pc + 8) R)) ∧
    (∀ o : F3, Issues (.exit h o) h.s .all s v0 v →
      (h.u = true → v.go h = true →
        Jumps (.exit h o) s v0 v (fun g => { g with exited := 0xFFFFFFFF#32, slot0 := {}, slot1 := {}, top := none })) ∧
      (h.u = true → v.go h = false → Jumps (.exit h o) s v0 v (goTo v (v.pc + 8))) ∧
      (h.u = false → v.lanes h = v.mask →
        Jumps (.exit h o) s v0 v (fun g => { g with exited := g.exited ||| v.mask }.setSlot v.d {})) ∧
      (h.u = false → v.lanes h ≠ v.mask →
        ∃ f : Group → Group, Jumps (.exit h o) s v0 v f ∧ ∀ g, (f g).exited = g.exited ||| v.lanes h ∧
          ((f g).slot v.d).mask = v.mask &&& ~~~ v.lanes h ∧ ((f g).slot v.d).pc = v.pc + 8 ∧
          (f g).slot (!v.d) = g.slot (!v.d)))) ∧
  (∀ (s : State) (v0 v : View) (h : Head) (o : F3), Issues (.exit h o) h.s .all s v0 v → h.u = false → v.lanes h = v.mask →
    (v.g.slot (!v.d)).live = false → v.g.top = none → v.g.forced = none → v.g.longRun = false → v.g.remFail = [] → v.g.swrs = [] →
    let out := v.g.exited ||| v.mask
    let cut (x : Slot) : Slot := if x.mask &&& ~~~ out = 0 then {} else { x with mask := x.mask &&& ~~~ out }
    let same (x y : Slot) : Prop := x.live = y.live ∧ x.arr = y.arr ∧ x.mask = y.mask
    out ≠ 0xFFFFFFFF#32 →
    (0 < v.g.level →
      let sv := if v.g.level = 1 then v.g.hsv1 else v.g.hsv2
      ((cut sv.slot0).live = true ∧ sv.slot0.arr = false) ∨ ((cut sv.slot1).live = true ∧ sv.slot1.arr = false) →
      ∃ t g, exec (.exit h o) s = .next t ∧ t.group? v.handle v.gi = some g ∧ g.level = v.g.level - 1 ∧ g.exited = out ∧
        g.top = sv.top ∧ g.depth = sv.depth ∧ same g.slot0 (cut sv.slot0) ∧ same g.slot1 (cut sv.slot1) ∧
        (sv.dslot = true → g.slot0.pc = (cut sv.slot0).pc) ∧ (sv.dslot = false → g.slot1.pc = (cut sv.slot1).pc)) ∧
    (∀ f rest, v.g.level = 0 → v.g.gates = f :: rest → v.g.counters = {} → v.g.held = [] →
      (startRun s v0).remotesOf v.handle v.gi = [] → v.g.failures = [] → v.g.pend = [] →
      ((cut f.slot0).live = true ∧ f.slot0.arr = false) ∨ ((cut f.slot1).live = true ∧ f.slot1.arr = false) →
      (∀ t, f.top = some t → t.pc ≠ f.slot0.pc ∧ t.pc ≠ f.slot1.pc ∧ t.pc ≠ f.iaddr + 8) →
      ∃ t g, exec (.exit h o) s = .next t ∧ t.group? v.handle v.gi = some g ∧ g.gates = rest ∧ g.exited = out ∧ g.level = 0 ∧
        g.asid = f.asid ∧ g.auth = f.auth ∧ g.tvt = f.tvt ∧ g.top = f.top ∧ g.depth = f.depth ∧ g.counters = f.counters ∧
        same g.slot0 (cut f.slot0) ∧ same g.slot1 (cut f.slot1) ∧ g.live.uni 0 = 0x80000500#32 ∧
        (∀ r, 0 < r → g.live.uni r = if r < f.args then 0 else f.regs.uni r) ∧
        (∀ r l, l < 32 → g.live.vec r l = if r < f.argv ∧ bit f.mask l = true then {} else f.regs.vec r l)))

/-- R79, R232–R234, R243, R365, R366: `bar`, `barw`, `yld` and `step` wait at their word, `yld` with both slots of its group; `bara` and `barw`
arrive at the named barrier, whose count goes up by one or, when the phase completes, starts anew; inside a handler the waiting ones raise
HDL. `bar` and `barw` end their run with its results written, since all of them have come. That a new phase starts with the killed groups
as arrived is the model's choice (log 61): R366 says only that a killed group counts as arrived at every barrier. -/
def Obligations.BarriersWait : Prop :=
  ∀ (s : State) (v0 v : View) (h : Head) (o : F3) (p : FI), v.go h = true →
    let n := fldN p.imm 0 4
    let count := fldN p.imm 4 5
    let ph := v.b.phase n count
    let s1 := startRun s v0
    let arrived := s1.modBlock v.handle (fun b => b.arrive v.gi n count)
    let came (s : State) : State := s.modGroup v.handle v.gi (fun g => { g with longRun := false })
    let rest (x : Slot) : Slot := if x.wait = .none then { x with wait := .retry (.counter 0 64) } else x
    (Issues (.bar h o) h.s .notAud s v0 v → v.g.level = 0 → Drained s v0 v → Parks (.bar h o) s v .bar (came s1)) ∧
    (Issues (.bar h o) h.s .notAud s v0 v → v.g.level ≠ 0 → RaisesAt (.bar h o) s v0 v clsHDL) ∧
    (Issues (.yld h o) h.s .notAud s v0 v → Parks (.yld h o) s v .passed
      (s1.modGroup v.handle v.gi (fun g => g.setSlot (!v.d) (rest (g.slot (!v.d)))))) ∧
    (∀ (s : State) (h gi core : Nat) (g : Group), condHolds s h gi core g (.counter 0 64) = decide (g.counters.cpy ≤ 64)) ∧
    (Issues (.bara h p) h.s .notAud s v0 v → Drained s v0 v → ph.count = count →
      exec (.bara h p) s = .next (finish v h.s arrived)) ∧
    (Issues (.bara h p) h.s .notAud s v0 v → ph.count ≠ count → RaisesAt (.bara h p) s v0 v clsUNI) ∧
    (Issues (.barw h p) h.s .notAud s v0 v → v.g.level = 0 → Drained s v0 v → ph.count = count →
      Parks (.barw h p) s v (if count ≤ ph.arrived + 1 then .passed else .barw n)
        ((came s1).modBlock v.handle (fun b => b.arrive v.gi n count))) ∧
    (Issues (.barw h p) h.s .notAud s v0 v → v.g.level ≠ 0 → RaisesAt (.barw h p) s v0 v clsHDL) ∧
    (∀ (b : Block) (gi : Nat),
      let p : Named := (AMap.get? b.named n).getD { count, arrived := (b.groups.filter Group.killed).length }
      b.phase n count = p ∧ AMap.get? (b.arrive gi n count).named n =
        if p.count ≤ p.arrived + 1 then none else some { p with arrived := p.arrived + 1, who := gi :: p.who }) ∧
    (∀ l, Issues (.step h o) h.s .notAud s v0 v → v.g.level = 0 → Drained s v0 v → s1.launchOf v.b = some l → l.stepped = true →
      v.g.gates = [] → v.g.base.uni o.sa.toNat = l.stepno + 1 →
      (∀ m, (v.g.slot (!v.d)).live = true → (v.g.slot (!v.d)).wait = .step m → m = l.stepno + 1) →
      Parks (.step h o) s v (.step (l.stepno + 1)) s1)

/-- R237, R239: a gate call whose entry passes the checks writes the spill image of its caller, keeps the caller's registers, address space,
authority, vector table, slots, divergence top, depth and counters, and enters the callee: its own ASID and authority, at the entry's address, with
the arguments, zeros in every other register and false in every predicate. `gret` of a callee with nothing outstanding restores the
caller: its address space, authority, vector table, stack and counters, its slots, the calling one at the word after its call, the
results the entry names, zeros for its other arguments, and the caller's other registers and predicates. -/
def Obligations.GateCallsAndReturns : Prop :=
  (∀ (s : State) (v0 v : View) (h : Head) (o : FI) (s2 s3 : State) (bs : List Byte),
    let n := fldN o.imm 0 9
    let p := (asidPart v.g.asid.toNat).getD 0
    let s1 := startRun s v0
    let tab := if n < 256 then s1.reg64 p 0x6040 else s1.reg64 0 0x5400
    let e := GateEntry.ofBytes bs
    Issues (.gcall h o) h.s .owner s v0 v → v.go h = true → v.g.level = 0 → Drained s v0 v → tab ≠ 0 →
    capture s1 v.core (if n < 256 then 16 * p else 0x400) (tab + BitVec.ofNat 64 (32 * (n % 256))) 32 = (s2, .ok bs) →
    e.ok s2 p n v.regs v.g.gates.length = true →
    vpost s2 (16 * p) .post (s2.reg64 p 0x6044 + BitVec.ofNat 64 (65536 * (4 * (31 * v.core + v.gslot) + v.g.gates.length)))
      (spillBytes s2 p v.handle (v.g.gates.length + 1) s2.fresh) = (s3, none) →
    ∃ f : Group → Group,
      exec (.gcall h o) s = .next (finishJump v ((s3.tick.modBlock v.handle (fun b => commitBlock b v.gi)).modGroup v.handle v.gi f)) ∧
      ∀ g, (f g).asid.toNat = (if n < 256 then (16 * p + e.dom) % 2048 else (0x400 + e.dom) % 2048) ∧
        (f g).auth.toNat = (if n < 256 then 0 else 1) ∧ (f g).tvt = e.tvt ∧ (f g).slot0 = { live := true, pc := e.entry, mask := v.mask } ∧
        (f g).slot1 = {} ∧ (f g).top = none ∧ (f g).depth = 0 ∧ (f g).counters = {} ∧ (f g).base = (f g).live ∧
        (∀ r l, l < 32 → (f g).live.vec r l = if r < e.argv then g.live.vec r l else { bits := 0, tag := tagI32 }) ∧
        (∀ r, (f g).live.uni r = if r < e.args then g.live.uni r else 0) ∧
        (∀ k l, (f g).live.pred k l = decide (k = 7)) ∧ (∀ k, (f g).live.upred k = decide (k = 7)) ∧ (f g).live.acc = g.live.acc ∧
        ∃ x : GateFrame, (f g).gates = x :: g.gates ∧ x.regs = g.live ∧ x.asid = g.asid ∧ x.auth = g.auth ∧ x.tvt = g.tvt ∧
          x.slot0 = g.slot0 ∧ x.slot1 = g.slot1 ∧ x.d = v.d ∧ x.iaddr = v.pc ∧ x.top = g.top ∧ x.depth = g.depth ∧ x.counters = g.counters ∧
          x.argv = e.argv ∧ x.args = e.args ∧ x.retv = e.retv ∧ x.rets = e.rets ∧ x.mask = v.mask ∧
          (e.limit ≠ 0 → x.deadline = some (s3.gt + 4096 * e.limit))) ∧
  (∀ (s : State) (v0 v : View) (h : Head) (o : F3) (f : GateFrame) (rest : List GateFrame),
    Issues (.gret h o) h.s .notAud s v0 v → v.go h = true → Drained s v0 v → v.g.gates = f :: rest → v.g.counters = {} →
    v.g.failures = [] →
    ∃ t g, exec (.gret h o) s = .next (finishJump v t) ∧ t.group? v.handle v.gi = some g ∧ g.gates.length = rest.length ∧
      g.asid = f.asid ∧ g.auth = f.auth ∧ g.tvt = f.tvt ∧ g.depth = f.depth ∧ g.top = f.top ∧ g.counters = f.counters ∧ g.level = 0 ∧
      (∀ d : Bool,
        let x := if d then f.slot1 else f.slot0
        let m := x.mask &&& ~~~ v.g.exited
        (m = 0 → g.slot d = {}) ∧
        (m ≠ 0 → (g.slot d).mask = m ∧ (g.slot d).live = x.live ∧ (d ≠ f.d ∨ x.live = false → (g.slot d).pc = x.pc ∧ (g.slot d).wait = x.wait) ∧
          (d = f.d → x.live = true → (g.slot d).pc = f.iaddr + 8 ∧ (g.slot d).wait = .none))) ∧
      (∀ r, g.live.uni r = if r < f.args then (if r < f.rets then v.g.live.uni r else 0) else f.regs.uni r) ∧
      (∀ r l, l < 32 → g.live.vec r l =
        if r < f.argv ∧ bit f.mask l = true then (if r < f.retv then v.g.live.vec r l else { bits := 0, tag := tagI32 })
        else f.regs.vec r l) ∧
      (∀ k l, g.live.pred k l = f.regs.pred k l) ∧ (∀ k, g.live.upred k = f.regs.upred k) ∧ g.base = g.live) ∧
  (∀ (s : State) (v0 v : View) (h : Head) (o : FI) (p : F3),
    (v.go h = false → Issues (.gcall h o) h.s .owner s v0 v → exec (.gcall h o) s = .next (finish v h.s (startRun s v0))) ∧
    (v.go h = false → Issues (.gret h p) h.s .notAud s v0 v → exec (.gret h p) s = .next (finish v h.s (startRun s v0))) ∧
    (v.go h = true → v.g.gates = [] → Issues (.gret h p) h.s .notAud s v0 v → RaisesAt (.gret h p) s v0 v clsENC))

/-- R361, R363: `trap` enters the handler found for it, on the next level: the save area holds the slots, the top and depth, and RPC, the
word after the trap; the handler runs at its address with the trap's mask and number. -/
def Obligations.TrapEntersHandler : Prop :=
  ∀ (s : State) (v0 v : View) (h : Head) (o : FI) (g0 : Group) (s3 : State) (hd : W64),
    let s1 := startRun s v0
    let n := fldN o.imm 0 8
    let q : Req := { cls := 0, lanes := v.mask, trap := some n }
    let s2 := (s1.modBlock v.handle (fun b => commitBlock b v.gi)).modGroup v.handle v.gi
      (fun g => g.setSlot v.d { g.slot v.d with cnt := 0, wait := .none })
    Issues (.trap h o) h.s .notAud s v0 v → v.go h = true → s1.lateOut v.handle v.gi = false → vecLine s1 v q = .there →
    s1.group? v.handle v.gi = some g0 → g0.level < 2 → findHandler s2 v.core g0 0 = (s3, some hd) →
    ∃ f : Group → Group, exec (.trap h o) s = .next (s3.modGroup v.handle v.gi f) ∧
      ∀ g, g.level = g0.level → (f g).level = g.level + 1 ∧ (f g).slot v.d = { live := true, pc := hd, mask := v.mask } ∧
        ((f g).slot (!v.d)).live = false ∧ (f g).top = none ∧ (f g).cls = 0 ∧ (f g).trapno.toNat = n ∧
        (f g).hsv.slot0 = g.slot0 ∧ (f g).hsv.slot1 = g.slot1 ∧ (f g).hsv.top = g.top ∧ (f g).hsv.depth = g.depth ∧
        (f g).hsv.rpc = v.pc + 8 ∧ (f g).hsv.dslot = v.d

/-- R361, R363, R364, R366, R395: a fault below level 2 whose class has a handler enters it with the fault's lanes, the class, and RPC the
faulting word; the run's earlier results are written; the owner's half is the handler's, and the operator's event queue's too inside an
operator-gate call. At level 2, or without a handler in the vector table, a group outside a call is killed, with a record: its lanes have
all exited, its slots, handler levels and held accesses are gone, its operations stay, and it has arrived at a named barrier whose phase
it had not arrived in. -/
def Obligations.FaultEntersHandler : Prop :=
  (∀ (s : State) (v : View) (q : Req) (g0 : Group) (s3 : State) (hd : W64),
    let s2 := (s.modBlock v.handle (fun b => commitBlock b v.gi)).modGroup v.handle v.gi
      (fun g => g.setSlot v.d { g.slot v.d with cnt := 0, wait := .none })
    let to_ : OwnerTo := if g0.inOperGate then .oper else .none
    q.kill = false → q.trap = none → q.rpc = none → q.cls ≠ clsHDL → s.group? v.handle v.gi = some g0 → g0.level < 2 →
    findHandler s2 v.core g0 q.cls = (s3, some hd) →
    ∃ (r : Rec) (f : Group → Group), r.cls = q.cls ∧ r.iaddr = q.iaddr.getD v.pc ∧ r.vaddr = q.vaddr ∧ r.kind = q.kind ∧ r.lanes = q.lanes ∧
      r.core = some v.core ∧ r.slot = some v.gslot ∧ r.kill = false ∧
      takeFault s v q = (s3.record r to_).1.modGroup v.handle v.gi f ∧ ∀ g, g.level = g0.level → (f g).level = g.level + 1 ∧ (f g).slot v.d = { live := true, pc := hd, mask := q.lanes } ∧
        ((f g).slot (!v.d)).live = false ∧ (f g).cls = BitVec.ofNat 8 q.cls ∧ (f g).hsv.rpc = v.pc ∧
        (f g).hsv.slot0 = g.slot0 ∧ (f g).hsv.slot1 = g.slot1 ∧ (f g).hsv.dslot = v.d ∧ (f g).hsv.owner = (s3.record r to_).2) ∧
  (∀ (s : State) (v : View) (q : Req) (g0 : Group),
    let s2 := (s.modBlock v.handle (fun b => commitBlock b v.gi)).modGroup v.handle v.gi
      (fun g => g.setSlot v.d { g.slot v.d with cnt := 0, wait := .none })
    let to_ := g0.ownerTo v.b.part?
    let placed (r : Rec) : Prop := r.iaddr = q.iaddr.getD v.pc ∧ r.core = some v.core ∧ r.slot = some v.gslot ∧ r.kill = true
    q.kill = false → q.trap = none → s.group? v.handle v.gi = some g0 → g0.gates = [] → (s2.group? v.handle v.gi).map Group.gates = some [] →
    ((g0.level = 2 ∨ q.cls = clsHDL) → ∃ r, placed r ∧ r.cls = clsHDL ∧
      takeFault s v q = killGroup (s2.record r to_).1 v.handle v.gi) ∧
    (∀ s3, g0.level < 2 → q.cls ≠ clsHDL → findHandler s2 v.core g0 q.cls = (s3, none) →
      (s3.group? v.handle v.gi).map Group.gates = some [] →
      ∃ r f, placed r ∧ r.cls = q.cls ∧ r.novec = true ∧ r.vaddr = q.vaddr ∧ r.kind = q.kind ∧ r.lanes = q.lanes ∧
        (∀ g : Group, g.remFail = [] → f g = g) ∧
        takeFault s v q = killGroup ((s3.modGroup v.handle v.gi f).record r to_).1 v.handle v.gi)) ∧
  (∀ (s : State) (h gi : Nat) (b : Block) (g : Group) (l : Option Nat), AMap.get? s.blocks h = some b → b.owner = .launch l →
    b.groups[gi]? = some g → ∃ g', (killGroup s h gi).group? h gi = some g' ∧ g'.exited = 0xFFFFFFFF#32 ∧ g'.killed = true ∧ g'.slot0 = {} ∧
      g'.slot1 = {} ∧ g'.top = none ∧ g'.held = [] ∧ g'.gates = [] ∧ g'.level = 0 ∧ g'.counters = g.gates.foldl (fun c f => c.add f.counters) g.counters ∧
      (killGroup s h gi).mem = (flushFailures s h gi 0).mem ∧ (killGroup s h gi).ops = (flushFailures s h gi 0).ops ∧
      ∀ k, k ≠ h → AMap.get? (killGroup s h gi).blocks k = AMap.get? (flushFailures s h gi 0).blocks k) ∧
  (∀ (b : Block) (gi n : Nat) (p : Named), b.named = [(n, p)] → gi ∉ p.who →
    AMap.get? (b.arriveKilled gi).named n = if p.count ≤ p.arrived + 1 then none else some { p with arrived := p.arrived + 1, who := gi :: p.who })

/-- R242, R388: `rte` restores both slots, the divergence top and the depth from the save area of the innermost level and leaves that level:
the slot that entered goes on at RPC, the other as it was saved, both without the lanes that have exited; `hmode` shows the level
outside. No register changes. Outside a handler it raises ENC; with a false guard it does nothing. -/
def Obligations.RteLeavesHandler : Prop :=
  ∀ (s : State) (v0 v : View) (h : Head) (o : F3), Issues (.rte h o) h.s .notAud s v0 v →
    (v.go h = false → exec (.rte h o) s = .next (finish v h.s (startRun s v0))) ∧
    (v.go h = true → v.g.level = 0 → RaisesAt (.rte h o) s v0 v clsENC) ∧
    (v.go h = true → v.g.level ≠ 0 → ∃ f : Group → Group, Jumps (.rte h o) s v0 v f ∧
      ∀ g : Group,
        let sv := if g.level = 1 then g.hsv1 else g.hsv2
        (f g).level = g.level - 1 ∧ (f g).top = sv.top ∧ (f g).depth = sv.depth ∧
        (f g).cls = (if g.level = 2 then g.hsv1.cls else 0) ∧ (f g).trapno = (if g.level = 2 then g.hsv1.trapno else 0) ∧
        (∀ d : Bool,
          let x := if d then sv.slot1 else sv.slot0
          let m := x.mask &&& ~~~ g.exited
          (m = 0 → (f g).slot d = {}) ∧
          (m ≠ 0 → ((f g).slot d).mask = m ∧ ((f g).slot d).live = x.live ∧
            ((f g).slot d).pc = (if d = sv.dslot then sv.rpc else x.pc) ∧ ((f g).slot d).wait = (if d = sv.dslot then .none else x.wait))) ∧
        (f g).base = g.base ∧ (f g).live = g.live ∧ (f g).tvt = g.tvt ∧ (f g).exited = g.exited ∧ (f g).counters = g.counters ∧
        (f g).gates = g.gates ∧ (f g).asid = g.asid ∧ (f g).auth = g.auth ∧ (f g).hsv1 = g.hsv1 ∧ (f g).hsv2 = g.hsv2 ∧
        (f g).prog = g.prog)

/-- The word is not performed: the group is stopped, and its block waits for a frame, not counted as in use (R342). -/
def WaitsForCopy (i : Instr) (s s2 : State) (v : View) (f : Nat) : Prop :=
  ∃ r : Rec, exec i s = .next ((s2.addMissing v.handle v.gi (.frame f) r).modGroup v.handle v.gi (fun g => { g with stopped := true }))

/-- R245, R246: `qput` and `qget` of a running queue with room, or with entries, take the next index, write it to the destination and advance
the descriptor's RESV or TAKEN modulo 2^31; of a queue that is not ready, the flag form answers 0x80000000. `qctl` by the consumer: `done`
moves RIDX past an index whose turn it is, `err` sets state 1 with the code and the time, `run` clears it, `setr` moves RIDX and TAKEN in
state 1, `stat` changes nothing; each answers the state. A word that would change a descriptor whose frame is marked for a checkpoint's copy waits for the
copy (R342): the group stops, and the block waits for the frame. -/
def Obligations.QueueWords : Prop :=
  (∀ (s : State) (v0 v : View) (h : Head) (o : FM) (s2 s3 : State) (pa : Nat) (home : List Byte) (q : Queue),
    let va := v.src64 h false o.base 0
    v.go h = true → Drained s v0 v → QueueAt (startRun s v0) v va s2 pa home q →
    (Issues (.qput h o) h.s .notAud s v0 v → asidPart v.g.asid.toNat = some q.pprod →
      (q.state = 0 → (q.resv + 2 ^ 31 - q.ridx) % 2 ^ 31 < q.slots → s2.cow.contains (pa / 65536) = true →
        WaitsForCopy (.qput h o) s s2 v (pa / 65536)) ∧
      (q.state = 0 → (q.resv + 2 ^ 31 - q.ridx) % 2 ^ 31 < q.slots →
        s2.cow.contains (pa / 65536) = false → s2.physWrite pa (Queue.bytes { q with resv := (q.resv + 1) % 2 ^ 31 } home none) = .ok s3 →
        exec (.qput h o) s = .next (finish v h.s (v.longPut s3 (v.g.live.setUni o.dst.toNat (BitVec.ofNat 32 q.resv))))) ∧
      (q.state ≠ 0 ∨ q.slots ≤ (q.resv + 2 ^ 31 - q.ridx) % 2 ^ 31 → bit o.xsc 0 = true →
        exec (.qput h o) s = .next (finish v h.s (v.longPut s2 (v.g.live.setUni o.dst.toNat 0x80000000#32))))) ∧
    (Issues (.qget h o) h.s .notAud s v0 v → asidPart v.g.asid.toNat = some q.pcons →
      (q.state = 0 → q.taken ≠ q.resv → s2.cow.contains (pa / 65536) = true → WaitsForCopy (.qget h o) s s2 v (pa / 65536)) ∧
      (q.state = 0 → q.taken ≠ q.resv →
        s2.cow.contains (pa / 65536) = false → s2.physWrite pa (Queue.bytes { q with taken := (q.taken + 1) % 2 ^ 31 } home none) = .ok s3 →
        exec (.qget h o) s = .next (finish v h.s (v.longPut s3 (v.g.live.setUni o.dst.toNat (BitVec.ofNat 32 q.taken))))) ∧
      (q.state ≠ 0 ∨ q.taken = q.resv → bit o.xsc 0 = true →
        exec (.qget h o) s = .next (finish v h.s (v.longPut s2 (v.g.live.setUni o.dst.toNat 0x80000000#32)))))) ∧
  (∀ (s : State) (v0 v : View) (h : Head) (o : F3) (s2 s3 : State) (pa : Nat) (home : List Byte) (q : Queue),
    let va := v.src64 h false o.sa 0
    let b := v.src h false o.sb 0
    let i := b.toNat % 2 ^ 31
    let ends (j : Instr) (q' : Queue) (err : Option (W32 × Nat)) : Prop :=
      Issues j h.s .notAud s v0 v → q'.bytes home err ≠ home.take 32 →
      (s2.cow.contains (pa / 65536) = true → WaitsForCopy j s s2 v (pa / 65536)) ∧
      (s2.cow.contains (pa / 65536) = false → s2.physWrite pa (q'.bytes home err) = .ok s3 → exec j s = .next (finish v h.s (v.longPut s3 (v.g.live.setUni o.dst.toNat (BitVec.ofNat 32 (q'.state % 4))))))
    v.go h = true → Drained s v0 v → QueueAt (startRun s v0) v va s2 pa home q → asidPart v.g.asid.toNat = some q.pcons →
    (q.ridx = i → ends (.qctlDone h o) { q with ridx := (i + 1) % 2 ^ 31 } none) ∧
    ends (.qctlErr h o) { q with state := 1 } (some (b, s2.gt)) ∧
    (q.state = 1 → ends (.qctlRun h o) { q with state := 0 } none) ∧
    (q.state = 1 → (i + 2 ^ 31 - q.ridx) % 2 ^ 31 ≤ (q.resv + 2 ^ 31 - q.ridx) % 2 ^ 31 →
      ends (.qctlSetr h o) { q with ridx := i, taken := i } none) ∧
    (Issues (.qctlStat h o) h.s .notAud s v0 v → q.bytes home none = home.take 32 →
      exec (.qctlStat h o) s = .next (finish v h.s (v.longPut s2 (v.g.live.setUni o.dst.toNat (BitVec.ofNat 32 (q.state % 4)))))))
/-! ### Memory (R118, R257–R273) -/

/-- R116, R118, R257: the effective address is base plus index, scaled or in bytes, plus scaled offset, modulo 2^64; a translation changes
nothing but TLBs and, in memory, the TIER bit of the leaf it walked to. -/
def Obligations.AddressesAndTranslation : Prop :=
  (∀ (v : View) (h : Head) (o : FM) (l : Nat),
    let i : Int := if o.idx.toNat = 0xFF then 0 else if bit o.xsc 0 then (v.src h false o.idx l).toNat else (v.src h false o.idx l).toInt
    effAddr v h o l = BitVec.ofInt 64 ((v.src64 h false o.base l).toNat + (if bit o.xsc 1 then i else i * 2 ^ o.wid.toNat) +
      o.off.toInt * 2 ^ o.wid.toNat)) ∧
  (∀ (s : State) (core : Option Nat) (a : Nat) (k : Acc) (va : W64) (n : Nat),
    let t := (judge s core a k va n).1
    OnlyMemory { s with cores := t.cores } t ∧
    (∀ x, t.byte x ≠ s.byte x → ∃ pte lg pa, s.walk a va.toNat = .leaf pte lg pa ∧ pa ≤ x ∧ x < pa + 8 ∧
      (List.range 8).map (fun i => t.byte (pa + i)) = toBytes (setFld pte 10 1 (s.tierOf (fldN pte 16 32))).toNat 8))

/-- R258, R261: `ld` and the typed loads read each executing lane's bytes into its register group, zero-extended, with their tag, and change
nothing else; `st` stores each executing lane's register group at its address, in ascending lane order; every other byte and all else stays. -/
def Obligations.LoadsAndStores : Prop :=
  (∀ (s s2 : State) (v0 v : View) (h : Head) (o : FM) (pa : Nat → Nat) (tag : BitVec 4),
    let w := 2 ^ o.wid.toNat
    let lanes := v.units h
    let reads (i : Instr) (tag : BitVec 4) : Prop :=
      Issues i h.s .notAud s v0 v → Lands (startRun s v0) v .load w (lanes.map (fun l => (l, effAddr v h o l))) s2 pa →
      ∃ R, exec i s = .next (finish v h.s (s2.modGroup v.handle v.gi (fun g => { g with live := R, longRun := true }))) ∧
        Loaded v h.u o.dst.toNat w tag lanes (fun l => s2.bytes (pa l) w) R
    reads (.ld h o) 0 ∧ reads (.ldTyped h tag o) tag) ∧
  (∀ (s s2 : State) (v0 v : View) (h : Head) (o : FM) (pa : Nat → Nat),
    let w := 2 ^ o.wid.toNat
    let lanes := v.units h
    Issues (.st h o) h.s .all s v0 v → Lands (startRun s v0) v .store w (lanes.map (fun l => (l, effAddr v h o l))) s2 pa →
    ∃ t, exec (.st h o) s = .next (finish v h.s (t.modGroup v.handle v.gi (fun g => g))) ∧ OnlyMemory s2 t ∧
      ∀ a, t.byte a = (memRun w pa (fun l _ => (List.range w).map (groupByte v h.u o.dst.toNat l)) s2.byte lanes).1 a)

/-- R265, R266, R382, R383: the operations of atomics on words and doublewords; `atom` and `red` perform their operation for each executing
lane at or above INDEX, in some order, each on what the one before left; `atom` returns what each lane found; INDEX is 0 after; all else
stays. Where forced sealing stops the word at a lane, INDEX is that lane after and the word has not completed. -/
def Obligations.AtomicsActInSomeOrder : Prop :=
  ((∀ m d e : W32,
    let is (aop aty : Nat) (x : W32) : Prop := atomNew aop aty m.toNat d.toNat e.toNat = x.toNat
    (∀ y, y = 0 ∨ y = 1 → is 0 y (m + d) ∧ is 3 y (m &&& d) ∧ is 4 y (m ||| d) ∧ is 5 y (m ^^^ d) ∧ is 6 y d ∧
      is 7 y (if m = d then e else m)) ∧
    is 1 0 (if m.slt d then m else d) ∧ is 1 1 (if m.ult d then m else d) ∧ is 2 0 (if m.slt d then d else m) ∧
    is 2 1 (if m.ult d then d else m) ∧ is 8 1 (if m.ult d then m + 1 else 0) ∧ is 6 3 d) ∧
  (∀ m d e : W64,
    let is (aop : Nat) (x : W64) : Prop := atomNew aop 2 m.toNat d.toNat e.toNat = x.toNat
    is 0 (m + d) ∧ is 1 (if m.ult d then m else d) ∧ is 2 (if m.ult d then d else m) ∧ is 3 (m &&& d) ∧ is 4 (m ||| d) ∧
    is 5 (m ^^^ d) ∧ is 6 d ∧ is 7 (if m = d then e else m))) ∧
  (∀ (s s2 : State) (v0 v : View) (h : Head) (o : FM) (pa : Nat → Nat),
    let w := 2 ^ o.wid.toNat
    let lanes := if h.u then v.units h
      else (v.units h).filter (fun l => decide (v.g.prog.toNat ≤ l ∧ v.sl.upto ≤ l ∧ l < v.g.stopAt))
    let ends : Prop := h.u = true ∨ ∀ l ∈ v.units h, l < v.g.stopAt
    let host := decide (aty o ≠ 3) && (decide (aop o = 0) || decide (aop o = 6) || decide (aop o = 7))
    let data (l : Nat) : List Byte := (List.range (4 * cdiv w 4 * (if aop o = 7 then 2 else 1))).map (groupByte v h.u o.dst.toNat l)
    let new (l : Nat) (old : List Byte) : List Byte :=
      toBytes (atomNew (aop o) (aty o) (ofBytes old) (ofBytes ((data l).take w)) (ofBytes ((data l).drop w))) w
    let acts (i : Instr) (ret : Bool) : Prop :=
      Issues i h.s .notAud s v0 v → o.wid.toNat = 2 ∨ o.wid.toNat = 3 →
      (aty o = 3 → h.u = false → ∀ l ∈ lanes, (v.g.base.vec o.dst.toNat l).tag = tagF32) →
      Lands (startRun s v0) v (.atomic host) w (lanes.map (fun l => (l, effAddr v h { o with idx := 0xFF#8 } l))) s2 pa →
      ∃ t order R,
        let after (g : Group) : Group := { g with live := R, longRun := g.longRun || ret }
        (ends → exec i s = .next (finish v h.s (t.modGroup v.handle v.gi (fun g =>
          if h.u then after g else { (after g).setSlot v.d { g.slot v.d with upto := 0 } with prog := 0 })))) ∧
        (¬ends → exec i s = .next (t.modGroup v.handle v.gi (fun g =>
          { after g with prog := BitVec.ofNat 16 v.g.stopAt, stopped := true }))) ∧
        OnlyMemory { s2 with choices := t.choices } t ∧ order.Perm lanes ∧
        (∀ a, t.byte a = (memRun w pa new s2.byte order).1 a) ∧
        (ret = true → Loaded v h.u o.dst.toNat w (if aty o = 3 then tagF32 else 0) lanes (memRun w pa new s2.byte order).2 R) ∧
        (ret = false → R = v.g.live)
    acts (.atom h o) true ∧ acts (.red h o) false)

/-- R262, R265, R420: scratchpad words act on the block's allocation at their offsets: loads read it, stores write it in ascending lane order,
`atoms` performs its operation in some order; nothing else changes, but that a store takes the errors of the lines it writes whole (R420). -/
def Obligations.ScratchpadAccesses : Prop :=
  ∀ (s : State) (v0 v : View) (h : Head) (o : FM) (off : Nat → Nat) (tag : BitVec 4),
    let s1 := startRun s v0
    let w := 2 ^ o.wid.toNat
    let lanes := v.units h
    let here (x : Nat) : Byte := SMap.get (fun _ => 0) v.b.scratch x
    let lands (o : FM) : Prop := SpLands s1 v w (lanes.map (fun l => (l, effAddr v h o l))) off
    let data (l : Nat) : List Byte := (List.range (4 * cdiv w 4 * (if aop o = 7 then 2 else 1))).map (groupByte v h.u o.dst.toNat l)
    let new (l : Nat) (old : List Byte) : List Byte :=
      toBytes (atomNew (aop o) (aty o) (ofBytes old) (ofBytes ((data l).take w)) (ofBytes ((data l).drop w))) w
    let after (i : Instr) (cs : List Nat) (S : SMap Byte) (R : Regs) : Prop :=
      exec i s = .next (finish v h.s ((({ s1 with choices := cs }).modBlock v.handle (fun b => { b with scratch := S })).modGroup
        v.handle v.gi (fun g => { g with live := R })))
    let loads (i : Instr) (tag : BitVec 4) : Prop :=
      Issues i h.s .notAud s v0 v → lands o →
      ∃ R, after i s1.choices v.b.scratch R ∧ Loaded v h.u o.dst.toNat w tag lanes (fun l => (List.range w).map (fun k => here (off l + k))) R
    loads (.lds h o) 0 ∧ loads (.ldsTyped h tag o) tag ∧
    (Issues (.sts h o) h.s .notAud s v0 v →
      let line (l : Nat) : Nat := (v.b.spOff + off l) / 128
      let whole (n : Nat) : Prop := ∀ k < 128, ∃ l ∈ lanes, v.b.spOff + off l ≤ 128 * n + k ∧ 128 * n + k < v.b.spOff + off l + w
      (∀ l ∈ lanes, spJudge v w (effAddr v h o l) = .at_ (off l)) → (∀ l ∈ lanes, line l ∈ (s1.core v.core).spBad → whole (line l)) →
      v.g.held = [] → v.g.remFail = [] → s1.remotesOf v.handle v.gi = [] → ∃ S bad,
      exec (.sts h o) s = .next (finish v h.s (((s1.setCore v.core { s1.core v.core with spBad := bad }).modBlock v.handle (fun b =>
        { b with scratch := S })).modGroup v.handle v.gi (fun g => g))) ∧
      (∀ n, n ∈ bad ↔ n ∈ (s1.core v.core).spBad ∧ ¬whole n) ∧
      ∀ x, SMap.get (fun _ => 0) S x = (memRun w off (fun l _ => (List.range w).map (groupByte v h.u o.dst.toNat l)) here lanes).1 x) ∧
    (Issues (.atoms h o) h.s .notAud s v0 v → lands { o with idx := 0xFF#8 } → o.wid.toNat = 2 ∨ o.wid.toNat = 3 →
      (aty o = 3 → h.u = false → ∀ l ∈ lanes, (v.g.base.vec o.dst.toNat l).tag = tagF32) →
      ∃ cs S R order, after (.atoms h o) cs S R ∧ order.Perm lanes ∧
        (∀ x, SMap.get (fun _ => 0) S x = (memRun w off new here order).1 x) ∧
        Loaded v h.u o.dst.toNat w (if aty o = 3 then tagF32 else 0) lanes (memRun w off new here order).2 R)

/-- R263, R267–R269, R123: `ldc` reads the captured version of its lines through the core's control-block cache, be a line there already or
captured now, with each lane's bytes in its register group; that a new line stands before those at hand, of which the 511 newest stay, is
the model's choice (log 8). `fence` of a group with nothing outstanding changes nothing but the length of its run's wait, under acqrel; `cbinv`
removes the named lines of its ASID, and the words fetched from them, from the issuing core and no others, and marks those on their way to
it as not to be kept; `prf` changes no more than translations do. With a false guard `fence` does nothing. -/
def Obligations.CacheWords : Prop :=
  ∀ (s : State) (v0 v : View) (h : Head) (o : FM),
    let s1 := startRun s v0
    let w := 2 ^ o.wid.toNat
    let va (l : Nat) : W64 := effAddr v h o l
    (∀ (s2 : State) (f : Nat → List Byte), Issues (.ldc h o) h.s .notAud s v0 v → Drained s v0 v →
      CapturesAll v.core v.g.asid.toNat w f ((v.units h).map (fun l => (l, va l))) s1 s2 →
      ∃ R long, exec (.ldc h o) s = .next (finish v h.s (s2.modGroup v.handle v.gi (fun g => { g with live := R, longRun := long }))) ∧
        OnlyMemory { s1 with cores := s2.cores } s2 ∧ Loaded v h.u o.dst.toNat w 0 (v.units h) f R) ∧
    (∀ (t t' : State) (core a n : Nat) (x : W64) (bs : List Byte), capture t core a x n = (t', .ok bs) →
      let line := x.toNat / 64
      match (t.core core).cbc.find? (fun c => decide (c.asid = a ∧ c.line = line)) with
      | some c => bs = (c.bytes.drop (x.toNat % 64)).take n ∧ t' = t
      | none => ∃ t0 pa wr xe ct ex so home, judge t (some core) a .block x 1 = (t0, .mem pa wr xe ct ex so) ∧
          t0.physRead (pa - x.toNat % 64) 64 = .ok home ∧ bs = (home.drop (x.toNat % 64)).take n ∧
          t' = t0.setCore core { t0.core core with cbc := ({ asid := a, line, bytes := home } :: (t0.core core).cbc).take 512 }) ∧
    (Issues (.fence h o) h.s .notAud s v0 v → v.go h = true → Drained s v0 v →
      exec (.fence h o) s = .next (finish v h.s
        (if o.ord.toNat = 3 then s1.modGroup v.handle v.gi (fun g => { g with longRun := true }) else s1))) ∧
    (Issues (.fence h o) h.s .notAud s v0 v → v.go h = false → exec (.fence h o) s = .next (finish v h.s s1)) ∧
    (Issues (.cbinv h o) h.s .notAud s v0 v →
      let named (asid line : Nat) : Prop := asid = v.g.asid.toNat ∧ ∃ l ∈ v.units h, line = (va l).toNat / 64
      ∃ c rs fs, exec (.cbinv h o) s = .next (finish v h.s ({ s1 with remotes := rs, fetched := fs }.setCore v.core c)) ∧
        c = { s1.core v.core with cbc := c.cbc, words := c.words } ∧
        (∀ x, x ∈ c.cbc ↔ x ∈ (s1.core v.core).cbc ∧ ¬named x.asid x.line) ∧
        (∀ x, x ∈ c.words ↔ x ∈ (s1.core v.core).words ∧ ¬named x.1 x.2) ∧
        (∃ g : Remote → Remote, rs = s1.remotes.map (fun x => (x.1, g x.2)) ∧ ∀ r : Remote,
          let here : Prop := r.fill = some v.core ∨ ∃ n, r.hw = some (.fetch n) ∧ s1.readsWords v.core n = true
          (here → named r.asid.toNat (r.va.toNat / 64) → g r = { r with stale := true }) ∧
          (¬(here ∧ named r.asid.toNat (r.va.toNat / 64)) → g r = r)) ∧
        ∀ x, x ∈ fs ↔ x ∈ s1.fetched ∧
          ¬(s1.readsWords v.core x.1 = true ∧ ∃ l ∈ v.units h, x.2.1 = 2 ^ 58 * v.g.asid.toNat + (va l).toNat / 64)) ∧
    (Issues (.prf h o) h.s .notAud s v0 v →
      ∃ t, exec (.prf h o) s = .next (finish v h.s t) ∧ OnlyMemory { s1 with cores := t.cores } t)

/-- R249, R270: with the tag table on as of the start of the run, `tlook` finds the lowest slot whose tag names the line, `tset` sets each executing lane's slot to its
line, the highest lane's standing, and `tclr` clears each named slot, or all of them; other slots stay. -/
def Obligations.TagTableWords : Prop :=
  ∀ (s : State) (v0 v : View) (h : Head),
    let s1 := startRun s v0
    let idle (i : Instr) : Prop := Issues i h.s .notAud s v0 v → v.units h = [] → exec i s = .next (finish v h.s s1)
    (∀ (o : FM) (p : F3), idle (.tlook h o) ∧ idle (.tset h o) ∧ idle (.tclr h p)) ∧
    (v.g.rs.tten = true → v.g.inOperGate = false → v.units h ≠ [] →
    (∀ o : FM, Issues (.tlook h o) h.s .notAud s v0 v → v.g.rs.tags.Pairwise (fun a b => a.1 < b.1) →
      ∃ R, exec (.tlook h o) s = .next (finish v h.s (v.put s1 R)) ∧ ∃ x, Wrote v h o.dst.toNat 0 x R ∧
        ∀ l, (∀ e ∈ v.g.rs.tags, e.2.toNat ≠ (effAddr v h o l).toNat / 256 % 2 ^ 48) ∧ x l = 0xFFFFFFFF#32 ∨
          ∃ e ∈ v.g.rs.tags, x l = BitVec.ofNat 32 e.1 ∧ e.2.toNat = (effAddr v h o l).toNat / 256 % 2 ^ 48 ∧
            ∀ f ∈ v.g.rs.tags, f.2 = e.2 → e.1 ≤ f.1) ∧
    (∀ o : FM, Issues (.tset h o) h.s .notAud s v0 v → (∀ l ∈ v.units h, (v.src h false o.dst l).toNat < v.scratchN) →
      ∃ f : AMap (BitVec 48) → AMap (BitVec 48),
        exec (.tset h o) s = .next (finish v h.s (s1.modBlock v.handle (fun b => { b with tags := f b.tags }))) ∧ ∀ m k,
          (∀ l ∈ v.units h, (v.src h false o.dst l).toNat = k → (∀ x ∈ v.units h, l < x → (v.src h false o.dst x).toNat ≠ k) →
            AMap.get? (f m) k = some (BitVec.ofNat 48 ((effAddr v h o l).toNat / 256))) ∧
          ((∀ l ∈ v.units h, (v.src h false o.dst l).toNat ≠ k) → AMap.get? (f m) k = AMap.get? m k)) ∧
    (∀ o : F3, Issues (.tclr h o) h.s .notAud s v0 v →
      (bit o.mod 0 = true ∨ ∀ l ∈ v.units h, (v.src h (bit o.mod 13) o.sa l).toNat < v.scratchN) →
      ∃ f : AMap (BitVec 48) → AMap (BitVec 48),
        exec (.tclr h o) s = .next (finish v h.s (s1.modBlock v.handle (fun b => { b with tags := f b.tags }))) ∧ ∀ m k,
          AMap.get? (f m) k =
            if bit o.mod 0 = true ∨ ∃ l ∈ v.units h, (v.src h (bit o.mod 13) o.sa l).toNat = k then none
            else AMap.get? m k))

/-- R271–R273: `fget` hands the frames on top of the pool to the lanes in ascending order, none left where it is empty; `fput` pushes
frames back, each with CTLF 0, POOL 1, no TLB entry and a fresh scrub; `tinv` removes the named TLB entries of every core and no other. Each acts for
the executing lanes at or above INDEX, and INDEX is 0 after, but where forced sealing stops it at a lane: INDEX is that lane then (R382). -/
def Obligations.FrameWords : Prop :=
  ∀ (s : State) (v0 v : View) (h : Head) (o : F3),
    let s1 := startRun s v0
    let lanes := if h.u then v.units h
      else (v.units h).filter (fun l => decide (v.g.prog.toNat ≤ l ∧ v.sl.upto ≤ l ∧ l < v.g.stopAt))
    let pool := AMap.getD s1.pools v.part []
    let ends : Prop := h.u = true ∨ ∀ l ∈ v.units h, l < v.g.stopAt
    let done (i : Instr) (t : State) (R : Regs) : Prop :=
      let after (g : Group) : Group := { g with live := R, longRun := true }
      (ends → exec i s = .next (finish v h.s (t.modGroup v.handle v.gi (fun g =>
        if h.u then after g else { (after g).setSlot v.d { g.slot v.d with upto := 0 } with prog := 0 })))) ∧
      (¬ends → exec i s = .next (t.modGroup v.handle v.gi (fun g =>
        { after g with prog := BitVec.ofNat 16 v.g.stopAt, stopped := true })))
    (Issues (.fget h o) h.s .owner s v0 v →
      ∃ t R, done (.fget h o) t R ∧ t = { s1 with pools := t.pools, fot := t.fot } ∧
        (∀ p, AMap.getD t.pools p [] = if p = v.part then pool.drop lanes.length else AMap.getD s1.pools p []) ∧
        (∀ f, t.ftEntry f = if f ∈ pool.take lanes.length then setFld (s1.ftEntry f) 19 1 0 else s1.ftEntry f) ∧
        Loaded v h.u o.dst.toNat 4 0 lanes (fun l => toBytes ((pool[lanes.idxOf l]?).getD 0xFFFFFFFF) 4) R) ∧
    (Issues (.fput h o) h.s .owner s v0 v →
      let fr (l : Nat) : Nat := (v.src h (bit o.mod 13) o.sa l).toNat
      (lanes.map fr).Nodup → s1.frontiers.length + lanes.length ≤ 4096 →
      (∀ l ∈ lanes, fr l < Config.frames ∧ ftKind (s1.ftEntry (fr l)) = 1 ∧ ftPart (s1.ftEntry (fr l)) = v.part ∧
        ftPool (s1.ftEntry (fr l)) = false ∧ s1.pinned (fr l) = false ∧ fr l ∉ s1.cow) →
      ∃ t, done (.fput h o) t v.g.live ∧
        t = { s1 with cores := t.cores, pools := t.pools, fot := t.fot, frontiers := t.frontiers } ∧
        (∀ p, AMap.getD t.pools p [] = if p = v.part then (lanes.map fr).reverse ++ pool else AMap.getD s1.pools p []) ∧
        (∀ f, t.ftEntry f = if f ∈ lanes.map fr then setFld (setFld (s1.ftEntry f) 8 1 0) 19 1 1 else s1.ftEntry f) ∧
        (∀ f, AMap.get? t.frontiers f = if f ∈ lanes.map fr then some {} else AMap.get? s1.frontiers f) ∧
        t.cores = s1.cores.map (fun c =>
          (c.1, { c.2 with tlb := c.2.tlb.filter (fun e => !lanes.any (fun l => e.maps (fr l))) }))) ∧
    (Issues (.tinv h o) h.s .notAud s v0 v → Drained s v0 v →
      let asid (l : Nat) : Nat := (v.src h (bit o.mod 14) o.sb l).toNat % 2 ^ 11
      let va (l : Nat) : W64 := v.src64 h (bit o.mod 13) o.sa l
      (∀ l ∈ lanes, (if v.g.auth = 1 then 0x400 ≤ asid l ∧ asid l ≤ 0x440 else
          asid l < 0x400 ∧ asidPart v.g.asid.toNat = some (asid l / 16)) ∧ s1.inUse (asid l) (va l) (bit o.mod 0) = false) →
      done (.tinv h o) { s1 with
        cores := s1.cores.map (fun c => (c.1, { c.2 with
          tlb := c.2.tlb.filter (fun e => !lanes.any (fun l =>
            if bit o.mod 0 then decide (e.asid = asid l)
            else decide (e.asid = asid l ∧ e.vpn = if e.lg then (va l).toNat / 2 ^ 26 else (va l).toNat / 2 ^ 16))) })) } v.g.live)

/-! ### Engines and tiles (R276–R291) -/

/-- R281–R283, R285, R288: `mma`, `mmt` and `mmam` whose checks pass and that have room post one request for each quarter with an executing
lane, and count one matrix operation; a request takes A, its format and its scales from registers, or from its quarter's latch, which
REUSE keeps, holding what the quarter read, and its absence frees; B lies where the word's pair, uniform register or descriptor says.
Without an executing lane nothing happens, and a handle that is not bound raises ENC. -/
def Obligations.MatrixWordsPostQuarters : Prop :=
  ∀ (s : State) (v0 v : View) (h : Head) (o : F3) (tile : Nat),
    let s1 := startRun s v0
    let m := v.lanes h
    let n := fldN o.mod 0 6 + 1
    let sb := v.g.base.uni o.sb.toNat
    let qs := [0, 1, 2, 3].filter (fun q => (List.range 8).any (fun i => bit m (8 * q + i)))
    let ready : Prop := m ≠ 0 ∧ AMap.get? v.g.base.acc o.dst.toNat = some tile ∧ latchBad v o m = false ∧ scaleRegsBad v o m = false ∧
      matrixTagBad v o m = false ∧ Drained s v0 v ∧ v.g.counters.mma < 63 ∧ (s1.cluster v.cluster).placing = [] ∧
      (s1.cluster v.cluster).reqs.length + qs.length ≤ 32
    let posts (i : Instr) (s2 : State) (b : BSpec) (tree : Option (Nat × Nat)) : Prop :=
      ∃ t op rs latches, exec i s = .next (finish v h.s t) ∧ Submits s2 t v 1 op (fun g => { g with latches }) ∧ op.kind = .mat ∧
        t.clusters = AMap.put s2.clusters v.cluster { s2.cluster v.cluster with reqs := (s2.cluster v.cluster).reqs ++ rs } ∧ rs.map MReq.q = qs ∧
        (∀ r ∈ rs, r.op = s2.nextOp ∧ r.handle = v.handle ∧ r.gi = v.gi ∧ r.tile = tile ∧ r.n = n ∧ r.next = 0 ∧
          r.scratch = b.scratch ∧ r.baddr = b.addr ∧ r.kstride = b.kstride ∧ r.cstride = b.cstride ∧ r.bscales = b.scales ∧
          r.bty = fldN o.mod 8 2 ∧ r.tree = tree ∧ r.asid = v.g.asid ∧
          r.part = v.b.part? ∧ r.iaddr = v.pc ∧ r.bfmt = (if fldN o.mod 8 2 = 0 then v.fm o.sc.toNat else 0) ∧
          (∀ i, i < 8 → bit r.rows i = bit m (8 * r.q + i)) ∧
          (AMap.get? v.g.latches r.q = none → ∀ i, i < 8 → bit m (8 * r.q + i) = true →
            r.a[i]? = some ((List.range (32 * n)).map (groupByte v false o.sa.toNat (8 * r.q + i))) ∧
            r.atag = (v.g.base.vec o.sa.toNat (8 * r.q + i)).tag ∧
            r.afmt = (if 4 ≤ r.atag.toNat ∧ r.atag.toNat ≤ 11 then v.fm (r.atag.toNat - 4) else 0) ∧
            (4 ≤ r.atag.toNat → r.atag.toNat ≤ 11 → nfScm r.afmt = 2 → r.ascales[i]? =
              some ((List.range (n * (kOf false r.afmt / 32))).map (groupByte v false (o.sa.toNat + 8 * n) (8 * r.q + i))))) ∧
          (∀ L, AMap.get? v.g.latches r.q = some L → r.atag = L.atag ∧ r.afmt = L.afmt ∧
            ∀ i, i < 8 → bit m (8 * r.q + i) = true → ∀ row, L.rows[i]? = some row → row ≠ [] → r.a[i]? = some row)) ∧
        (∀ q, AMap.get? latches q =
          if q ∈ qs then (if bit o.mod 6 then AMap.get? latches q else none) else AMap.get? v.g.latches q) ∧
        (∀ q ∈ qs, bit o.mod 6 = true → ∃ L : Latch, AMap.get? latches q = some L ∧ L.sa = o.sa.toNat ∧ L.n = n ∧
          (∀ L0, AMap.get? v.g.latches q = some L0 → L = L0) ∧
          (AMap.get? v.g.latches q = none → ∀ r ∈ rs, r.q = q → L.atag = r.atag ∧ L.afmt = r.afmt ∧
            ∀ i, i < 8 → bit m (8 * q + i) = true → L.rows[i]? = r.a[i]?))
    (ready → sb.toNat % 1024 = 0 → scratchIn o s1 v (scratchB v o) = true →
      (Issues (.mma h o) h.s .notAud s v0 v → posts (.mma h o) s1 (scratchB v o) none) ∧
      (Issues (.mmt h o) h.s .notAud s v0 v → (v.g.base.uni (o.sb.toNat + 1)).toNat < 2 ^ 16 →
        posts (.mmt h o) s1 (scratchB v o) (some ((v.g.base.uni (o.sb.toNat + 1)).toNat % 256, (v.g.base.uni (o.sb.toNat + 1)).toNat / 256)))) ∧
    (∀ s2 bs L, Issues (.mmam h o) h.s .notAud s v0 v → ready →
      let va := pair sb (v.g.base.uni (o.sb.toNat + 1))
      s1.launchOf v.b = some L → L.restart = true → va.toNat % 32 = 0 → capture s1 v.core v.g.asid.toNat va 32 = (s2, .ok bs) →
      fieldS bs 8 % 32 = 0 → fieldS bs 12 % 32 = 0 → (fieldA bs 16 = 0 ↔ ¬(fldN o.mod 8 2 = 0 ∧ nfScm (v.fm o.sc.toNat) = 2)) →
      fieldOf bs 24 1 ≤ 3 → zeroFrom bs 25 = true →
      posts (.mmam h o) s2
        { scratch := false, addr := fieldA bs 0, kstride := fieldS bs 8, cstride := fieldS bs 12, scales := fieldA bs 16 } none) ∧
    (∀ i ∈ [Instr.mma h o, .mmt h o, .mmam h o], Issues i h.s .notAud s v0 v →
      (m = 0 → exec i s = .next (finish v h.s s1)) ∧
      (m ≠ 0 → AMap.get? v.g.base.acc o.dst.toNat = none → exec i s = .next (faultAt s1 s1 v { cls := clsENC, lanes := m })))

/-- R276, R287–R291: `cpy`, `gth`, `sct` and `coll` capture the descriptor their pair names and submit one operation of their class with
it, `tmld` one with the parent array it captures line by line, when the counter is below 63; a descriptor at no multiple of 64 raises ALN and one whose fields are out of
range CBK; with a false guard nothing happens. -/
def Obligations.DescriptorWordsSubmit : Prop :=
  ∀ (s s2 : State) (v0 v : View) (h : Head) (o : F3) (bs : List Byte),
    let s1 := startRun s v0
    let va := pair (v.g.base.uni o.sa.toNat) (v.g.base.uni (o.sa.toNat + 1))
    let captures : Prop := va.toNat % 64 = 0 ∧ capture s1 v.core v.g.asid.toNat va 64 = (s2, .ok bs)
    let submits (i : Instr) (cls : Nat) (kind : OpKind) (block : List Byte) (s2 : State) : Prop :=
      ∃ t op, exec i s = .next (finish v h.s t) ∧ Submits s2 t v cls op id ∧ t.clusters = s2.clusters ∧ op.kind = kind ∧ op.block = block ∧ op.va = va
    (v.go h = true →
      (Issues (.cpy h o) h.s .notAud s v0 v → captures → copyOk bs = true → Drained s v0 v → v.g.counters.cpy < 63 →
        submits (.cpy h o) 0 .copy bs s2) ∧
      (Issues (.gth h o) h.s .notAud s v0 v → captures → gatherOk bs = true → Drained s v0 v → v.g.counters.gth < 63 →
        submits (.gth h o) 2 .gather bs s2) ∧
      (Issues (.sct h o) h.s .notAud s v0 v → captures → gatherOk bs = true → Drained s v0 v → v.g.counters.gth < 63 →
        submits (.sct h o) 2 .scatter bs s2) ∧
      (∀ s3 ms, Issues (.coll h o) h.s .notAud s v0 v → captures → jobOk bs = true → Drained s v0 v → v.g.counters.col < 63 →
        linesFrom v.core v.g.asid.toNat 514 s2 (fieldA bs 40) (8 * fieldOf bs 32 2) = some (s3, ms) →
        (∀ i, i < fieldOf bs 32 2 → fieldOf ms (8 * i + 4) 1 < 64 ∧ fieldOf ms (8 * i + 5) 3 = 0) →
        fieldOf ms (8 * fieldOf bs 34 2) 4 = (s3.reg 0 0x5080).toNat →
        submits (.coll h o) 3 (.coll (fieldOf bs 4 4)) (bs ++ ms) s3) ∧
      (∀ s3 ps, Issues (.tmld h o) h.s .notAud s v0 v → Drained s v0 v → v.g.counters.mma < 63 →
        1 ≤ (v.g.base.uni o.sb.toNat).toNat → (v.g.base.uni o.sb.toNat).toNat ≤ 256 →
        linesFrom v.core v.g.asid.toNat 6 s1 va (v.g.base.uni o.sb.toNat).toNat = some (s3, ps) →
        submits (.tmld h o) 1 (.tmld (v.g.base.uni o.sb.toNat).toNat) ps s3) ∧
      (Issues (.cpy h o) h.s .notAud s v0 v → va.toNat % 64 ≠ 0 →
        exec (.cpy h o) s = .next (faultAt s1 s1 v { cls := clsALN, lanes := v.mask, vaddr := va, kind := 5 })) ∧
      (Issues (.cpy h o) h.s .notAud s v0 v → captures → copyOk bs = false →
        exec (.cpy h o) s = .next (faultAt s1 s2 v { cls := clsCBK, lanes := v.mask, vaddr := va, kind := 5 }))) ∧
    (v.go h = false → ∀ i ∈ [Instr.cpy h o, .gth h o, .sct h o, .coll h o, .tmld h o], Issues i h.s .notAud s v0 v →
      exec i s = .next (finish v h.s s1))

/-- R277, R278, R380: `waitc` goes on once its counter is at most N, delivers a failure that is due, and else waits; `cntr` reads the four
counters. -/
def Obligations.CountersAreWaitedFor : Prop :=
  ∀ (s : State) (v0 v : View) (h : Head),
    (∀ p : FI, Issues (.waitc h p) h.s .notAud s v0 v → v.go h = true →
      let n := fldN p.imm 0 6
      let cls := fldN p.imm 8 2
      let count := if cls = 0 then v.g.counters.cpy else if cls = 1 then v.g.counters.mma else if cls = 2 then v.g.counters.gth
        else v.g.counters.col
      (n < count → exec (.waitc h p) s = .next (holdAt (startRun s v0) v (.counter cls n))) ∧
      (count ≤ n → (∀ f ∈ v.g.failures, ¬(f.opcls = cls ∧ f.depth = v.g.gates.length ∧ f.seq + 1 + n ≤ v.g.subs.get cls)) →
        exec (.waitc h p) s = .next (finish v h.s (startRun s v0))) ∧
      (∀ f, count ≤ n →
        v.g.failures.find? (fun f => decide (f.opcls = cls ∧ f.depth = v.g.gates.length ∧ f.seq + 1 + n ≤ v.g.subs.get cls)) = some f →
        exec (.waitc h p) s = .next (faultAt (startRun s v0)
          ((startRun s v0).modGroup v.handle v.gi (fun g => { g with failures := g.failures.filter (fun x => decide (x ≠ f)) })) v
          { cls := f.cls, lanes := f.mask, vaddr := f.vaddr, kind := 5, frame := f.frame, tier := f.tier, iaddr := some f.iaddr,
            sp := decide (f.cls = clsSPV) }))) ∧
    (∀ o : F3, Issues (.cntr h o) h.s .notAud s v0 v → v.go h = true →
      let c := v.g.counters
      Ends (.cntr h o) h s v0 v (WroteUni v o.dst.toNat (BitVec.ofNat 32 (c.cpy + 2 ^ 8 * c.mma + 2 ^ 16 * c.gth + 2 ^ 24 * c.col))))

/-- R279, R280: `aalloc` and `afree` bind and free a handle; `azero` zeroes every element of its tile; `ald` reads elements as F32 or as
raw halves with their tags, `aput` writes them, the highest lane of a row standing; no other element changes. -/
def Obligations.TileWords : Prop :=
  ∀ (s : State) (v0 v : View) (h : Head) (o : F3) (tile : Nat),
    let s1 := startRun s v0
    let row (l : Nat) : Nat := (v.src h (bit o.mod 14) o.sb l).toNat % 32
    let c0 := fldN o.mod 0 5
    let n := 2 ^ fldN o.mod 5 3
    let raw := bit o.mod 8
    let a (r l : Nat) : VReg := v.g.base.vec (o.sa.toNat + r) l
    (Issues (.aalloc h o) h.s .notAud s v0 v → v.go h = true → (v.g.base.uni o.sa.toNat).toNat < v.b.groups.length * v.accs →
      ∃ R, exec (.aalloc h o) s = .next (finish v h.s (v.put s1 R)) ∧ R = { v.g.live with acc := R.acc } ∧
        ∀ k, AMap.get? R.acc k = if k = o.dst.toNat then some (v.g.base.uni o.sa.toNat).toNat else AMap.get? v.g.live.acc k) ∧
    (Issues (.afree h o) h.s .notAud s v0 v → v.go h = true →
      ∃ R, exec (.afree h o) s = .next (finish v h.s (v.put s1 R)) ∧ R = { v.g.live with acc := R.acc } ∧
        ∀ k, AMap.get? R.acc k = if k = o.dst.toNat then none else AMap.get? v.g.live.acc k) ∧
    (Issues (.azero h o) h.s .notAud s v0 v → v.go h = true → AMap.get? v.g.base.acc o.dst.toNat = some tile →
      s1.tileBusy v.handle v.gi tile v.cluster = false →
      ∃ f : SMap (BitVec 48) → SMap (BitVec 48),
        exec (.azero h o) s = .next (finish v h.s (s1.modBlock v.handle (fun b => { b with tiles := f b.tiles }))) ∧
        ∀ m t r c, r < 32 → c < 32 → SMap.get (fun _ => 0) (f m) (1024 * t + 32 * r + c) =
          if t = tile then 0 else SMap.get (fun _ => 0) m (1024 * t + 32 * r + c)) ∧
    (Issues (.ald h o) h.s .notAud s v0 v → v.lanes h ≠ 0 → AMap.get? v.g.base.acc o.sa.toNat = some tile →
      s1.tileBusy v.handle v.gi tile v.cluster = false →
      ∃ R, exec (.ald h o) s = .next (finish v h.s (v.longPut s1 R)) ∧ OnlyIn .v v.g.live R ∧
        ∀ r l, l < 32 → R.vec r l =
          if bit (v.lanes h) l = true ∧ o.dst.toNat ≤ r ∧ r - o.dst.toNat < (if raw then 2 * n else n) then
            let k := r - o.dst.toNat
            let x := v.b.elem tile (row l) (c0 + if raw then k / 2 else k)
            if raw then (if k % 2 = 0 then { bits := x.extractLsb' 16 32, tag := tagF48H } else { bits := x.extractLsb' 0 16 ++ 0#16, tag := tagF48L })
            else { bits := BitVec.ofNat 32 (F32.round (rnd o) (F48.decode x.toNat) 0), tag := tagF32 }
          else v.g.live.vec r l) ∧
    (Issues (.aput h o) h.s .notAud s v0 v → v.lanes h ≠ 0 → AMap.get? v.g.base.acc o.dst.toNat = some tile →
      s1.tileBusy v.handle v.gi tile v.cluster = false →
      (∀ l ∈ v.units h, ∀ k, k < (if raw then 2 * n else n) → (a k l).tag = if !raw then tagF32 else if k % 2 = 0 then tagF48H else tagF48L) →
      ∃ b', exec (.aput h o) s = .next (finish v h.s (s1.modBlock v.handle (fun _ => b'))) ∧ b' = { v.b with tiles := b'.tiles } ∧
        ∀ t r c, r < 32 → c < 32 → b'.elem t r c =
          match ((v.units h).filter (fun l => decide (row l = r))).getLast? with
          | some l =>
            if t = tile ∧ c0 ≤ c ∧ c < c0 + n then
              if raw then (a (2 * (c - c0)) l).bits ++ (a (2 * (c - c0) + 1) l).bits.extractLsb' 16 16
              else BitVec.ofNat 48 (F48.round 0 (F32.decode (a (c - c0) l).bits.toNat) 0)
            else v.b.elem t r c
          | none => v.b.elem t r c)

/-! ### System registers, time, boosts, sealing and pair words (R84, R85, R183–R187, R248–R255) -/

/-- R64, R83–R87, R91, R92, R248, R362, R375: `srd` writes the register's value, or 0 of an instance that does not exist, into its destination
with tag I32, and changes no other register; a word the authority may not read raises RGT. Values are as of run start, masked by the
readable fields, whatever the register; a read of an even word latches the odd one, a read of an odd one gives the latched word of its own pair,
masked in turn. An auditor's capture of WRAP clears it. -/
def Obligations.SrdReadsRegisters : Prop :=
  ∀ (s : State) (v0 v : View) (h : Head) (o : FS),
    let s1 := startRun s v0
    let n := o.reg.toNat
    let auth := v.g.auth.toNat
    let sel := if bit o.mod 0 then some (v.g.base.uni o.sa.toNat).toNat else none
    let may (m : Nat) : W32 := readMask auth v.b.part? m
    let after (t : State) (R : Regs) (shadow : Option (Nat × W32)) : Prop :=
      exec (.srd h o) s = .next (finish v h.s (t.modGroup v.handle v.gi (fun g => { g with live := R, shadow })))
    Issues (.srd h o) h.s .all s v0 v →
    ((auth ≠ 1 ∧ bit o.mod 0 = true ∨ auth = 2 ∧ ¬(0x7000 ≤ n ∧ n < 0x8000)) →
      exec (.srd h o) s = .next (faultAt s1 s1 v { cls := clsRGT, lanes := v.mask })) ∧
    ((auth = 1 ∨ bit o.mod 0 = false) → (auth ≠ 2 ∨ 0x7000 ≤ n ∧ n < 0x8000) →
      (v.units h = [] → exec (.srd h o) s = .next (finish v h.s s1)) ∧
      (v.units h ≠ [] → instanceOf v sel n = none → ∃ R, after s1 R v.g.shadow ∧ Wrote v h o.dst.toNat 0 (fun _ => 0) R) ∧
      (∀ k, v.units h ≠ [] → instanceOf v sel n = some k → ∃ (t : State) (R : Regs) (x : W32) (shadow : Option (Nat × W32)), after t R shadow ∧ Wrote v h o.dst.toNat 0 (fun _ => x) R ∧
        let y (m : Nat) : W32 := v.regValue s1 k m &&& may m
        (¬(auth = 2 ∧ 0x7900 ≤ n ∧ n < 0x7908) → t = s1 ∧
          (isWide n = true → x = y n ∧ shadow = some (n, y (n + 1))) ∧
          (isWide n = false → ¬(n % 2 = 1 ∧ isWide (n - 1) = true) → x = y n ∧ shadow = v.g.shadow) ∧
          (n % 2 = 1 → isWide (n - 1) = true → shadow = v.g.shadow ∧
            (∀ z, v.g.shadow = some (n - 1, z) → x = z &&& may n) ∧ ((∀ z, v.g.shadow ≠ some (n - 1, z)) → x = y n))) ∧
        (auth = 2 → 0x7900 ≤ n → n < 0x7908 → n % 2 = 0 →
          let live := bit (s1.reg 0 (0x5041 + (n - 0x7900))) 31
          let hi := v.g.rs.sys.reg 0 (0x5041 + (n - 0x7900))
          x = v.g.rs.sys.reg 0 (0x5040 + (n - 0x7900)) ∧
          shadow = some (n, if live then hi else hi &&& 0x7FFFFFFF#32) ∧ t = { s1 with sys := t.sys } ∧
          (∀ i m, m < 65536 → (i ≠ 0 ∨ m ≠ 0x5041 + (n - 0x7900)) → t.reg i m = s1.reg i m) ∧
          (bit hi 31 = true → bit (t.reg 0 (0x5041 + (n - 0x7900))) 31 = false)))) ∧
    (let rs := v.g.rs
     let value (m : Nat) (x : W32) : Prop := ∀ k, v.regValue s1 k m = x
     value 0 (BitVec.ofNat 32 (b2n rs.slot0.live + 2 * b2n rs.slot0.arr + 8 * (rs.slot0.pc.toNat / 8 % 2 ^ 53))) ∧
     value 2 (BitVec.ofNat 32 (b2n rs.slot1.live + 2 * b2n rs.slot1.arr + 8 * (rs.slot1.pc.toNat / 8 % 2 ^ 53))) ∧
     value 4 rs.slot0.mask ∧ value 5 rs.slot1.mask ∧ value 8 (BitVec.ofNat 32 (rs.depth + 2048 * v.g.divLimit)) ∧
     value 0x10 (BitVec.ofNat 32 (v.g.asid.toNat + 2048 * auth)) ∧ value 0x11 (BitVec.ofNat 32 v.g.gates.length) ∧
     value 0x12 (BitVec.ofNat 32 (v.g.level + 4 * v.g.cls.toNat + 1024 * v.g.trapno.toNat)) ∧
     value 0x14 (lo32 v.g.tvt) ∧ value 0x15 (hi32 v.g.tvt) ∧ value 0x16 (rs.prog.zeroExtend 32) ∧ value 0x17 (v.g.spfmask.zeroExtend 32) ∧
     value 0x18 (lo32 rs.rngseed) ∧ value 0x1A (lo32 rs.rngctr) ∧ value 0x20 (BitVec.ofNat 32 rs.counters.cpy) ∧
     value 0x21 (BitVec.ofNat 32 rs.counters.mma) ∧ value 0x22 (BitVec.ofNat 32 rs.counters.gth) ∧
     value 0x23 (BitVec.ofNat 32 rs.counters.col) ∧ value 0x44 v.g.hsv1.slot0.mask ∧ value 0x4C (lo32 v.g.hsv1.rpc) ∧
     value 0x64 v.g.hsv2.slot0.mask ∧ value 0x6C (lo32 v.g.hsv2.rpc) ∧ (∀ m, m < 8 → value (0x1000 + m) (v.fm m)) ∧
     value 0x1010 (BitVec.ofNat 32 (b2n rs.tten)) ∧ value 0x1014 (lo32 v.b.constva) ∧
     value 0x5000 (BitVec.ofNat 32 rs.sys.gt) ∧ value 0x5001 (BitVec.ofNat 32 (rs.sys.gt / 2 ^ 32)) ∧
     ∀ k m, 0x2000 ≤ m → m < 0x7800 → m ≠ 0x3000 → m ≠ 0x3001 → m ≠ 0x5000 → m ≠ 0x5001 → v.regValue s1 k m = rs.sys.reg k m)

/-- R84, R249, R375, R376: `swr` that is allowed changes the writable fields of its register: the random generator's words at once (R108); a value
out of range raises ENC, a word the authority may not write raises RGT, and an instance that does not exist is ignored. A register
without further effects changes alone. That the registers others see, the module's and `ttcfg` of the block, are written at once, and the
group's others when its run ends, is the model's choice (log 15). -/
def Obligations.SwrWritesRegisters : Prop :=
  ∀ (s : State) (v0 v : View) (h : Head) (o : FS),
    let s1 := startRun s v0
    let n := o.reg.toNat
    let x := v.g.base.uni o.dst.toNat
    let sel := if bit o.mod 0 then some (v.g.base.uni o.sa.toNat).toNat else none
    let mask := writeMask v.g.auth.toNat n
    Issues (.swr h o) h.s .notAud s v0 v →
    (swrAllowed o v = false → exec (.swr h o) s = .next (faultAt s1 s1 v { cls := clsRGT, lanes := v.mask })) ∧
    (swrAllowed o v = true → v.go h = true →
      (instanceOf v sel n = none → exec (.swr h o) s = .next (finish v h.s s1)) ∧
      (∀ k, instanceOf v sel n = some k → badValue s1 k n x = true →
        exec (.swr h o) s = .next (faultAt s1 s1 v { cls := clsENC, lanes := v.mask })) ∧
      (n = 0x18 → exec (.swr h o) s = .next (finish v h.s (s1.modGroup v.handle v.gi (fun g =>
        { g with rngseed := pair x (hi32 g.rngseed) })))) ∧
      (n = 0x19 → exec (.swr h o) s = .next (finish v h.s (s1.modGroup v.handle v.gi (fun g =>
        { g with rngseed := pair (lo32 g.rngseed) x })))) ∧
      (n = 0x1A → exec (.swr h o) s = .next (finish v h.s (s1.modGroup v.handle v.gi (fun g =>
        { g with rngctr := pair x (hi32 g.rngctr) })))) ∧
      (n = 0x1B → exec (.swr h o) s = .next (finish v h.s (s1.modGroup v.handle v.gi (fun g =>
        { g with rngctr := pair (lo32 g.rngctr) x })))) ∧
      (n = 0x1010 → badValue s1 0 n x = false → exec (.swr h o) s = .next (finish v h.s (s1.modBlock v.handle (fun b =>
        if bit x 0 = true ∧ b.tten = false then { b with tten := true, tags := [] } else { b with tten := bit x 0 })))) ∧
      (n < 0x2000 → ¬(0x18 ≤ n ∧ n ≤ 0x1B) → n ≠ 0x1010 → exec (.swr h o) s = .next (finish v h.s (s1.modGroup v.handle v.gi (fun g =>
        { g with swrs := g.swrs ++ [{ num := n, value := x }] })))) ∧
      (∀ k, instanceOf v sel n = some k → badValue s1 k n x = false → 0x2000 ≤ n →
        exec (.swr h o) s = .next (finish v h.s (regWrite s1 k n mask x))) ∧
      (∀ k, instanceOf v sel n = some k → plainReg n = true →
        ∃ t, exec (.swr h o) s = .next (finish v h.s t) ∧ t = { s1 with sys := t.sys } ∧ t.sys.gt = s1.sys.gt ∧
          ∀ i m, m < 65536 → n < 65536 → t.reg i m = if i = k ∧ m = n then (s1.reg k n &&& ~~~ mask) ||| (x &&& mask) else s1.reg i m))

/-- R86, R87, R249, R362: what a write of `tvt`, `prog`, `spfmask` and the return point of a handler level changes, and of the tag table's
enable, which clears the tags as it turns on; the pending ones of a run are made in order when it ends, which is the model's choice of
the moment (log 15). -/
def Obligations.PendingWritesApply : Prop :=
  ∀ (b : Block) (gi : Nat) (g : Group) (x : W32), b.groups[gi]? = some g →
    let grp (n : Nat) (g' : Group) : Prop := (applySwr b gi { num := n, value := x }).groups[gi]? = some g' ∧
      applySwr b gi { num := n, value := x } = { b with groups := (applySwr b gi { num := n, value := x }).groups }
    grp 0x14 { g with tvt := pair (x &&& 0xFFFFFFC0#32) (hi32 g.tvt) } ∧
    grp 0x15 { g with tvt := pair (lo32 g.tvt) (x &&& 0x00FFFFFF#32) } ∧
    grp 0x16 { g with prog := x.extractLsb' 0 16 } ∧ grp 0x17 { g with spfmask := x.extractLsb' 0 3 } ∧
    grp 0x4C { g with hsv1 := { g.hsv1 with rpc := pair (x &&& 0xFFFFFFF8#32) (hi32 g.hsv1.rpc) } } ∧
    grp 0x4D { g with hsv1 := { g.hsv1 with rpc := pair (lo32 g.hsv1.rpc) (x &&& 0x00FFFFFF#32) } } ∧
    grp 0x6C { g with hsv2 := { g.hsv2 with rpc := pair (x &&& 0xFFFFFFF8#32) (hi32 g.hsv2.rpc) } } ∧
    grp 0x6D { g with hsv2 := { g.hsv2 with rpc := pair (lo32 g.hsv2.rpc) (x &&& 0x00FFFFFF#32) } } ∧
    (bit x 0 = false → applySwr b gi { num := 0x1010, value := x } = { b with tten := false }) ∧
    (bit x 0 = true → b.tten = false → applySwr b gi { num := 0x1010, value := x } = { b with tten := true, tags := [] }) ∧
    (bit x 0 = true → b.tten = true → applySwr b gi { num := 0x1010, value := x } = b) ∧
    (∀ qs : List SwrReq, g.swrs = qs → g.gates = [] → g.live.fm = [] →
      commitBlock b gi = (qs.foldl (fun b q => applySwr b gi q) (b.modGroup gi (fun g => { g with base := g.live }))).modGroup gi
        (fun g => { g with swrs := [], inRun := false, ending := false, longRun := false }))

/-- R88, R250–R252: `gtm` reads GT, `ccnt` the cluster's count of arithmetic-clock cycles, with the part of an edge begun at an earlier rate, `calq` the four calendar registers; `bst` sets
the cluster's claim, keeping its age when it is repeated, or withdraws it; that its group issues no further word in that tick is the
model's reading (assumption log 63). -/
def Obligations.TimeAndBoost : Prop :=
  ∀ (s : State) (v0 v : View) (h : Head),
    let s1 := startRun s v0
    let c := v.cluster
    let x := s1.cluster c
    (∀ o : F3, Issues (.gtm h o) h.s .all s v0 v →
      Ends (.gtm h o) h s v0 v (WroteN v h true o.dst.toNat 0 (fun _ => BitVec.ofNat 64 s.gt))) ∧
    (∀ o : F3, Issues (.ccnt h o) h.s .all s v0 v →
      Ends (.ccnt h o) h s v0 v (WroteN v h true o.dst.toNat 0 (fun _ => BitVec.ofNat 64 (
        x.cycles + (x.frac + if x.droop = true ∨ s.frozen = true then 0
          else (s.gt - x.cyclesAt) * (if s.regF c 0x3010 0 2 = 0 then 32 else if s.regF c 0x3010 0 2 = 1 then 35 else 38)) / 20)))) ∧
    (∀ o : F3, Issues (.calq h o) h.s .all s v0 v →
      Ends (.calq h o) h s v0 v (Loaded v h.u o.dst.toNat 16 0 (v.units h) (fun _ =>
        toBytes (s.reg 0 0x5010).toNat 4 ++ toBytes (s.reg 0 0x5011).toNat 4 ++ toBytes (s.reg 0 0x5012).toNat 4 ++
          toBytes (s.reg 0 0x5013).toNat 4))) ∧
    (∀ o : FI, Issues (.bst h o) h.s .notAud s v0 v → v.go h = false → exec (.bst h o) s = .next (finish v h.s s1)) ∧
    (∀ o : FI, Issues (.bst h o) h.s .notAud s v0 v → v.go h = true →
      let n := fldN o.imm 0 2
      ∃ (t : State), exec (.bst h o) s = .next (finish v h.s (t.modGroup v.handle v.gi (fun g => { g with notBefore := s1.gt + 1 }))) ∧
        t = { s1 with sys := t.sys, clusters := t.clusters } ∧
        t.sys.gt = s1.sys.gt ∧ t.regF c 0x3010 2 2 = n ∧ t.regF c 0x3010 0 2 = s1.regF c 0x3010 0 2 ∧
        (∀ i m, m < 65536 → (i ≠ c ∨ m ≠ 0x3010) → t.reg i m = s1.reg i m) ∧
        (∀ k, k ≠ c → t.cluster k = s1.cluster k) ∧
        t.cluster c = { x with
          release := decide (n = 0), claimAge := if n = 0 ∨ s1.regF c 0x3010 2 2 = n then x.claimAge else s1.gt })

/-- R240, R253–R255, R449: the operator's `seal` of a context that something keeps on its core stops it and waits; of one that nothing keeps
there, it writes the husk, waits while bytes are on their way to the host or a peer, and leaves the context sealed, its serial one higher
and its older husks no longer placeable, and answers the husk's length; what cannot be written raises its class with KIND 2. Of no
context, or one already sealed, it answers 0. `place` answers its status and, but for 0, places nothing; with status 0 it waits until the
reservation table can take the context's continuations (R397). `pmpt` of a partition that holds no rotation answers 0; of one its own
call has emptied, the number of husks. -/
def Obligations.SealPlacePreempt : Prop :=
  ∀ (s : State) (v0 v : View) (h : Head) (o : F3),
    let s1 := startRun s v0
    let a := v.g.asid.toNat
    let pr (x : BitVec 8) : W64 := pair (v.g.base.uni x.toNat) (v.g.base.uni (x.toNat + 1))
    let answers (i : Instr) (t : State) (n : Nat) : Prop :=
      exec i s = .next (finish v h.s (v.longPut t (v.g.live.setUni o.dst.toNat (BitVec.ofNat 32 n))))
    let ctx := (v.g.base.uni o.sb.toNat).toNat
    v.go h = true →
    (Issues (.seal h o) h.s .oper s v0 v → (pr o.sa).toNat % 64 = 0 →
      (s1.isContext ctx = false ∨ s1.placeable ctx = true → answers (.seal h o) s1 0) ∧
      (s1.isContext ctx = true → s1.placeable ctx = false → s1.sealable ctx = false →
        exec (.seal h o) s = .next (holdAt ((s1.boundGates ctx).modBlock ctx (fun b => { b with stopping := true })) v (.gateOut ctx))) ∧
      (∀ b t0 dest, s1.isContext ctx = true → s1.placeable ctx = false → s1.sealable ctx = true →
        AMap.get? s1.blocks ctx = some b → sealPlace s1 ctx (pr o.sa) = (t0, dest) →
        (∀ s2 k, sealAt s1 ctx a (pr o.sa) dest = (s2, .done k) →
          exec (.seal h o) s = .next (finish v h.s (({ s2 with parts := t0.parts }).modGroup v.handle v.gi (fun g =>
            { g with live := g.live.setUni o.dst.toNat (BitVec.ofNat 32 (64 + k.len)), longRun := true }))) ∧
          k.handle = ctx ∧ k.serial = b.serial + 1 ∧ k.placeable = true ∧ k ∈ s2.husks ∧
          ∀ x ∈ s2.husks, x.handle = ctx → x.placeable = true → x = k) ∧
        (∀ s2, sealAt s1 ctx a (pr o.sa) dest = (s2, .away) → exec (.seal h o) s = .next (holdAt s2 v (.husked ctx))) ∧
        (∀ s2 e, sealAt s1 ctx a (pr o.sa) dest = (s2, .failed e) → e.cls ≠ clsMSP → e.cls ≠ clsECC →
          exec (.seal h o) s = .next (faultAt s1 s2 v
            { cls := e.cls, lanes := v.mask, vaddr := e.va, kind := 2, frame := e.frame, tier := e.tier, unit := e.unit })))) ∧
    (Issues (.place h o) h.s .oper s v0 v → (pr o.sa).toNat % 64 = 0 →
      ∀ s2 s3 hd n y, fetchVia (groupReader v.handle v.gi) a 2 s1 (pr o.sa) 64 = (s2, .ok hd) →
        placeStatus s2 (groupReader v.handle v.gi) a (pr o.sa) ctx hd = (s3, .ok (n, y)) →
        let ends (t : State) : Prop :=
          exec (.place h o) s = .next (finish v h.s (((endPlacing t v).fetchDone (groupReader v.handle v.gi)).modGroup v.handle v.gi (fun g =>
            { g with live := g.live.setUni o.dst.toNat (BitVec.ofNat 32 n), longRun := true })))
        ((∀ k ∈ s2.husks, k.placeable = true → ¬(k.handle = fieldOf hd 8 4 ∧ k.serial = fieldOf hd 12 4 ∧ k.gen.toNat = fieldOf hd 28 4)) →
          n = 1 ∧ s3 = s2) ∧
        (n ≠ 0 → ends s3) ∧
        (∀ b, n = 0 → AMap.get? s3.blocks y = some b →
          (contsFit s3 y ctx = true → ends (placeOn ((joinDie s3 b ctx).consume y) y ctx)) ∧
          (contsFit s3 y ctx = false → exec (.place h o) s = .next (holdAt (reserveFor (s3.modGroup v.handle v.gi (fun g =>
            { g with placing := some y })) y ctx) v (.placeRoom ctx b.conts.length))))) ∧
    (Issues (.pmpt h o) h.s .oper s v0 v → (pr o.sb).toNat % 64 = 0 →
      let p := (v.g.base.uni o.sa.toNat).toNat
      p < 64 →
      (∀ t, (s1.part p).pmpt = none → t = (s1.setRegF p 0x6034 4 1 0).refreshRots → t.rotHeld p = none → answers (.pmpt h o) t 0) ∧
      (∀ m, (s1.part p).pmpt = some m → m.handle = v.handle → m.gi = v.gi → m.failed = true ∨ s1.holds p = false →
        answers (.pmpt h o) (s1.setPart p { s1.part p with pmpt := none, paused := m.failed }) m.count))

/-- R183, R184, R187: each code of a half gives the value of its full equivalent. Both halves of a pair
word read their operands as of run start and write their results, half B after half A; a half that reaches the scratchpad acts as `lds` or `sts` does; a failed tag check of either half leaves the word without effect. -/
def Obligations.PairWordsDoBothHalves : Prop :=
  ∀ (s : State) (v0 v : View) (e : Bool) (a b : Half),
    let s1 := startRun s v0
    let hd (x : Half) : Head := { s := false, u := x.u, g := x.g, n := x.n }
    let src (x : Half) (l : Nat) : W32 := if x.shiftImm then x.src.zeroExtend 32 else v.src (hd x) (bit x.m4 3) x.src l
    let dst (x : Half) (l : Nat) : W32 := v.src (hd x) false x.dst l
    let int (x : Half) (f : Nat → W32) : Prop := ∀ l ∈ v.units (hd x), halfVal v x l = (0, f l)
    let el (x : Half) (k : Nat) (y : W32) : Nat := if x.kind = 0 then y.toNat else y.toNat / 2 ^ (16 * k) % 2 ^ 16
    let float (x : Half) (f : Fmt → Nat → Nat → Nat) : Prop := ∀ l ∈ v.units (hd x), halfVal v x l =
      (tagTy x.kind, packElems x.kind (fun k => f (tyFmt x.kind) (el x k (dst x l)) (el x k (src x l))))
    let extreme (x : Half) (isMax : Bool) : Prop := ∀ l ∈ v.units (hd x), ∃ r : Nat → Nat,
      halfVal v x l = (tagTy x.kind, packElems x.kind r) ∧ ∀ k, k < elems x.kind →
        let f := tyFmt x.kind
        let A := f.decode (el x k (dst x l))
        let B := f.decode (el x k (src x l))
        let X := f.decode (r k)
        (A = .nan → B = .nan → r k = f.nanBits) ∧ (A = .nan → B ≠ .nan → r k = el x k (src x l)) ∧
        (A ≠ .nan → B = .nan → r k = el x k (dst x l)) ∧
        (A ≠ .nan → B ≠ .nan → (r k = el x k (dst x l) ∨ r k = el x k (src x l)) ∧
          (if isMax then 0 ≤ X.cmp A ∧ 0 ≤ X.cmp B else X.cmp A ≤ 0 ∧ X.cmp B ≤ 0) ∧
          (A.isZero = true → B.isZero = true → X.isNeg = if isMax then A.isNeg && B.isNeg else A.isNeg || B.isNeg))
    (∀ x : Half,
      (x.code = 0x00 → int x (src x)) ∧ (x.code = 0x01 → int x (fun l => dst x l + src x l)) ∧
      (x.code = 0x02 → int x (fun l => dst x l - src x l)) ∧ (x.code = 0x03 → int x (fun l => dst x l &&& src x l)) ∧
      (x.code = 0x04 → int x (fun l => dst x l ||| src x l)) ∧ (x.code = 0x05 → int x (fun l => dst x l ^^^ src x l)) ∧
      (x.code = 0x06 ∨ x.code = 0x09 → int x (fun l => BitVec.ofNat 32 ((dst x l).toNat * 2 ^ (src x l).toNat))) ∧
      (x.code = 0x07 ∨ x.code = 0x0A → int x (fun l => BitVec.ofNat 32 ((dst x l).toNat / 2 ^ (src x l).toNat))) ∧
      (x.code = 0x08 ∨ x.code = 0x0B → int x (fun l => BitVec.ofInt 32 ((dst x l).toInt / (2 ^ (src x l).toNat : Nat)))) ∧
      (x.code = 0x0C → int x (fun l => if (if x.kind = 1 then (dst x l).ult (src x l) else (dst x l).slt (src x l)) then dst x l else src x l)) ∧
      (x.code = 0x0D → int x (fun l => if (if x.kind = 1 then (dst x l).ult (src x l) else (dst x l).slt (src x l)) then src x l else dst x l)) ∧
      (x.code = 0x10 → float x (fun f d y => f.round 0 ((f.decode d).add 0 (f.decode y)) 0)) ∧
      (x.code = 0x11 → float x (fun f d y => f.round 0 ((f.decode d).mul (f.decode y)) 0)) ∧
      (x.code = 0x12 → extreme x false) ∧ (x.code = 0x13 → extreme x true) ∧
      (x.code = 0x18 → ∀ l ∈ v.units (hd x),
        (x.kind = 0 → halfVal v x l = (1, BitVec.ofNat 32 (F32.round 0 (.ofInt (src x l).toInt) 0))) ∧
        (x.kind = 1 → halfVal v x l = (1, BitVec.ofNat 32 (F32.round 0 (.ofInt (src x l).toNat) 0))) ∧
        (x.kind = 2 → halfVal v x l = (0, BitVec.ofInt 32 ((F32.decode (src x l).toNat).toRange 1 (-(2 ^ 31)) (2 ^ 31 - 1)))) ∧
        (x.kind = 3 → halfVal v x l = (0, BitVec.ofInt 32 ((F32.decode (src x l).toNat).toRange 1 0 (2 ^ 32 - 1)))) ∧
        (x.kind = 4 → halfVal v x l = (1, BitVec.ofNat 32 (F32.round 0 (F16.decode ((src x l).toNat % 2 ^ 16)) 0))) ∧
        (x.kind = 5 → halfVal v x l = (1, BitVec.ofNat 32 (F32.round 0 (BF16.decode ((src x l).toNat % 2 ^ 16)) 0))))) ∧
    (Issues (.pairWord e a b) e (if a.isMem || b.isMem then .notAud else .all) s v0 v →
      (halfBad v a ≠ [] →
        exec (.pairWord e a b) s = .next (faultAt s1 s1 v { cls := clsTAG, lanes := v.failMask (hd a) (halfBad v a) })) ∧
      (halfBad v a = [] → halfBad v b ≠ [] →
        exec (.pairWord e a b) s = .next (faultAt s1 s1 v { cls := clsTAG, lanes := v.failMask (hd b) (halfBad v b) })) ∧
      (halfBad v a = [] → halfBad v b = [] →
        (a.isMem = false → b.isMem = false → ∃ R1 R, exec (.pairWord e a b) s = .next (finish v e (v.put s1 R)) ∧
          R1 = (v.units (hd a)).foldl (fun r l => putReg a.u a.dst.toNat l (halfVal v a l).1 (halfVal v a l).2 r) v.g.live ∧
          R = (v.units (hd b)).foldl (fun r l => putReg b.u b.dst.toNat l (halfVal v b l).1 (halfVal v b l).2 r) R1) ∧
        (∀ t, a.isMem = true → spAccess s1 v (halfMem v a) (halfAddrs v a) = .ok t →
          exec (.pairWord e a b) s = .next (finish v e (t.modGroup v.handle v.gi (fun g => { g with live := halfPut v b g.live })))) ∧
        (∀ t, a.isMem = false → b.isMem = true → spAccess s1 v (halfMem v b) (halfAddrs v b) = .ok t →
          exec (.pairWord e a b) s = .next (finish v e (t.modGroup v.handle v.gi (fun g => { g with live := halfPut v a g.live }))))))

/-! ### Frames and tiers (R37, R38, R44, R124, R304, R415, R419) -/

/-- R37, R38, R43, R44, R416, R418: a frame command whose requirement is met changes the fields of its frame's entry as its row says, and the
pool of the partition for GRANT and RECLAIM; no other entry changes. RELEASE and UNWINDOW of a pinned frame wait with BUSY 1, as
GRANT and TAKE of a KIND 3 frame do while no frontier is free. One whose requirement is not met changes no entry and ends with status 1, one
beyond the table with 2, and none starts while BUSY is 1. PRESET leaves the partition without contexts, operations, launches, frames
and pool, without cached translations, armed windows and placeable husks, with the next generation and its key. ARM and DISARM change the
partition's arm bit of a window that names it, ARMA where it is PART; CTLMARK sets CTLF of a popped frame of the partition; TLB
entries of the frame go. -/
def Obligations.FrameCommands : Prop :=
  (∀ (s : State) (core : Nat) (pa pb : BitVec 6) (opm : Bool),
    let f := (s.reg core 0x2081).toNat
    let x := ftView (s.ftEntry f)
    let does (i : Instr) (code : Nat) (y : FtFields) (pools : Nat → List Nat) : Prop :=
      ∃ t, exec i s = .next t ∧ t = { s with sys := t.sys, fot := t.fot, pools := t.pools, frontiers := t.frontiers, scrubQ := t.scrubQ } ∧
        t.regF core 0x2086 0 3 = code ∧ t.regF core 0x2080 31 1 = 0 ∧ ftView (t.ftEntry f) = y ∧ (∀ g, g ≠ f → t.ftEntry g = s.ftEntry g) ∧
        (∀ p, t.pool p = pools p) ∧ ∀ i m, m < 65536 → (i ≠ core ∨ m ≠ 0x2080 ∧ m ≠ 0x2086) → t.reg i m = s.reg i m
    let waits (i : Instr) : Prop :=
      ∃ t w, exec i s = .next t ∧ t = { s with sys := t.sys, ftWaits := s.ftWaits ++ [w] } ∧ t.regF core 0x2080 31 1 = 1 ∧
        w.core = core ∧ w.frame = f ∧ w.pa = pa.toNat
    let plain : FtFields := { kind := 0, part := 0, ctl := false, win := false, opm := false, armA := false, armB := false, pb := 0,
                              pool := false, aub := false, aux := false }
    let granted (p : Nat) : List Nat := if p = pa.toNat then f :: s.pool p else s.pool p
    let reclaimed (p : Nat) : List Nat := if p = x.part then (s.pool p).filter (fun g => decide (g ≠ f)) else s.pool p
    let scrubbing : Bool := (AMap.get? s.frontiers f).isSome
    let all : List Instr := [.grant core pa pb opm, .reclaim core pa pb opm, .take core pa pb opm, .release core pa pb opm,
      .window core pa pb opm, .unwindow core pa pb opm, .audbuf core pa pb opm, .audtext core pa pb opm]
    (s.regF core 0x2080 31 1 = 0 →
      (f < Config.frames →
        (x.kind = 0 ∨ x.kind = 3 ∧ s.frontierFor f = true →
          does (.grant core pa pb opm) 0 { plain with kind := 1, part := pa.toNat, pool := true } granted ∧
          does (.take core pa pb opm) 0 { plain with kind := 2 } s.pool) ∧
        (x.kind = 1 → x.pool = true →
          does (.reclaim core pa pb opm) 0 { x with kind := if scrubbing then 3 else 0, pool := false } reclaimed) ∧
        (x.kind = 2 → s.pinned f = false →
          does (.release core pa pb opm) 0 { x with kind := 3, win := false, aub := false, aux := false } s.pool) ∧
        (x.kind = 2 → x.win = false →
          does (.window core pa pb opm) 0
            { x with win := true, part := pa.toNat, pb := (if opm then pa.toNat else pb.toNat), opm, armA := false, armB := false } s.pool ∧
          does (.audbuf core pa pb opm) 0 { x with aub := true } s.pool) ∧
        (x.kind = 2 → x.win = true → s.pinned f = false →
          does (.unwindow core pa pb opm) 0
            { x with kind := 3, win := false, aub := false, aux := false, armA := false, armB := false } s.pool) ∧
        (x.kind = 2 → x.win = false → x.aub = false → does (.audtext core pa pb opm) 0 { x with aux := true } s.pool) ∧
        (x.kind = 3 → s.frontierFor f = false → waits (.grant core pa pb opm) ∧ waits (.take core pa pb opm)) ∧
        (x.kind = 2 → s.pinned f = true →
          waits (.release core pa pb opm) ∧ (x.win = true → waits (.unwindow core pa pb opm))) ∧
        (x.kind = 1 ∨ x.kind = 2 → does (.grant core pa pb opm) 1 x s.pool ∧ does (.take core pa pb opm) 1 x s.pool) ∧
        (x.kind ≠ 1 ∨ x.pool = false → does (.reclaim core pa pb opm) 1 x s.pool) ∧
        (x.kind ≠ 2 → does (.release core pa pb opm) 1 x s.pool) ∧
        (x.kind ≠ 2 ∨ x.win = true → does (.window core pa pb opm) 1 x s.pool ∧ does (.audbuf core pa pb opm) 1 x s.pool) ∧
        (x.kind ≠ 2 ∨ x.win = false → does (.unwindow core pa pb opm) 1 x s.pool) ∧
        (x.kind ≠ 2 ∨ x.win = true ∨ x.aub = true → does (.audtext core pa pb opm) 1 x s.pool)) ∧
      (Config.frames ≤ f → ∀ i ∈ all, does i 2 x s.pool) ∧
      (let p := pa.toNat
       ∃ t, exec (.preset core pa pb opm) s = .next t ∧ t.reg p 0x6010 = s.reg p 0x6010 + 1 ∧
        t.partKey p = partitionKey p (s.reg p 0x6010 + 1) ∧ t.pool p = [] ∧
        (∀ h b, AMap.get? t.blocks h = some b → b.part? ≠ some p) ∧
        (∀ k o, AMap.get? t.ops k = some o → o.part ≠ some p) ∧ (∀ k l, AMap.get? t.launches k = some l → l.part ≠ some p) ∧
        (∀ k ∈ t.husks, k.part = p → k.placeable = false) ∧
        (∀ c ∈ t.cores, (∀ e ∈ c.2.tlb, asidPart e.asid ≠ some p) ∧ ∀ l ∈ c.2.cbc, asidPart l.asid ≠ some p) ∧
        (∀ g, ¬(ftKind (t.ftEntry g) = 1 ∧ ftPart (t.ftEntry g) = p)) ∧
        (∀ g, ftKind (t.ftEntry g) = 2 → ftWin (t.ftEntry g) = true → (ftPart (t.ftEntry g) = p → ftArmA (t.ftEntry g) = false) ∧
          (ftPb (t.ftEntry g) = p → ftArmB (t.ftEntry g) = false)) ∧
        (∀ r, s.rotHeld p = some r → (t.rot r).holder = none) ∧ t.regF core 0x2086 0 3 = 0)) ∧
    (s.regF core 0x2080 31 1 = 1 → ∀ i ∈ all ++ [.preset core pa pb opm], exec i s = .next s)) ∧
  (∀ (s : State) (p : Nat),
    let f := (s.reg p 0x6021).toNat
    let x := ftView (s.ftEntry f)
    let does (i : Instr) (code : Nat) (y : FtFields) : Prop :=
      ∃ t, exec i s = .next t ∧ t = { s with sys := t.sys, fot := t.fot, cores := t.cores } ∧ t.regF p 0x6022 0 2 = code ∧
        ftView (t.ftEntry f) = y ∧ (∀ g, g ≠ f → t.ftEntry g = s.ftEntry g) ∧
        (∀ i m, m < 65536 → (i ≠ p ∨ m ≠ 0x6020 ∧ m ≠ 0x6022) → t.reg i m = s.reg i m) ∧
        (code = 0 → t.cores = s.cores.map (fun c => (c.1, { c.2 with tlb := c.2.tlb.filter (fun e => !e.maps f) }))) ∧
        (code ≠ 0 → t.cores = s.cores)
    let names : Prop := x.kind = 2 ∧ x.win = true ∧ (x.part = p ∨ x.pb = p)
    let pops : Prop := x.kind = 1 ∧ x.part = p ∧ x.pool = false
    (f < Config.frames →
      (names → x.part = p → does (.arm p) 0 { x with armA := true } ∧ does (.disarm p) 0 { x with armA := false }) ∧
      (names → x.part ≠ p → does (.arm p) 0 { x with armB := true } ∧ does (.disarm p) 0 { x with armB := false }) ∧
      (pops → does (.ctlmark p) 0 { x with ctl := true }) ∧
      (¬names → does (.arm p) 1 x ∧ does (.disarm p) 1 x) ∧ (¬pops → does (.ctlmark p) 1 x)) ∧
    (Config.frames ≤ f → does (.arm p) 2 x ∧ does (.disarm p) 2 x ∧ does (.ctlmark p) 2 x))

/-- R124, R304, R415, R419: a move command waits with BUSY 1 as a move; QUERY tells LOC and PIN; a move that completes puts the frame at its
destination with every byte as it was and no TLB entry that maps it; `evcmd` moves a frame of the search out of HBM, or waits while each
is pinned; `tqcmd` writes a fresh descriptor; a scrubbed line changes no byte that a reader sees. The port f mod 8 of a destination in a CXL
tier (log 7), and a move into a tier at its full capacity (log 58), are the model's choices. -/
def Obligations.TierCommands : Prop :=
  ∀ (s : State) (core : Nat),
    let f := (s.reg core 0x2083).toNat
    let moves (i : Instr) (d : Loc) : Prop :=
      ∃ t, exec i s = .next t ∧ t = { s with sys := t.sys, moves := s.moves ++ [{ frame := f, dest := d, core, evict := false }] } ∧
        t.regF core 0x2082 31 1 = 1
    (s.regF core 0x2082 31 1 = 0 → f < Config.frames → tierOk s f = true →
      moves (.tohbm core) .hbm ∧ moves (.tocxl core) (.cxl (f % 8)) ∧ moves (.tocold core) (.cold (f % 8)) ∧
      ∃ t, exec (.query core) s = .next t ∧ t = { s with sys := t.sys } ∧ t.regF core 0x2086 0 3 = 0 ∧ t.regF core 0x2082 31 1 = 0 ∧
        t.regF core 0x2082 3 2 = (if s.moving f then 3 else match s.locOf f with | .hbm => 0 | .cxl _ => 1 | .cold _ => 2) ∧
        t.regF core 0x2082 5 1 = b2n (s.pinned f)) ∧
    (∀ (g : Nat) (m : Move), s.moves.find? (fun m => decide (m.frame = g)) = some m → s.pinned g = false → tierOk s g = true → s.locOf g ≠ m.dest →
      s.frameBad g = false → s.noWaits → (∀ p, locPort (s.locOf g) = some p ∨ locPort m.dest = some p → s.portUp p = true) →
      (∀ fr, AMap.get? s.frontiers g = some fr → fr.next < 512) → (∀ l ∈ s.launches, l.2.unwritten ≠ some g) →
      ∃ t, exec (.tierMoveComplete g) s = .next t ∧ t.locOf g = m.dest ∧ (∀ k, k ≠ g → t.locOf k = s.locOf k) ∧ (∀ a, t.byte a = s.byte a) ∧
        (∀ c ∈ t.cores, ∀ e ∈ c.2.tlb, e.maps g = false) ∧ t.moves = s.moves.filter (fun x => decide (x ≠ m)) ∧
        (m.evict = false → t.regF m.core 0x2082 31 1 = 0)) ∧
    (∀ (i : Instr) (part : BitVec 6) (opf cold : Bool),
      i = (if cold then .evictCxlCold core part opf else .evictCxlDirect core part opf) →
      let ok (k : Nat) : Prop := s.locOf k = .hbm ∧ s.moving k = false ∧
        (if opf then ftKind (s.ftEntry k) = 2
         else ftKind (s.ftEntry k) = 1 ∧ ftPart (s.ftEntry k) = part.toNat ∧ ftPool (s.ftEntry k) = false)
      SMap.wf (fun _ => 0) s.fot = true → s.regF core 0x2087 31 1 = 0 →
      ((∃ k, ok k ∧ s.pinned k = false) → ∃ t k, exec i s = .next t ∧ ok k ∧ s.pinned k = false ∧
        t = { s with sys := t.sys, lastEvicted := k,
                     moves := s.moves ++ [{ frame := k, dest := if cold then .cold (k % 8) else .cxl (k % 8), core, evict := true }] } ∧
        t.regF core 0x2087 31 1 = 1) ∧
      ((∃ k, ok k) → (∀ k, ok k → s.pinned k = true) → ∃ t, exec i s = .next t ∧ t.regF core 0x2087 31 1 = 1 ∧
        t = { s with sys := t.sys, evWaits := s.evWaits ++ [{ core, part := part.toNat, opf, cold }] }) ∧
      ((∀ k, ¬ok k) → ∃ t, exec i s = .next t ∧ t = { s with sys := t.sys } ∧ t.reg core 0x2088 = 0xFFFFFFFF#32 ∧
        t.regF core 0x2086 0 3 = 3 ∧ t.regF core 0x2087 31 1 = 0)) ∧
    (∀ (off : BitVec 10) (slots : BitVec 13),
      let g := (s.reg core 0x2084).toNat
      let at_ := 65536 * g + 64 * off.toNat
      g < Config.frames → ftKind (s.ftEntry g) = 2 → ftWin (s.ftEntry g) = true → (∃ k, 1 ≤ k ∧ k ≤ 12 ∧ slots.toNat = 2 ^ k) →
      s.eccUnit at_ 64 true = none →
      ∃ t, exec (.tqcmd core off slots) s = .next t ∧ t.regF core 0x2086 0 3 = 0 ∧
        (∀ a, a < at_ ∨ at_ + 64 ≤ a → t.byte a = s.byte a) ∧
        (∀ k, k < 64 → t.byte (at_ + k) = BitVec.ofNat 8 (
          if k = 12 then slots.toNat else if k = 13 then slots.toNat / 256 else if k = 16 then ftPart (s.ftEntry g)
          else if k = 17 then ftPb (s.ftEntry g) else 0))) ∧
    (∀ (g : Nat) (fr : Frontier), AMap.get? s.frontiers g = some fr → fr.next < 512 → s.noWaits →
      ∃ t, exec (.scrubLine g) s = .next t ∧ (∀ a, t.byte a = s.byte a) ∧
        (fr.next < 511 → (AMap.get? t.frontiers g).map Frontier.next = some (fr.next + 1)) ∧
        (fr.next = 511 → AMap.get? t.frontiers g = none ∧ (ftKind (s.ftEntry g) = 3 → ftKind (t.ftEntry g) = 0)))

/-! ### Register and command writes (R84, R85, R87, R92, R109, R294, R295, R316, R345, R421, R432, R449, R453) -/

/-- R84, R85, R87, R92, R109, R294, R295, R300, R316, R345, R421, R431, R432, R434, R449, R452, R453: what each write of a command or
configuration register does, in every state, and what a host function reads and writes through its mirrors. That setting EN makes STATE
RUN, and that a write outside a mirror is ignored, are the model's choices (log 25); so is that a rollback asked for while an image streams
waits for it (log 26). -/
def Obligations.ControlWrites : Prop :=
  ∀ s : State,
    (∀ h : Nat,
      (AMap.get? s.blocks h = none → exec (.ctxkill h) s = .next s) ∧
      (∀ b, AMap.get? s.blocks h = some b → s.isContext h = false ∨ b.core? ≠ none → exec (.ctxkill h) s = .next s) ∧
      (∀ b, AMap.get? s.blocks h = some b → s.isContext h = true → b.core? = none →
        ∃ (t m : State), exec (.ctxkill h) s = .next t ∧
          t = (m.record { cls := 0x19, kill := true, part := b.part?, handle := h } (if b.part?.isSome then .queue else .oper)).1 ∧
          AMap.get? m.blocks h = none ∧ (∀ k, k ≠ h → (AMap.get? m.blocks k).map (fun b => { b with conts := [] }) =
            (AMap.get? s.blocks k).map (fun b => { b with conts := [] })) ∧ m.mem = s.mem ∧ m.fot = s.fot ∧ m.sys = s.sys ∧
          (∀ k ∈ m.husks, k.handle = h → k.kind = 0 → k.placeable = false) ∧ m.husks.length = s.husks.length ∧
          (∀ lid, b.launch ≠ some lid → AMap.get? m.launches lid = AMap.get? s.launches lid) ∧
          ∀ lid l, b.launch = some lid → AMap.get? s.launches lid = some l → b.redo = .no →
            AMap.get? m.launches lid =
              some (if l.restart then { l with again := l.again ++ [[b.lidx]] } else { l with done := l.done + 1 }))) ∧
    (∀ i ∈ [Instr.dbgctlFreeze, Instr.testPortFreeze],
      (s.frozen = true → exec i s = .next s) ∧
      (s.frozen = false → ∃ t, exec i s = .next t ∧ t = { s with frozen := true, frozenAt := s.gt, clusters := t.clusters } ∧
        ∀ c, c < Config.clusters → t.ccount c = s.ccount c)) ∧
    (∀ port, ∃ t, exec (.cxlRetrain port) s = .next t ∧ t = { s with sys := t.sys } ∧
      (∀ i n, n < 65536 → 0x50B0 + port < 65536 → (i ≠ 0 ∨ n ≠ 0x50B0 + port) → t.reg i n = s.reg i n) ∧
      t.regF 0 (0x50B0 + port) 0 2 = (if s.regF 0 (0x50B0 + port) 0 2 = 0 then 1 else s.regF 0 (0x50B0 + port) 0 2)) ∧
    (∀ (r : Nat) (x : W32),
      let g := s.ring r
      let i := fldN x 0 31
      let n := (i + 2 ^ 31 - g.fetch) % 2 ^ 31
      let tailed (t : State) : Prop := t.ringTail r = i ∧ ∀ id c, AMap.get? s.cmds id = some c →
        AMap.get? t.cmds id = some (if c.ring = r ∧ c.type = 5 then { c with reread := true } else c)
      let others (t : State) : Prop := ∀ k, k ≠ r → t.ring k = s.ring k
      let dropped (t : State) : Prop := (∀ l ∈ t.fetched, l.1 ≠ r) ∧ ∀ q ∈ t.remotes, q.2.hw = some (.fetch r) → q.2.stale = true
      (s.ringIn r = true → (i + 2 ^ 31 - s.ringIndex r) % 2 ^ 31 ≤ 2 ^ s.ringLogn r →
        ∃ t, exec (.hqtailDoorbell r x) s = .next t ∧ t = { s with sys := t.sys, cmds := t.cmds, rings := t.rings } ∧
          tailed t ∧ t.ringState r = s.ringState r ∧ t.ring r = { g with badTail := false } ∧ others t) ∧
      (s.ringIn r = true → 2 ^ s.ringLogn r < (i + 2 ^ 31 - s.ringIndex r) % 2 ^ 31 →
        ∃ (t m : State), exec (.hqtailDoorbell r x) s = .next t ∧ t = m.ringRecord r 0x16 0 7 noFrame noTier 0 ∧
          m = { s with sys := m.sys, cmds := m.cmds, rings := m.rings, fetched := m.fetched, remotes := m.remotes } ∧
          tailed m ∧ m.ringState r = 1 ∧ m.ring r = { g with badTail := true } ∧ others m ∧ dropped m) ∧
      (s.ringIn r = false → ∃ t, exec (.hqtailDoorbell r x) s = .next t ∧ t = { s with rings := t.rings } ∧
        t.ring r = { g with shadow := some x } ∧ others t) ∧
      (s.ringIn r = true → s.ringState r ≠ 1 ∨ bit x 31 = false ∨ (s.ringTail r + 2 ^ 31 - g.fetch) % 2 ^ 31 < n →
        exec (.hqskip r x) s = .next s) ∧
      (s.ringIn r = true → s.ringState r = 1 → bit x 31 = true → n ≤ (s.ringTail r + 2 ^ 31 - g.fetch) % 2 ^ 31 →
        ∃ t, exec (.hqskip r x) s = .next t ∧ 
          t = { s with sys := t.sys, rings := t.rings, cmds := t.cmds, fetched := t.fetched, remotes := t.remotes } ∧ dropped t ∧ t.ringState r = 0 ∧
          t.ringEn r = s.ringEn r ∧ t.ringLogn r = s.ringLogn r ∧ t.ringTail r = s.ringTail r ∧
          (t.ring r).stuck = none ∧ (t.ring r).fetch = (if g.stuck ≠ none ∧ n = 0 then (g.fetch + 1) % 2 ^ 31 else i) ∧ others t ∧
          (g.stuck = none → g.packets = [] → g.fetch < 2 ^ 31 → 0 < n → t.ringIndex r = i)) ∧
      (s.ringIn r = true → s.ringEn r = false → (fldN x 0 5 < 4 ∨ 16 < fldN x 0 5) → exec (.hqctlWrite r x) s = .next s) ∧
      (s.ringIn r = true → s.ringEn r = false → 4 ≤ fldN x 0 5 → fldN x 0 5 ≤ 16 → bit x 5 = true →
        ∃ t, exec (.hqctlWrite r x) s = .next t ∧
          t = { s with sys := t.sys, rings := t.rings, fetched := t.fetched, remotes := t.remotes } ∧ t.ringEn r = true ∧
          t.ringLogn r = fldN x 0 5 ∧ t.ringTail r = 0 ∧ t.ringIndex r = 0 ∧ t.ringState r = 0 ∧ t.ring r = {} ∧ others t ∧ dropped t) ∧
      (s.ringIn r = true → s.ringEn r = false → 4 ≤ fldN x 0 5 → fldN x 0 5 ≤ 16 → bit x 5 = false →
        ∃ t, exec (.hqctlWrite r x) s = .next t ∧ t = { s with sys := t.sys } ∧ t.ringEn r = false ∧ t.ringLogn r = fldN x 0 5 ∧
          t.ringState r = s.ringState r) ∧
      (s.ringIn r = true → s.ringEn r = true →
        ∃ t, exec (.hqctlWrite r x) s = .next t ∧ t = { s with sys := t.sys } ∧ t.ringEn r = bit x 5 ∧ t.ringLogn r = s.ringLogn r ∧
          t.ringState r = s.ringState r) ∧
      (s.ringIn r = false →
        (∃ t, exec (.hqskip r x) s = .next t ∧ t = { s with rings := t.rings } ∧
          t.ring r = { g with queued := g.queued ++ [(6, x)] } ∧ others t) ∧
        (∃ t, exec (.hqctlWrite r x) s = .next t ∧ t = { s with rings := t.rings } ∧
          t.ring r = { g with queued := g.queued ++ [(2, x)] } ∧ others t))) ∧
    (∀ (h : Nat) (x : W32),
      (AMap.get? s.blocks h = none → exec (.ttcfgWrite h x) s = .next s) ∧
      (∀ b, AMap.get? s.blocks h = some b →
        ∃ t, exec (.ttcfgWrite h x) s = .next t ∧ t = { s with blocks := t.blocks } ∧
          (∀ k, k ≠ h → AMap.get? t.blocks k = AMap.get? s.blocks k) ∧
          AMap.get? t.blocks h = some { b with tten := bit x 0, tags := if bit x 0 && !b.tten then [] else b.tags })) ∧
    (∀ (p : Nat) (x : W32), ∃ t, exec (.sillageConfigWrite p x) s = .next t ∧ t = { s with sys := t.sys, clusters := t.clusters } ∧
      t.reg p 0x6002 = BitVec.ofNat 32 (fldN x 0 16 + 65536 * max 4 (min 16 (fldN x 16 5))) ∧
      (∀ i n, n < 65536 → (i ≠ p ∨ n ≠ 0x6002) → t.reg i n = s.reg i n) ∧
      (t.reg p 0x6002 = s.reg p 0x6002 → t.clusters = s.clusters) ∧
      (t.reg p 0x6002 ≠ s.reg p 0x6002 →
        t.clusters = s.clusters.map (fun (c : Nat × Cluster) => (c.1, { c.2 with passes := AMap.del c.2.passes p })) ∧
        ∀ c ∈ t.clusters, AMap.get? c.2.passes p = none)) ∧
    (∀ g, g < 4 →
      let hi := s.reg 0 (0x5041 + 2 * g)
      let took (t : State) : Prop := t = { s with sys := t.sys, outbox := t.outbox, host := t.host } ∧ bit (t.reg 0 (0x5041 + 2 * g)) 31 = false ∧
        (∀ i n, n < 65536 → (i ≠ 0 ∨ n ≠ 0x5041 + 2 * g) → t.reg i n = s.reg i n) ∧
        t.regF 0 (0x5041 + 2 * g) 0 31 = s.regF 0 (0x5041 + 2 * g) 0 31
      (∃ t, exec (.energyCapture g false) s = .next t ∧ took t ∧ t.outbox = .value (s.reg 0 (0x5040 + 2 * g)) :: s.outbox ∧
        AMap.get? t.host.shadows 1 = some (0x7900 + 2 * g, hi)) ∧
      (∀ w, AMap.get? s.host.shadows 1 = some (0x7900 + 2 * g, w) →
        ∃ t, exec (.energyCapture g true) s = .next t ∧ t = { s with outbox := t.outbox, host := t.host } ∧ t.outbox = .value w :: s.outbox) ∧
      ((∀ w, AMap.get? s.host.shadows 1 ≠ some (0x7900 + 2 * g, w)) →
        ∃ t, exec (.energyCapture g true) s = .next t ∧ took t ∧ t.outbox = .value hi :: s.outbox)) ∧
    (∀ x : W32, ∃ t, exec (.wearthrWrite x) s = .next t ∧ t = { s with sys := t.sys, clusters := t.clusters } ∧
      t.regF 0 0x5090 0 16 = fldN x 0 16 ∧ (∀ i n, n < 65536 → (i ≠ 0 ∨ n ≠ 0x5090) → t.reg i n = s.reg i n) ∧
      t.clusters = s.clusters.map (fun (c : Nat × Cluster) => (c.1, { c.2 with wearAbove := true }))) ∧
    (∀ (fn : Fn) (num : BitVec 16) (part : Nat) (x : W32),
      let n := num.toNat
      let m := writeMask (Fn.auth fn) n
      let e := exec (.registerWrite fn (.reg num) part x) s
      let one (k : Nat) (y : W32) (t : State) : Prop :=
        e = .next t ∧ t = { s with sys := t.sys } ∧ ∀ i j, j < 65536 → t.reg i j = if i = k ∧ j = n then y else s.reg i j
      (mirrorInst fn n part = none ∨ m = 0 → e = .next s) ∧
      (∀ off, exec (.registerWrite fn (.word (.bar4 off)) part x) s = .next s) ∧
      (∀ off : Nat, exec (.registerWrite fn (.word (.bar0 off)) part x) s =
        match fn with
        | .pf0 =>
          if off < 0x4000 then exec (.registerWrite fn (.reg (BitVec.ofNat 16 (0x5000 + off / 4))) 0 x) s
          else if off < 0x8000 then exec (.registerWrite fn (.reg (BitVec.ofNat 16 (0x7000 + (off - 0x4000) / 4))) 0 x) s
          else if 0x100000 ≤ off ∧ off < 0x200000 then
            exec (.registerWrite fn (.reg (BitVec.ofNat 16 (0x6000 + (off - 0x100000) % 0x4000 / 4))) ((off - 0x100000) / 0x4000) x) s
          else .next s
        | .pf1 => if off < 0x4000 then exec (.registerWrite fn (.reg (BitVec.ofNat 16 (0x7000 + off / 4))) 0 x) s else .next s
        | .vf _ => if off < 0x4000 then exec (.registerWrite fn (.reg (BitVec.ofNat 16 (0x6000 + off / 4))) 0 x) s else .next s) ∧
      (∀ k, mirrorInst fn n part = some k → m ≠ 0 → badValue s k n x = true → e = .next s) ∧
      (∀ k, mirrorInst fn n part = some k → m ≠ 0 → badValue s k n x = false →
        e = .next (regWrite s k n m x) ∧
        (plainReg n = true ∨ n ∈ [0x5122, 0x6030, 0x6082] → ∃ t, one k ((s.reg k n &&& ~~~ m) ||| (x &&& m)) t) ∧
        (n ∈ [0x5060, 0x5061, 0x6032] → ∃ t, one k (BitVec.ofNat 32 (max 1 (min 3712 (fldN x 0 12)))) t) ∧
        (n ∈ [0x5086, 0x6086] → ∃ t, one k (BitVec.ofNat 32 (max 1 (fldN x 0 16))) t) ∧
        (n = 0x5070 → e = if bit x 0 then exec .dbgctlFreeze s else .next s) ∧
        (n = 0x5090 → e = exec (.wearthrWrite x) s) ∧
        (0x50B0 ≤ n → n ≤ 0x50B7 → e = if bit x 3 then exec (.cxlRetrain (n - 0x50B0)) s else .next s) ∧
        (n = 0x6002 → e = exec (.sillageConfigWrite k x) s) ∧
        (n = 0x6020 → fldN x 0 3 = 1 → e = exec (.arm k) s) ∧
        (n = 0x6020 → fldN x 0 3 = 2 → e = exec (.disarm k) s) ∧
        (n = 0x6020 → fldN x 0 3 = 3 → e = exec (.ctlmark k) s) ∧
        (n = 0x6095 → (s.part k).roll = none → e = exec (.ckproll k (x ++ s.reg k 0x6094)) (s.setReg k 0x6095 x)) ∧
        (∀ r, (0x5500 ≤ n ∧ n ≤ 0x557F ∧ r = 1024 + (n - 0x5500) / 8) ∨ (0x6100 ≤ n ∧ n ≤ 0x617F ∧ r = 16 * k + (n - 0x6100) / 8) →
          (n % 8 = 2 → e = exec (.hqctlWrite r x) s) ∧ (n % 8 = 3 → e = exec (.hqtailDoorbell r x) s) ∧
          (n % 8 = 6 → e = exec (.hqskip r x) s)))) ∧
    (∀ (fn : Fn) (num : BitVec 16) (part : Nat),
      let n := num.toNat
      let answers (i : Instr) (x : W32) : Prop := exec i s = .next { s with outbox := .value x :: s.outbox }
      let e := Instr.barMirrorRead fn num part none
      (mirrorInst fn n part = none → answers e 0) ∧
      (∀ k q, mirrorInst fn n part = some k → fn = .vf q → s.regF 0 0x5609 0 3 ≠ 0 → answers e 0) ∧
      (∀ off q, fn = .vf q → s.regF 0 0x5609 0 3 ≠ 0 → answers (.barMirrorRead fn num part (some (.bar2 off))) 0) ∧
      (∀ k, mirrorInst fn n part = some k → (Fn.part? fn = none ∨ s.regF 0 0x5609 0 3 = 0) → (n < 0x7900 ∨ 0x7908 ≤ n ∨ fn ≠ .pf1) →
        let val (j : Nat) : W32 := deviceValue s s.sys s.clusters k j &&& readMask (Fn.auth fn) (Fn.part? fn) j
        let reads (x : W32) (P : State → Prop) : Prop :=
          ∃ t, exec e s = .next t ∧ t = { s with outbox := .value x :: s.outbox, host := t.host } ∧
            t.host = { s.host with shadows := t.host.shadows } ∧ P t
        let kept (t : State) : Prop := ∀ f, AMap.get? t.host.shadows f = AMap.get? s.host.shadows f
        (isWide n = true → reads (val n) (fun t => AMap.get? t.host.shadows (Fn.num fn) = some (n, val (n + 1)) ∧
          ∀ f, f ≠ Fn.num fn → AMap.get? t.host.shadows f = AMap.get? s.host.shadows f)) ∧
        (isWide n = false → (n % 2 = 0 ∨ isWide (n - 1) = false) → reads (val n) kept) ∧
        (n % 2 = 1 → isWide (n - 1) = true →
          (∀ w, AMap.get? s.host.shadows (Fn.num fn) = some (n - 1, w) → reads w kept) ∧
          ((∀ w, AMap.get? s.host.shadows (Fn.num fn) ≠ some (n - 1, w)) → reads (val n) kept))) ∧
      (∀ off : Nat, (
        match bar0Reg fn off with
        | some q => exec (.barMirrorRead fn num part (some (.bar0 off))) s = exec (.barMirrorRead fn (BitVec.ofNat 16 q.1) q.2 none) s
        | none => answers (.barMirrorRead fn num part (some (.bar0 off))) 0)) ∧
      (∀ off : Nat,
        let b := 65536 * s.regF 0 0x5100 0 32
        ∃ t w, exec (.barMirrorRead fn num part (some (.bar4 off))) s = .next t ∧
          t = { s with outbox := .value w :: s.outbox, fresh := s.fresh + 1 } ∧
          (fn = .pf0 → w = if off < b then 0 else BitVec.ofNat 32 (fldN (s.ftEntry ((off - b) / 8)) (if off % 8 < 4 then 0 else 32) 32)) ∧
          (∀ q, fn = .vf q → w = 0) ∧
          (fn = .pf1 →
            let fs := ((s.fot.filter (fun e => decide (ftKind e.2 = 2) && ftAub e.2)).map (·.1)).take 4096
            (fs.length ≤ off / 65536 → w = 0) ∧
            ∀ f bs, fs[off / 65536]? = some f → s.physRead (physAddr f (off % 65536)) 4 = .ok bs → w = BitVec.ofNat 32 (ofBytes bs)))) ∧
    (∀ (p : Nat) (cut : W64),
      let s1 := (s.setPart p { s.part p with roll := some cut.toNat }).setRegF p 0x6091 2 1 1
      (∀ c, (s.part p).roll = some c → c ≠ cut.toNat → exec (.ckproll p cut) s = .next s) ∧
      ((s.part p).roll = none → (s.part p).ckpt = none → ∃ t, exec (.ckproll p cut) s = .next t ∧ t.blocks = s.blocks ∧
        t.launches = s.launches ∧ t.fot = s.fot ∧ (t.part p).roll = none ∧ t.regF p 0x6091 2 1 = 0) ∧
      (∀ c, (s.part p).roll = none → (s.part p).ckpt = some c → c.stream.isSome = true → exec (.ckproll p cut) s = .next s1 ∧
        (s1.part p).roll = some cut.toNat ∧ s1.regF p 0x6091 2 1 = 1) ∧
      (∀ c s2 m, (s.part p).roll = none → (s.part p).ckpt = some c → c.stream = none → readManifest s1 p cut.toNat c = (s2, .ok m) →
        ∃ t, exec (.ckproll p cut) s = .next t ∧ (t.part p).roll = none ∧ t.regF p 0x6091 2 1 = 0 ∧
          ∀ h b, AMap.get? t.blocks h = some b → b.part? = some p → ∃ k ∈ m.husks, k.1 = h) ∧
      (∀ c s2, (s.part p).roll = none → (s.part p).ckpt = some c → c.stream = none → readManifest s1 p cut.toNat c = (s2, .error .wait) →
        exec (.ckproll p cut) s = .next s2))

/-! ### Time, power and the calendar (R25, R42, R303–R317, R437–R441) -/

/-- R25, R303, R305–R308, R310–R316, R436, R438, R439: module reset, boot, and what each event of the always-on domain does once it falls
due. That a short flash ends with STATUS 1, and that the image is signed in the pure form with an empty context, are the model's choices
(log 51), and so are the moments of a follower's first lock, LOCKED, and what counts as traffic of a link (log 42). An image boots exactly
when it passes the checks named; those against the fused key and version compare with values of the module that are open. -/
def Obligations.TimeEvents : Prop :=
  ∀ s : State,
    exec .moduleReset s = .next { State.reset with
      host := { State.reset.host with flash := s.host.flash }, outbox := s.outbox, choices := s.choices, fresh := s.fresh, inbox := s.inbox } ∧
    (s.clock.booted = false → 384 ≤ s.gt → ∃ t, exec .boot s = .next t ∧ t.clock.booted = true ∧
      t.regF 0 0x5609 0 3 = bootCode s.host.flash ∧
      (s.host.flash.length < 64 → bootCode s.host.flash = 1) ∧
      (let n := 64 + fieldOf s.host.flash 8 4
       let key := (s.host.flash.drop 12).take 32
       bootCode s.host.flash = 0 ↔ 64 ≤ s.host.flash.length ∧ n + 7856 ≤ s.host.flash.length ∧
        (∀ i, i < 8 → BitVec.ofNat 32 (fieldOf (sha256 key) (4 * i) 4) = Config.bootValue (0x30000 + i)) ∧
        slhVerify key (s.host.flash.take n) ((s.host.flash.drop n).take 7856) = true ∧
        Config.bootValue 0x30010 ≤ BitVec.ofNat 32 (fieldOf s.host.flash 4 4)) ∧
      (bootCode s.host.flash ≠ 0 → t.blocks = s.blocks) ∧
      (bootCode s.host.flash = 0 → ∀ c, c < Config.cores → ∃ b, AMap.get? t.blocks (2 ^ 32 + c) = some b ∧ b.owner = .agent c ∧
        b.place = .core c ∧ b.gslots = [31] ∧ b.groups.map Group.slot0 = [{ live := true, pc := agentEntry, mask := 0xFFFFFFFF#32 }] ∧
        b.groups.map Group.auth = [1] ∧ b.groups.map Group.asid = [0x400])) ∧
    (s.clock.booted = true ∨ s.gt < 384 → exec .boot s = .next s) ∧
    (4096 * s.clock.nextFrame ≤ s.gt → ∃ t, exec .frameBoundary s = .next t ∧ t.clock.nextFrame = s.gt / 4096 + 1 ∧ t.paused = [] ∧
      t.clock.spent = []) ∧
    (∀ a, a ∉ s.paused → s.budget a ≤ s.clock.used a → exec (.budgetExhausted a) s = .next { s with paused := a :: s.paused }) ∧
    (8192 * s.clock.nextBoost ≤ s.gt → ∃ t, exec .boostIntervalBoundary s = .next t ∧
      t = { s with sys := t.sys, clusters := t.clusters, domains := t.domains, clock := t.clock } ∧
      t.clock = { s.clock with nextBoost := s.clock.nextBoost + 1 } ∧
      ∀ g, g < 4 → (AMap.getD s.domains g {}).fall = true → ∀ c ∈ s.domain g, t.step c ≤ s.step c) ∧
    (∀ amounts : List Nat, 256 * s.clock.nextEnergy ≤ s.gt → ∃ t, exec (.energyUpdate amounts) s = .next t ∧
      t.clock.nextEnergy = s.gt / 256 + 1 ∧ t.mem = s.mem ∧ t.blocks = s.blocks ∧
      ∀ g, g < 4 → (t.reg 0 (0x5040 + 2 * g)).toNat + 2 ^ 32 * t.regF 0 (0x5041 + 2 * g) 0 16 =
        ((s.reg 0 (0x5040 + 2 * g)).toNat + 2 ^ 32 * s.regF 0 (0x5041 + 2 * g) 0 16 +
          (((List.range Config.clusters).filter (fun c => decide (s.domainOf c = g))).map (fun c => amounts.getD c 0)).sum) % 2 ^ 48) ∧
    (∀ c, c < Config.clusters → s.frozen = false →
      ((s.cluster c).droop = false → ∃ t, exec (.droopStretch c) s = .next t ∧ t = { s with clusters := t.clusters } ∧
        (t.cluster c).droop = true ∧ t.ccount c = s.ccount c) ∧
      ((s.cluster c).droop = true → ∃ t, exec (.droopRecovery c) s = .next t ∧ t = { s with clusters := t.clusters } ∧
        (t.cluster c).droop = false ∧ t.ccount c = s.ccount c)) ∧
    (s.clock.phase = .open_ → 4096 * (s.clock.slotFrame + 1) ≤ s.gt + 256 →
      exec .approachWindowStart s = .next { s with clock := { s.clock with phase := .approach } }) ∧
    (s.clock.phase = .approach → 4096 * (s.clock.slotFrame + 1) ≤ s.gt → ∃ t, exec .slotOpen s = .next t ∧ t.clock.phase = .slot ∧
      t.clock.slotFrame = s.gt / 4096 ∧ t.clock.ext = 0 ∧ t.reg64 0 0x5010 = BitVec.ofNat 64 (4096 * (s.gt / 4096 + 1)) ∧
      t.clock.slotLen = (if s.gt / 4096 ≠ 0 ∧ s.gt / 4096 % 1024 = 0 then 1536 else 384)) ∧
    (∀ r : SlotReport, s.clock.phase = .slot → 4096 * s.clock.slotFrame + s.clock.slotLen + 64 * s.clock.ext ≤ s.gt →
      ∃ t, exec (.slotClose r) s = .next t ∧ t.clock = { s.clock with phase := .open_ } ∧
        (s.clock.slotFrame % 16 ≠ 0 → t = { s with clock := t.clock })) ∧
    (∀ (u : Nat) (m : Bool), (if m then 16 else 128) ≤ u → exec (.slotOverrun u m) s = .next s) ∧
    (∀ (u : Nat) (m : Bool), u < (if m then 16 else 128) → s.clock.phase = .slot → 4096 * s.clock.slotFrame + (s.clock.slotLen + 64 * s.clock.ext) ≤ s.gt →
      s.clock.slotLen + 64 * s.clock.ext + 64 ≤ 3584 →
      ∃ t, exec (.slotOverrun u m) s = .next t ∧ t.clock = { s.clock with ext := s.clock.ext + 1 }) ∧
    (∀ x : Int, (s.regF 0 0x5050 0 1 = 1 → exec (.gtSyncExchange x) s = .next s) ∧
      (s.regF 0 0x5050 0 1 = 0 → s.clock.everLocked = false → ∃ t, exec (.gtSyncExchange x) s = .next t ∧
        (s.linkTraffic = true → t = { s with sys := t.sys } ∧ t.sys.gt = s.sys.gt ∧ t.regF 0 0x5050 1 1 = b2n (decide (x.natAbs ≤ 8))) ∧
        (s.linkTraffic = false → t.clock.everLocked = true ∧
          t.sys.gt = (if x < 0 then s.sys.gt + x.natAbs else s.sys.gt) ∧ t.clock.hold = (if 0 < x then s.clock.hold + x.natAbs else s.clock.hold) ∧
          t.regF 0 0x5050 1 1 = b2n (decide (x ≤ 8)) ∧ t.clock.locking = decide (8 < x))) ∧
      (s.regF 0 0x5050 0 1 = 0 → s.clock.everLocked = true → ∃ t, exec (.gtSyncExchange x) s = .next t ∧
        t.regF 0 0x5050 1 1 = b2n (decide (x.natAbs ≤ 8)) ∧
        (-32768 ≤ x → x ≤ 32767 → (BitVec.ofNat 16 (t.regF 0 0x5050 16 16)).toInt = x) ∧
        (s.gt < s.clock.fixedAt + 1024 ∨ x = 0 → t.sys.gt = s.sys.gt ∧ t.clock = s.clock) ∧
        (s.clock.fixedAt + 1024 ≤ s.gt → x < 0 → t.sys.gt = s.sys.gt + 1 ∧ t.clock.fixedAt = t.sys.gt) ∧
        (s.clock.fixedAt + 1024 ≤ s.gt → 0 < x → t.sys.gt = s.sys.gt ∧ t.clock.hold = s.clock.hold + 1))) ∧
    (∀ chain, (s.frozen = true → exec (.scanReadout chain) s = .next { s with outbox := .scan chain s.frozenAt (s.scanOut chain) :: s.outbox }) ∧
      (s.frozen = false → exec (.scanReadout chain) s = .next s))

/-! ### Groups, blocks and launches (R54, R57, R66, R69–R73, R131, R132, R247, R336, R371, R373, R394, R396, R401, R407) -/

/-- R54, R57, R66, R69, R70, R72, R73, R131, R132, R336, R401: a wait whose condition holds ends, and a run whose results are in closes; a
block starts on the fitting core with the most free slots, in the state of R54, and a gang with a place for every block starts whole; a
launch that can never fit ends with CBK; a block that is done goes and counts; a complete step boundary releases its groups; a block
leaves its core for a missing page, and is placed again when it misses none. That a new block's handle is the next number is the model's
choice (log 27): R247 says only that handles are unique. -/
def Obligations.LaunchEvents : Prop :=
  ∀ s : State,
    (∀ (h gi : Nat) (b : Block) (core : Nat) (g : Group) (d : Bool), AMap.get? s.blocks h = some b → b.core? = some core →
      b.groups[gi]? = some g → g.stopped = false → g.held = [] → g.area = [] → g.forced = none → g.top = none → g.exited ≠ allLanes →
      (g.slot d).live = true →
      (g.ending = false → ∀ c, (g.slot d).wait = .retry c → condHolds s h gi core g c = true →
        ∃ t g', exec (.waitSatisfied h gi) s = .next t ∧ t.group? h gi = some g' ∧ g'.slot d = { g.slot d with wait := .none } ∧
          g'.base = g.base ∧ g'.live = g.live ∧ g'.counters = g.counters) ∧
      (g.ending = false → (g.slot d).wait = .passed →
        ∃ t g', exec (.waitSatisfied h gi) s = .next t ∧ t.group? h gi = some g' ∧
          g'.slot d = { g.slot d with wait := .none, pc := (g.slot d).pc + 8, cnt := 0 } ∧ g'.base = g.base) ∧
      (g.ending = true → b.missing = [] → g.remFail = [] → s.remotesOf h gi = [] →
        ∃ t g', exec (.waitSatisfied h gi) s = .next t ∧ t.group? h gi = some g' ∧ g'.inRun = false ∧ g'.ending = false ∧
          g'.base = { g.live with fm := [] } ∧ g'.live = g'.base)) ∧
    (∀ (h gi : Nat) (b : Block) (core : Nat) (g : Group), AMap.get? s.blocks h = some b → b.core? = some core → b.groups[gi]? = some g →
      let test (x : Slot) : Slot :=
        match x.wait with
        | .retry (.queue pa old) => if s.bytes pa old.length = old then x else { x with wait := .none }
        | _ => x
      ∃ t g', exec (.queueRetest h gi) s = .next t ∧ t.group? h gi = some g' ∧ g'.slot0 = test g.slot0 ∧ g'.slot1 = test g.slot1 ∧
        g'.base = g.base ∧ g'.counters = g.counters) ∧
    (∀ (h gi : Nat) (g : Group) (f : GateFrame) (fs : List GateFrame), s.group? h gi = some g → g.gates = f :: fs → g.forced = none → h ≠ noHandle →
      (∃ n, f.deadline = some n ∧ n ≤ s.gt) →
      (g.counters = {} → s.remotesOf h gi = [] → g.held = [] → f.top = none → (f.slot0.live = true → f.d = false → f.slot0.mask &&& ~~~ g.exited ≠ 0 →
        ∃ t g', exec (.gateDeadline h gi) s = .next t ∧ t.group? h gi = some g' ∧ g'.gates = fs ∧ g'.asid = f.asid ∧ g'.auth = f.auth ∧
          g'.counters = f.counters ∧ g'.slot0.pc = f.iaddr + 8 ∧ g'.slot0.wait = .none ∧
          g'.base.uni 0 = BitVec.ofNat 32 (2 ^ 31 + 256 * 3 + clsGTO) ∧
          (∀ r, 0 < r → g'.base.uni r = if r < f.args then 0 else f.regs.uni r))) ∧
      (g.counters ≠ {} → ∃ t g', exec (.gateDeadline h gi) s = .next t ∧ t.group? h gi = some g' ∧ g'.gates = g.gates ∧
        g'.forced = some (3, clsGTO) ∧ g'.slot0 = {} ∧ g'.slot1 = {})) ∧
    (∀ (lid : Nat) (l : Launch) (core : Nat), AMap.get? s.launches lid = some l → l.again = [] → l.next < l.total → l.gangsz = 0 →
      l.stepped = false → mayStart s l = true →
      let t0 := claimFirst s (some lid)
      let held := reservedBut t0 lid l.next none
      chooseCore t0 l l.need held = some core →
      (fitsWith t0 core l.need held = true ∧ core ∈ eligibleCores t0 l ∧
        ∀ c ∈ eligibleCores t0 l, fitsWith t0 c l.need held = true → freeSlots t0 held c ≤ freeSlots t0 held core) ∧
      ∃ t b, exec (.blockStart lid) s = .next t ∧ t.nextHandle = s.nextHandle + 1 ∧ AMap.get? t.blocks s.nextHandle = some b ∧
        (∀ k, k ≠ s.nextHandle → (AMap.get? t.blocks k).isSome = (AMap.get? s.blocks k).isSome) ∧
        (AMap.get? t.launches lid).map Launch.next = some (l.next + 1) ∧
        b.owner = .launch l.part ∧ b.launch = some lid ∧ b.lidx = l.next ∧ b.place = .core core ∧ b.regsN = l.regs ∧ b.accs = l.accs ∧
        b.scratchN = l.scratch ∧ b.groups.length = l.groups ∧
        ∀ g ∈ b.groups, g.slot0 = { live := true, pc := l.entry, mask := 0xFFFFFFFF#32 } ∧ g.slot1 = {} ∧ g.live = {} ∧ g.base = {} ∧
          g.exited = 0 ∧ g.asid = BitVec.ofNat 11 l.asid ∧ g.divLimit = l.divent ∧ g.counters = {}) ∧
    (∀ (lid : Nat) (l : Launch) (g : Gang), AMap.get? s.launches lid = some l → l.again = [] → l.stepped = false →
      let n := min l.gangsz (l.total - l.next)
      1 ≤ n → mayStart s l = true → cannotFit s l = false →
      (AMap.get? (reserveGang (claimFirst s (some lid)) lid).launches lid).bind Launch.gang = some g →
      (∀ i, i < n → (g.spots.find? (fun p => decide (p.index = l.next + i) && p.full l)).isSome = true) →
      ∃ t, exec (.gangStart lid) s = .next t ∧ t.nextHandle = s.nextHandle + n ∧
        (AMap.get? t.launches lid).map Launch.next = some (l.next + n) ∧
        ∀ i, i < n → ∃ b p, AMap.get? t.blocks (s.nextHandle + i) = some b ∧ p ∈ g.spots ∧ p.index = l.next + i ∧ p.full l = true ∧
          b.place = .core p.core ∧ b.launch = some lid ∧ b.lidx = l.next + i ∧ b.gang = (List.range n).map (fun j => l.next + j)) ∧
    (∀ (lid : Nat) (l : Launch), AMap.get? s.launches lid = some l →
      (∀ (g : Gang) (n : Nat), l.gang = some g → g.since = some n → n + 8 * 4096 ≤ s.gt →
        ∃ t, exec (.gangPriorityTimeout lid) s = .next t ∧ t = { s with launches := t.launches } ∧
          AMap.get? t.launches lid = some { l with gang := some { g with priority := true } } ∧
          ∀ k, k ≠ lid → AMap.get? t.launches k = AMap.get? s.launches k) ∧
      (l.ended = false → cannotFit s l = true →
        ∃ s' : State, exec (.gangCannotFit lid) s =
            .next (s'.record { cls := clsCBK, vaddr := l.recVa, kind := 5, part := l.part } (if l.part = none then .oper else .queue)).1 ∧
          s' = { s with launches := s'.launches } ∧
          AMap.get? s'.launches lid = some { l with ended := true, again := [], onPage := [], gang := none })) ∧
    (∀ (h : Nat) (b : Block), AMap.get? s.blocks h = some b → blockDone s h b = true →
      (∀ p lid l, b.owner = .launch p → b.launch = some lid → b.redo = .no → AMap.get? s.launches lid = some l → l.cmd ≠ none →
        ∃ t, exec (.blockComplete h) s = .next t ∧ AMap.get? t.blocks h = none ∧
          (∀ k, k ≠ h → (AMap.get? t.blocks k).isSome = (AMap.get? s.blocks k).isSome) ∧
          (AMap.get? t.launches lid).map Launch.done = some (l.done + 1)) ∧
      (∀ k, b.owner = .task k → ∃ t, exec (.blockComplete h) s = .next t ∧ AMap.get? t.blocks h = none ∧
        t.reg 0 (0x7A00 + k) = s.reg 0 (0x7A00 + k) + 1)) ∧
    (∀ (lid : Nat) (l : Launch), AMap.get? s.launches lid = some l → s.allArrived lid l = true → inTurn s l.part = true →
      (∀ p, l.part = some p → (s.part p).ckpt = none) → l.mindie ≤ (dieRule s l).length →
      movesFor s lid l (dieRule s l) (s.blocksOf lid) [] = ([], true) →
      ∃ t, exec (.stepBoundaryComplete lid) s = .next t ∧
        (∃ l', AMap.get? t.launches lid = some l' ∧ l'.stepno = l.stepno + 1 ∧ l'.dies = dieRule s l ∧ l'.next = l.next) ∧
        ∀ h b, AMap.get? s.blocks h = some b → b.launch = some lid → AMap.get? t.blocks h =
          some { b with groups := b.groups.map (Group.release (fun w => decide (w = .step (l.stepno + 1)))) }) ∧
    (∀ (h : Nat) (b : Block) (p : Option Nat), AMap.get? s.blocks h = some b → b.owner = .launch p →
      (∀ core, b.core? = some core → b.missing ≠ [] → s.sealable h = true →
        (∀ k c, AMap.get? s.blocks k = some c → k ≠ h → ∀ r ∈ c.conts, r.handle ≠ h) →
        (∀ gi g, b.groups[gi]? = some g → groupStopped s h gi g = true ∧ (g.area = [] → g.areaDepth = 0)) →
        ∃ t b', exec (.blockSwitchOut h) s = .next t ∧ AMap.get? t.blocks h = some b' ∧ b'.place = .out ∧ b'.gslots = [] ∧ b'.phys = [] ∧
          b'.missing = b.missing ∧
          b'.groups.map (fun g => { g with active := false }) = b.groups.map (fun g => { g with active := false }) ∧
          ∀ r ∈ (t.cluster (core / 4)).reqs, r.handle ≠ h) ∧
      (∀ lid l core, b.launch = some lid → AMap.get? s.launches lid = some l → inTurn s l.part = true → b.missing = [] → b.halted = false →
        b.stopping = false →
        (b.place = .out ∨ ∃ k q, b.place = .husk k ∧ p = some q ∧ b.gang = [] ∧ (s.part q).awaiting.head? = some h) →
        chooseCore (claimFirst s none) l b.need (reservedBut (claimFirst s none) lid l.total none) = some core → (∀ g ∈ b.groups, g.held = [] ∧ g.area = []) →
        ∃ t b', exec (.blockPageIn h) s = .next t ∧ AMap.get? t.blocks h = some b' ∧ b'.place = .core core ∧
          b'.groups.length = b.groups.length ∧ (∀ k ∈ t.husks, k.handle = h → k.placeable = false) ∧
          ∀ q x, AMap.get? t.parts q = some x → h ∉ x.awaiting))

/-- R371, R373, R374, R407, R409: a word that names no instruction raises ENC, or RUN where its run is too long and S is 0; a failed fetch
raises its class with VADDR the word's address, KIND 4, or 6 for a table frame; a fetch that meets a missing page stops the group, and the
page is counted. -/
def Obligations.WordsThatCannotIssue : Prop :=
  ∀ (s : State) (v0 v : View), issuing s = some v0 → viewOf (startRun s v0) v0.handle v0.gi = some v →
    v.g.pend.find? (fun f => decide (v.g.level ≤ f.level)) = none →
    (∀ w : W64, RaisesAt (.wordNamingNoInstruction w) s v0 v (if 31 ≤ v.sl.cnt ∧ bit w 63 = false then clsRUN else clsENC)) ∧
    (∀ f : FetchFailure, f.cls ≠ clsMSP →
      exec (.instructionFetchFailure f) s = .next (faultAt (startRun s v0) (startRun s v0) v
        { cls := f.cls, lanes := v.mask, vaddr := v.pc, kind := if f.table then 6 else 4, frame := f.frame, tier := f.tier, unit := f.unit,
          ukind := if f.cls = clsECC then 7 else 0, kill := f.kill })) ∧
    (∀ f : FetchFailure, f.cls = clsMSP → ∃ t b g, exec (.instructionFetchFailure f) s = .next t ∧ AMap.get? t.blocks v.handle = some b ∧
      b.groups[v.gi]? = some g ∧ g.stopped = true ∧ g.live = v.g.live ∧ g.slot v.d = v.sl ∧ .frame f.frame ∈ b.missing)

/-! ### Engines and rings (R76, R105, R141, R276, R284, R288, R289, R295–R301, R340, R430–R433, R435) -/

/-- R105, R141, R276, R284, R288, R289: a pass applies the chosen request's next k-block to the elements of its quarter's rows, an element
the tree mask forbids becomes negative infinity, and the request advances; an operation that is done retires and its counter falls by
one; a copy of one range makes the destination's bytes the source's, all of which are taken before any is written (the model's choice
where the ranges overlap, assumption log 32). -/
def Obligations.EngineEvents : Prop :=
  ∀ s : State,
    (∀ (cl : Nat) (r : MReq) (b : Block) (s1 : State) (bs : List EByte),
      let es := eligibleReqs s [] (s.cluster cl).reqs
      chosenReq s es = some r → (s.cluster cl).placing = [] → r.q < 4 → AMap.get? s.blocks r.handle = some b →
      readB s cl r = (s1, .ok bs none) → fused s1 r es = [r] →
      let raw := bs.map (fun x => x.getD 0)
      let col (c : Nat) : List FV := r.colB ((raw.drop (32 * c)).take 32) ((raw.drop (1024 + r.ns * c)).take r.ns)
      let tree := ((b.groups[r.gi]?).map Group.tree).getD []
      ∃ t b', exec (.matrixPass cl) s = .next t ∧ AMap.get? t.blocks r.handle = some b' ∧ b' = { b with tiles := b'.tiles } ∧
        (∀ i c, i < 8 → c < 32 → bit r.rows i = true →
          let row := 8 * r.q + i
          let x : BitVec 48 := BitVec.ofNat 48 (F48.round 0 (FV.add 0 (F48.decode (b.elem r.tile row c).toNat) (dotF48 (r.rowA i) (col c))) 0)
          b'.elem r.tile row c =
            match r.tree with
            | some (qo, ko) => if allowed tree (qo + row) (ko + c) = true then x else negInf48
            | none => x) ∧
        (∀ tl row c, row < 32 → c < 32 → ¬(tl = r.tile ∧ row / 8 = r.q ∧ bit r.rows (row % 8) = true) → b'.elem tl row c = b.elem tl row c) ∧
        (t.cluster cl).reqs = (s.cluster cl).reqs.filterMap (fun x =>
          if x = r then (if x.next + 1 < x.n then some { x with next := x.next + 1 } else none) else some x)) ∧
    (∀ (id : Nat) (o : EngOp) (h gi : Nat) (g : Group), AMap.get? s.ops id = some o → engFirst s id o = true → s.engBusy id = false →
      s.noWaits → o.owner = .group h gi g.gates.length → s.group? h gi = some g → o.fail = none →
      let retires (t : State) : Prop := AMap.get? t.ops id = none ∧ (∀ k, k ≠ id → AMap.get? t.ops k = AMap.get? s.ops k) ∧
        ∃ g', t.group? h gi = some g' ∧ g'.counters = g.counters.set o.cls (g.counters.get o.cls - 1)
      (o.done = true ∨ o.kind = .mat ∧ matDone s id = true → ∃ t, exec (.engineOpComplete id) s = .next t ∧ retires t) ∧
      (∀ (pa pb n : Nat) (va : W64) (s1 : State), o.kind = .copy → o.done = false → o.sent = false → o.cancelled = false →
        engMay s id o = true → 0 < n →
        judgeMoves o (copyMoves o.block) (match o.activity with | some a => s.act a | none => s) = (s1, [([.dev pa n], [.dev pb n], va)]) →
        (∀ i, i < n → s1.eccUnit (pa + i) 1 false = none ∧ s1.eccUnit (pb + i) 1 true = none) →
        ∃ t, exec (.engineOpComplete id) s = .next t ∧ retires t ∧
          ∀ a, t.byte a = if pb ≤ a ∧ a < pb + n then s1.byte (pa + (a - pb)) else s1.byte a))

/-- R76, R295–R301, R340, R431–R433, R435: a fetched packet's commands are made under the next numbers and FETCH advances, INDEX at once when
there are none; a bad packet puts the ring in ERROR; tickets are posted, claimed (CLAIMED counts up), started once their SEQ is there, and
posted anew; a command's parts start; a pair is written and the command retires; WAIT retires once its value is reached; CHECKPOINT arms;
QCONFIG sets a ring up. The model's choices: when a ticket is posted, claimed and started (assumption log 22), the domain of a BUNDLE's
signal and which agent claims (assumption log 62). -/
def Obligations.RingEvents : Prop :=
  ∀ s : State,
    let gone (t : State) (id : Nat) : Prop := ∀ c, AMap.get? t.cmds id = some c → c.retired = true
    (∀ (r : Nat) (s1 : State), mayFetch s r = true →
      let k := (s.ring r).fetch
      (∀ cs : List Cmd, (s.ring r).packets = [] → readPacket r 5 s (packetAddr s r k) = (s1, .ok cs) → (∀ c ∈ cs, c.retired = false) →
        ∀ i ∈ [Instr.packetFetch r] ++ (if headType s r = some 0 then [.nopPacket r] else []) ++
            (if headType s r = some 8 then [.indirect r] else []),
          ∃ t, exec i s = .next t ∧ (t.ring r).fetch = (k + 1) % 2 ^ 31 ∧ t.nextCmd = s.nextCmd + cs.length ∧
            (∀ j c, cs[j]? = some c → AMap.get? t.cmds (s.nextCmd + j) = some { c with index := k }) ∧
            (cs = [] → t.ringIndex r = (k + 1) % 2 ^ 31 ∧ (t.ring r).packets = []) ∧
            (cs ≠ [] → t.ringIndex r = s.ringIndex r)) ∧
      (∀ c f tier u va, readPacket r 5 s (packetAddr s r k) = (s1, .error (.fail c f tier u va)) →
        ∃ t, exec (.packetFetch r) s = .next t ∧ t.ringState r = 1 ∧ t.cmds = s.cmds)) ∧
    (∀ (id : Nat) (c : Cmd), AMap.get? s.cmds id = some c → c.ticket = none → c.retired = false → mayCommandStart s id c = true →
      ticketRoom s = true →
      ∃ t, exec (.ticketPost id) s = .next t ∧ t.nextTicket = s.nextTicket + 1 ∧
        AMap.get? t.tickets s.nextTicket = some { cmd := id, posted := s.gt, fill := s.fresh } ∧
        AMap.get? t.cmds id = some { c with ticket := some s.nextTicket }) ∧
    (∀ k : Nat,
      ((∀ a, (a, k) ∉ s.claims) →
        (s.idleAgents = [] → exec (.commandStart k) s = .next s) ∧
        (∀ sa q, s.idleAgents ≠ [] → vread s 0x400 (s.reg64 0 0x5700 + 8) 8 = (sa, .ok q) →
          (ofBytes q ≠ k → exec (.commandStart k) s = .next sa) ∧
          (ofBytes q = k → ∃ t a n s1, exec (.commandStart k) s = .next t ∧ sa.choose s.idleAgents.length = (s1, n) ∧
            s.idleAgents[n]? = some a ∧
            t = { (vwrite s1 0x400 (s.reg64 0 0x5700 + 8) (toBytes (k + 1) 8)).1 with claims := (a, k) :: s.claims }))) ∧
      (∀ a, s.claims.find? (fun x => decide (x.2 = k)) = some (a, k) →
        (s.agentRuns a = false → exec (.commandStart k) s = .next s) ∧
        (∀ sa q, s.agentRuns a = true →
          vread s 0x400 (s.reg64 0 0x5700 + BitVec.ofNat 64 (64 + 32 * (k % 2044))) 8 = (sa, .ok q) →
          (ofBytes q ≠ k + 1 → exec (.commandStart k) s = .next sa) ∧
          (ofBytes q = k + 1 → ∀ x c, AMap.get? s.tickets k = some x → AMap.get? s.cmds x.cmd = some c →
            let rest := s.claims.filter (fun y => decide (y ≠ (a, k)))
            (x.started = true ∨ x.reposted = true → exec (.commandStart k) s = .next { sa with claims := rest }) ∧
            (x.started = false → x.reposted = false → ∃ t, exec (.commandStart k) s = .next t ∧
              t = { sa with claims := rest, tickets := t.tickets, cmds := t.cmds } ∧
              AMap.get? t.tickets k = some { x with started := true } ∧ AMap.get? t.cmds x.cmd = some { c with started := true }))))) ∧
    (∀ (k : Nat) (x : Ticket) (c : Cmd), AMap.get? s.tickets k = some x → AMap.get? s.cmds x.cmd = some c → x.started = false →
      x.reposted = false → (x.posted + 262144 ≤ s.gt → ticketRoom s = true → k < s.nextTicket →
        ∃ t, exec (.ticketRepost k) s = .next t ∧ AMap.get? t.tickets k = some { x with reposted := true } ∧
          (∃ n, AMap.get? t.tickets s.nextTicket = some { cmd := x.cmd, posted := s.gt, fill := n } ∧ (c.ticket = some k → n = x.fill)) ∧
          AMap.get? t.cmds x.cmd = some { c with ticket := some s.nextTicket })) ∧
    (∀ (id : Nat) (c : Cmd) (i : Instr) (n : Nat), (i, n) ∈ [(Instr.launch id, 1), (.bundle id, 2), (.copy id, 3)] → readyCmd s id n = some c →
      ∃ t, exec i s = .next t ∧ t = { s with cmds := t.cmds, launches := t.launches, nextLaunch := t.nextLaunch, ops := t.ops, nextOp := t.nextOp } ∧
        AMap.get? t.cmds id = some { c with begun := true } ∧
        (∀ j x, c.subs[j]? = some x → x.kind ≠ 3 →
          ∃ l, AMap.get? t.launches (s.nextLaunch + ((c.subs.take j).filter (fun y => decide (y.kind ≠ 3))).length) = some l ∧
            l.cmd = some id ∧ l.part = ringPart c.ring ∧ l.entry = fieldA x.record 0 ∧ l.gx = fieldOf x.record 32 2 ∧
            l.gy = fieldOf x.record 34 2 ∧ l.gz = fieldOf x.record 36 2 ∧ l.stages = fieldOf x.record 38 1 ∧ l.groups = fieldOf x.record 39 1 ∧
            l.regs = fieldOf x.record 40 1 ∧ l.accs = fieldOf x.record 41 1 ∧ l.next = 0 ∧ l.done = 0) ∧
        (∀ j x, c.subs[j]? = some x → x.kind = 3 →
          ∃ o, AMap.get? t.ops (s.nextOp + ((c.subs.take j).filter (fun y => decide (y.kind = 3))).length) = some o ∧
            o.kind = .copy ∧ o.owner = .cmd id ∧ o.block = x.block.take 64 ∧ o.part = ringPart c.ring ∧ o.done = false)) ∧
    (∀ (id : Nat) (c : Cmd) (i : Instr), AMap.get? s.cmds id = some c → c.signalled = false →
      (i = .signal id ∧ readyCmd s id 4 = some c ∧ earlier s id c = [] ∨ i = .commandRetire id ∧ cmdComplete s id c = true) →
      let va := (cmdSig c).2.1
      (va = 0 → ∃ t, exec i s = .next t ∧ t.mem = s.mem ∧ gone t id) ∧
      (∀ s1, va ≠ 0 → vpost s (cmdSig c).1 (.sig c.ring id) va (cmdSig c).2.2 = (s1, none) →
        ((∀ q ∈ s1.remotes, q.2.hw ≠ some (.sig c.ring id)) → ∃ t, exec i s = .next t ∧ t.mem = s1.mem ∧ gone t id) ∧
        ((∃ q ∈ s1.remotes, q.2.hw = some (.sig c.ring id)) → ∃ t, exec i s = .next t ∧ t = { s1 with cmds := t.cmds } ∧
          AMap.get? t.cmds id = some { c with signalled := true })) ∧
      (∀ s1 cls f u, va ≠ 0 → vpost s (cmdSig c).1 (.sig c.ring id) va (cmdSig c).2.2 = (s1, some (cls, f, u)) →
        (cls ≠ clsMSP → ∃ t, exec i s = .next t ∧ gone t id) ∧
        (cls = clsMSP → c.page ≠ some (.frame f) → ∃ t, exec i s = .next t ∧ AMap.get? t.cmds id = some { c with page := some (.frame f) }))) ∧
    (∀ (id : Nat) (c : Cmd) (i : Instr) (s1 : State) (bs : List Byte), AMap.get? s.cmds id = some c → (fieldA c.block 0).toNat % 8 = 0 →
      (i = .wait id ∧ readyCmd s id 5 = some c ∧ (s.ring c.ring).stuck = none ∨
        i = .waitReread id ∧ c.begun = true ∧ c.retired = false ∧ c.type = 5 ∧ (s.ring c.ring).missing = []) →
      let w := waitReader c.ring
      let begins : Bool := !s.remotes.any (fun x => decide (x.2.hw = some (.fetch w))) && !s.fetched.any (fun x => decide (x.1 = w))
      let s0 : State := if begins then { s with cmds := AMap.modify s.cmds id (fun c => { c with reread := false }) } else s
      fetchVia w (ringAsid c.ring) 2 s0 (fieldA c.block 0) 8 = (s1, .ok bs) →
      (fieldOf c.block 8 8 ≤ ofBytes bs → ∃ t, exec i s = .next t ∧ gone t id) ∧
      (ofBytes bs < fieldOf c.block 8 8 → ∃ t, exec i s = .next t ∧
        AMap.get? t.cmds id = some { c with begun := true, polled := s.gt, reread := !begins && c.reread })) ∧
    (∀ (id : Nat) (c : Cmd) (p : Nat), readyCmd s id 6 = some c → ringPart c.ring = some p →
      ∃ t k, exec (.checkpoint id) s = .next t ∧ gone t id ∧ (t.part p).ckpt = some k ∧ k.dest = fieldA c.block 0 ∧ k.root = fieldA c.block 8 ∧
        k.asid = 16 * p + fieldOf c.block 20 1 ∧ k.period = fieldOf c.block 16 4 ∧
        k.nextDue = some (s.gt + 4096 * fieldOf c.block 16 4) ∧ k.due = ((s.part p).ckpt.map Ckpt.due).getD false ∧
        k.stream = (s.part p).ckpt.bind Ckpt.stream) ∧
    (∀ (id : Nat) (c : Cmd), readyCmd s id 7 = some c →
      let q := (match ringPart c.ring with | some p => 16 * p | none => 1024) + fieldOf c.block 0 1
      s.ringIn q = true → s.ringEn q = false → fieldOf c.block 0 1 < 16 → 4 ≤ fieldOf c.block 1 1 → fieldOf c.block 1 1 ≤ 16 →
      fieldOf c.block 2 1 ≤ 1 →
      ∃ t, exec (.qconfig id) s = .next t ∧ gone t id ∧ t.ringLogn q = fieldOf c.block 1 1 ∧ t.ringEn q = decide (fieldOf c.block 2 1 = 1) ∧
        t.ringReg q 0 = lo32 (fieldA c.block 8) &&& 0xFFFFF000#32 ∧ t.ringReg q 1 = hi32 (fieldA c.block 8) &&& 0x00FFFFFF#32)

/-! ### The host, peers, collectives and errors (R126–R128, R322–R328, R359, R367, R368, R420–R425, R443–R446, R454, R455, R462–R464) -/

/-- R126–R128, R322, R323, R359, R422–R425, R438, R454, R455, R462–R464: answers and timeouts of accesses, what peers ask of this module
(what waits at a port goes on in its turn), translations, invalidations and page requests, Function Level Reset, the host link, and MSI-X messages, masks and pending bits (the layout of the
MSI-X table is the model's, log 57). -/
def Obligations.HostEvents : Prop :=
  ∀ s : State,
    (∀ (id : Nat) (r : Remote), AMap.get? s.remotes id = some r → r.xlat = false → r.lost = false → r.hw = none → r.eng = none →
      let lanes : W32 := if r.uniform then r.mask else 1#32 <<< r.lane
      let fails (i : Instr) (cls : Nat) : Prop := ∀ g, s.group? r.handle r.gi = some g →
        ∃ t g' f, exec i s = .next t ∧ AMap.get? t.remotes id = none ∧ t.group? r.handle r.gi = some g' ∧ f ∈ g'.remFail ∧ f.cls = cls ∧
          f.iaddr = r.iaddr ∧ f.lanes &&& lanes = lanes ∧ g'.base = g.base ∧ g'.live = g.live
      (r.due < s.gt → fails (.remoteTimeout id) clsRTO) ∧ fails (.remoteResponse id .failed) clsREM ∧
      (∀ bs : List Byte, bs.length = (if r.kind = .store then 0 else r.w) → (r.fill ≠ none → r.handle ≠ noHandle ∧ r.stale = false) → ∃ t, exec (.remoteResponse id (.done bs)) s = .next t ∧
        AMap.get? t.remotes id = none ∧ t.mem = s.mem ∧
        (r.fill = none → r.dst = none → t.blocks = s.blocks) ∧
        (∀ core, r.fill = some core → ∃ l ∈ (t.core core).cbc, l.asid = r.asid.toNat ∧ l.line = r.va.toNat / 64 ∧ l.bytes = bs) ∧
        (∀ d g, r.fill = none → r.dst = some d → s.group? r.handle r.gi = some g →
          t.group? r.handle r.gi = some (g.putResult r.uniform d r.lane r.tag r.iaddr bs)))) ∧
    (∀ (x : Inbound) (s1 : State) (pa : Nat) (w e c f so : Bool),
      let ours : Bool := decide (x.part < Config.partitions)
      let sf := s.fabTake (if ours then some x.part else none) x.port x.data.length
      (∀ y, s.inbound.find? (fun y => decide (y.1.port = x.port)) = some y →
        (y.1 ≠ x → exec (.inboundPeerAccess x) s = .next { sf with inbound := s.inbound ++ [(x, none)] }) ∧
        (y.1 = x → y.2 ≠ none ∨ s.clock.phase ≠ .open_ → exec (.inboundPeerAccess x) s = .next s) ∧
        (y = (x, none) → s.clock.phase = .open_ → ours = true → x.dom < 16 →
          judge s none (16 * x.part + x.dom) (inboundAcc x) x.va x.bytes = (s1, .mem pa w e c true so) →
          ftKind (s1.ftEntry (pa / 65536)) = 1 → x.kind = .load → s1.eccUnit pa x.bytes false = none →
          ∃ t, exec (.inboundPeerAccess x) s = .next t ∧ t.outbox = .answer x.port x.tag (s1.bytes pa x.bytes) :: s1.outbox ∧
            t.mem = s1.mem ∧ t.inbound = s1.inbound.erase (x, none))) ∧
      ((∀ y ∈ s.inbound, y.1.port ≠ x.port) → s.clock.phase ≠ .open_ →
        exec (.inboundPeerAccess x) s = .next { sf with inbound := s.inbound ++ [(x, none)] }) ∧
      ((∀ y ∈ s.inbound, y.1.port ≠ x.port) → s.clock.phase = .open_ →
        (ours = false ∨ 16 ≤ x.dom → ∃ t, exec (.inboundPeerAccess x) s = .next t ∧ t.outbox.head? = some (.refused x.port x.tag) ∧
          t.blocks = s.blocks) ∧
        (ours = true → x.dom < 16 →
          (∀ k tb va, judge sf none (16 * x.part + x.dom) (inboundAcc x) x.va x.bytes = (s1, .missing k tb va) →
            (tb = true ∨ inboundLeaf s1 x = true →
              exec (.inboundPeerAccess x) s = .next { s1 with inbound := s1.inbound ++ [(x, some (.frame k))] }) ∧
            (tb = false → inboundLeaf s1 x = false →
              ∃ t, exec (.inboundPeerAccess x) s = .next t ∧ t.outbox.head? = some (.refused x.port x.tag))) ∧
          (judge sf none (16 * x.part + x.dom) (inboundAcc x) x.va x.bytes = (s1, .mem pa w e c f so) →
            (f = false ∨ ftKind (s1.ftEntry (pa / 65536)) ≠ 1 →
              ∃ t, exec (.inboundPeerAccess x) s = .next t ∧ t.outbox.head? = some (.refused x.port x.tag)) ∧
            (f = true → ftKind (s1.ftEntry (pa / 65536)) = 1 →
              (x.kind = .load → s1.eccUnit pa x.bytes false = none → ∃ t, exec (.inboundPeerAccess x) s = .next t ∧
                t.outbox = .answer x.port x.tag (s1.bytes pa x.bytes) :: s1.outbox ∧ t.mem = s1.mem) ∧
              (x.kind = .store → x.data.length = x.bytes → s1.eccUnit pa x.bytes true = none → ∃ t, exec (.inboundPeerAccess x) s = .next t ∧
                t.outbox = .answer x.port x.tag [] :: s1.outbox ∧
                ∀ a, t.byte a = if pa ≤ a ∧ a < pa + x.bytes then x.data.getD (a - pa) 0 else s1.byte a)))))) ∧
    (∀ (id : Nat) (q : AtsReq), AMap.get? s.host.ats id = some q → q.stale = false →
      (∀ g : AtsGrant, ∃ t, exec (.atsResponse id (some g)) s = .next t ∧
        { pasid := q.pasid, page := q.page, phys := g.phys, write := g.write } ∈ t.host.atc ∧
        (∀ k x, s.awaiting q.pasid q.page = [(k, x)] → x.kind = .load ∨ g.write = true →
          AMap.get? t.remotes k = some { x with xlat := false, due := s.gt + s.remoteTicks x.asid.toNat })) ∧
      (∀ (k : Nat) (x : Remote) (b : Block) (g : Group), s.awaiting q.pasid q.page = [(k, x)] → k < s.fresh → x.denied = false → x.hw = none → x.eng = none →
        x.fill = none →
        q.pasid ∉ s.host.priBarred → (q.pasid, q.page) ∉ s.host.pri → AMap.get? s.blocks x.handle = some b → b.groups[x.gi]? = some g →
        ∃ t b' g', exec (.atsResponse id none) s = .next t ∧ t.host.pri = s.host.pri ++ [(q.pasid, q.page)] ∧
          t.outbox.head? = some (.pageRequest q.pasid q.page (decide (x.kind ≠ .load))) ∧ AMap.get? t.remotes k = none ∧
          AMap.get? t.blocks x.handle = some b' ∧ .host q.pasid q.page ∈ b'.missing ∧ b'.groups[x.gi]? = some g' ∧
          g'.held = insertHeld g.held x.hold)) ∧
    (∀ pasid page : Nat,
      (∃ t v, exec (.atsInvalidation pasid page) s = .next t ∧ t = { s with host := t.host } ∧
        (∀ e, e ∈ t.host.atc ↔ e ∈ s.host.atc ∧ ¬(e.pasid = pasid ∧ e.page = page)) ∧
        (∀ k q, AMap.get? s.host.ats k = some q → AMap.get? t.host.ats k =
          some (if q.pasid = pasid ∧ q.page = page then { q with stale := true } else q)) ∧
        t.host.inv = s.host.inv ++ [v] ∧ v.pasid = pasid ∧ v.page = page ∧
        ∀ k, k ∈ v.uses ↔ ∃ x, (k, x) ∈ s.remotes ∧ x.host = true ∧ x.xlat = false ∧ x.pasid = pasid ∧ x.page = page) ∧
      ((∃ v ∈ s.host.inv, v.pasid = pasid ∧ v.page = page ∧ v.uses = []) →
        ∃ t, exec (.invalidationCompletion pasid page) s = .next t ∧ t = { s with host := t.host, outbox := .invalidated pasid page :: s.outbox } ∧
          t.host.inv.length + 1 = s.host.inv.length) ∧
      ((∀ v ∈ s.host.inv, v.pasid = pasid → v.page = page → v.uses ≠ []) → exec (.invalidationCompletion pasid page) s = .next s) ∧
      (∀ code, (pasid, page) ∉ s.host.pri → exec (.pageRequestResponse pasid page code) s = .next s) ∧
      ((pasid, page) ∈ s.host.pri → ∀ code, ∃ t, exec (.pageRequestResponse pasid page code) s = .next t ∧ (pasid, page) ∉ t.host.pri ∧
        (∀ h b, AMap.get? t.blocks h = some b → .host pasid page ∉ b.missing) ∧
        (code ≠ .success → ∀ h b g a, AMap.get? t.blocks h = some b → g ∈ b.groups → a ∈ g.held → a.page = some (.host pasid page) →
          a.rem = true) ∧
        (code = .responseFailure → pasid ∈ t.host.priBarred))) ∧
    (let fresh (t : State) (r : Nat) : Prop :=
        t.ringEn r = false ∧ t.ringTail r = 0 ∧ t.ringIndex r = 0 ∧ t.ringState r = 0 ∧ t.ring r = ({} : Ring);
      (∀ n, 1 ≤ n → n ≤ Config.partitions → ∃ t, exec (.functionLevelReset (.vf n)) s = .next t ∧ t.mem = s.mem ∧ t.blocks = s.blocks ∧
        t.launches = s.launches ∧ AMap.get? t.host.msix (n + 1) = none ∧ ∀ q, q < 16 → fresh t (16 * (n - 1) + q)) ∧
      (∃ t, exec (.functionLevelReset .pf0) s = .next t ∧ t.mem = s.mem ∧ t.blocks = s.blocks ∧ t.launches = s.launches ∧
        (∀ q, q < 16 → fresh t (1024 + q)) ∧ ∀ r, r < 1024 → fresh t r) ∧
      (∃ t, exec (.functionLevelReset .pf1) s = .next t ∧ t = { s with host := t.host } ∧ AMap.get? t.host.msix 1 = none) ∧
      (∃ t, exec (.pcieLinkUp true) s = .next t ∧ t.host.linkUp = true ∧ (∀ r, r < 1040 → fresh t r) ∧
        ∀ k, k < Config.partitions + 2 → AMap.get? t.host.msix k = none)) ∧
    exec (.pcieLinkUp false) s = .next { s with host := { s.host with linkUp := true } } ∧
    (∃ t, exec .pcieLinkDown s = .next t ∧ t.host.linkUp = false ∧ t.host.atc = [] ∧ t.host.ats = [] ∧ t.host.pri = [] ∧ t.host.inv = [] ∧
      ∀ x ∈ t.remotes, x.2.host = false) ∧
    (∀ fn : Fn, Fn.present fn = true →
      let k := Fn.num fn
      let m := s.msixOf k
      let send (i : Instr) (m' : Msix) (out : List Sent) : Prop :=
        ∃ t, exec i s = .next t ∧ t = { s with host := t.host, outbox := out ++ s.outbox } ∧ t.msixOf k = m' ∧
          ∀ j, j ≠ k → t.msixOf j = s.msixOf j
      (m.pending = false ∨ m.masked = true ∨ m.fnMasked = true → exec (.msixMessageSend fn) s = .next s) ∧
      (m.pending = true → m.masked = false → m.fnMasked = false →
        send (.msixMessageSend fn) { m with pending := false } (if s.host.linkUp then [.msix k m.addr m.data] else [])) ∧
      ∀ (num : BitVec 16) (part : Nat) (x : W32),
        send (.registerWrite fn .msixMask part x) { m with fnMasked := bit x 0 } [] ∧
        send (.registerWrite fn (.word (.bar2 12)) part x) { m with masked := bit x 0 } [] ∧
        send (.registerWrite fn (.word (.bar2 8)) part x) { m with data := x } [] ∧
        (∀ off, 16 ≤ off → send (.registerWrite fn (.word (.bar2 off)) part x) m []) ∧
        exec (.barMirrorRead fn num part (some (.bar2 0x1000))) s =
          .next { s with outbox := .value (if m.pending && !Fn.blind s fn then 1 else 0) :: s.outbox })

/-- R292, R324–R328, R367, R368, R420, R421, R443–R446: records, chunks, marks, completion and stalls of collectives; a lost link; a lost or
trained CXL port; an uncorrectable error of each shared structure. The model's choices: what comes early, and which jobs a lost link
restarts (assumption log 37), which transfers and units an error strikes (assumption log 40), and a job that is over here (assumption log 60). -/
def Obligations.CollectivesAndErrors : Prop :=
  ∀ s : State,
    (let ended (t : State) (job op : Nat) : Prop := AMap.get? t.jobs job = none ∧ (AMap.get? t.ops op).map EngOp.done = some true;
      let completes (t : State) (job op : Nat) (j : Job) : Prop :=
        AMap.get? t.jobs job = some { j with finished := true } ∧ (AMap.get? t.ops op).map EngOp.done = some true;
      (∀ (job : Nat) (r : JobRecord),
        let j : Job := { jobFor (AMap.getD s.jobs job {}) r with since := s.gt }
        let recs := j.records.filter (fun x => decide (x.rank ≠ r.rank)) ++ [r]
        (s.clock.phase ≠ .open_ →
          exec (.collRecordReceive job r) s = .next { s with inbox := s.inbox ++ [(s.gt + 1, .collRecordReceive job r)] }) ∧
        (r ∈ j.seen → s.clock.phase = .open_ → ∃ t, exec (.collRecordReceive job r) s = .next t ∧ t.outbox = s.outbox ∧
          AMap.get? t.jobs job = some j) ∧
        (r ∉ j.seen → s.clock.phase = .open_ → j.op = none → ∃ t, exec (.collRecordReceive job r) s = .next t ∧
          t = { s with jobs := t.jobs, sys := t.sys, fresh := t.fresh, choices := t.choices } ∧
          AMap.get? t.jobs job = some (
            if r.round < j.round then { j with seen := r :: j.seen }
            else if j.started ∨ j.round < r.round then
              { j with
                seen := r :: j.seen, records := [r], trees := [], ports := [], bufs := [], early := [], sent := [], passed := []
                started := false, round := max r.round (if j.started then j.round + 1 else 0) }
            else { j with records := recs, seen := r :: j.seen })) ∧
        (∀ op o, r ∉ j.seen → s.clock.phase = .open_ → j.op = some op → AMap.get? s.ops op = some o → j.started = false → r.round = j.round →
          j.early = [] → (∀ x ∈ recs, sharedFields x = sharedFields (ownRecord s o [])) → jobNmem o.block ≤ recs.length →
          let trees := buildTrees (jobNmem o.block) 64 (edgesOf (memberMod o.block) (jobNmem o.block) recs)
          let j' := { j with
            records := recs, seen := r :: j.seen, started := true
            trees := trees.map (fun x => x.map (fun e => (e.u, e.v))), ports := portsOf (jobRank o.block) trees }
          ∃ t, exec (.collRecordReceive job r) s = .next t ∧ t.outbox = .record job r :: s.outbox ∧
            (trees ≠ [] → j'.complete o.block = false → AMap.get? t.jobs job = some j') ∧
            (trees ≠ [] → j'.complete o.block = true → completes t job op j') ∧ (trees = [] → ended t job op)) ∧
        (∀ op o x, r ∉ j.seen → s.clock.phase = .open_ → j.op = some op → AMap.get? s.ops op = some o → j.started = false → r.round = j.round →
          o.fail = none → x ∈ recs → sharedFields x ≠ sharedFields (ownRecord s o []) →
          ∃ t, exec (.collRecordReceive job r) s = .next t ∧ ended t job op ∧
            ((AMap.get? t.ops op).bind EngOp.fail).map OpFailure.cls = some clsCBK)) ∧
      (∀ (job g id : Nat) (contrib : List (Nat × List W32)) (j : Job) (o : EngOp), AMap.get? s.jobs job = some j → j.op = some id →
        AMap.get? s.ops id = some o →
        let bs := o.block
        let dst := dstChunk bs (jobRank bs) g
        (jobAll bs ≤ g → (∀ d, dst = some d → d ∉ j.writing) → exec (.collChunkMark job g contrib) s = .next s) ∧
        (∀ d, dst = some d → d ∈ j.writing → s.engBusy id = true ∨ engMay s id o = false →
          exec (.collChunkMark job g contrib) s = .next s) ∧
        (∀ d s1 pm, dst = some d → d ∈ j.writing → s.engBusy id = false → engMay s id o = true → o.fail = none →
          setMark (s.act .collective) id o d = (s1, .dev pm 8) →
          let j' := { j with marks := d :: j.marks, writing := j.writing.filter (fun y => decide (y ≠ d)), since := s.gt }
          ∃ t, exec (.collChunkMark job g contrib) s = .next t ∧ t.mem = s1.mem ∧
            (j'.complete bs = false → AMap.get? t.jobs job = some j') ∧ (j'.complete bs = true → completes t job id j')) ∧
        (∀ d x s2 pa pm n, dst = some d → d ∉ j.writing → d ∉ j.marks → g < jobAll bs → j.started = true →
          let b := bufferChunk s o j g contrib
          let s0 : State := { b.1 with jobs := AMap.put b.1.jobs job b.2 }
          let s1 := s0.act .collective
          engMay s0 id o = true → b.2.needsOwn bs g = false → (g ∈ b.2.sent ∨ b.2.outward bs g = none) → b.2.value bs g = some x →
          let sp := if g ∈ b.2.passed then { s1 with jobs := AMap.put s1.jobs job b.2 }
            else sendChunk { s1 with jobs := AMap.put s1.jobs job b.2 } job o b.2 g (b.2.onward bs g) x
          let j0 : Job := if g ∈ b.2.passed then b.2 else { b.2 with passed := g :: b.2.passed }
          judgeSide { sp with jobs := AMap.put sp.jobs job j0 } o .blockStore (false, chunkAddr bs 16 (d / jobCb bs) (d % jobCb bs))
            (4 * x.length) = (s2, [.dev pa n]) →
          let s3 := writePieces id o [.dev pa n] ((x.flatMap (fun w => toBytes w.toNat 4)).map some) s2
          let j1 := { j0.dropBufs g with writing := d :: j0.writing }
          let s4 : State := { s3 with jobs := AMap.put s3.jobs job j1 }
          s4.engBusy id = false → (setMark s4 id o d).2 = .dev pm 8 →
          let j2 := { j1 with marks := d :: j1.marks, writing := j1.writing.filter (fun y => decide (y ≠ d)), since := s2.gt }
          ∃ t, exec (.collChunkMark job g contrib) s = .next t ∧ t.mem = (setMark s4 id o d).1.mem ∧
            (j2.complete bs = false → AMap.get? t.jobs job = some j2) ∧ (j2.complete bs = true → completes t job id j2)))) ∧
    (∀ (job : Nat) (j : Job), AMap.get? s.jobs job = some j →
      (j.finished = true ∨ s.gt < j.since + 1024 * 4096 → exec (.collStallTimeout job) s = .next s) ∧
      (j.finished = false → j.since + 1024 * 4096 ≤ s.gt → ∃ t, exec (.collStallTimeout job) s = .next t ∧
        t = { s with jobs := t.jobs, ops := t.ops } ∧ AMap.get? t.jobs job = none ∧
        ∀ op o, j.op = some op → AMap.get? s.ops op = some o → o.fail = none →
          ∃ o', AMap.get? t.ops op = some o' ∧ o'.done = true ∧ o'.fail.map OpFailure.cls = some clsLNK)) ∧
    (∀ p : Nat,
      (s.linkState p ≠ 2 → exec (.linkRetryFail p) s = .next s) ∧
      (p < 128 → s.linkState p = 2 → ∃ t, exec (.linkRetryFail p) s = .next t ∧ t.linkState p = 0 ∧
        (s.regF 0 0x5050 0 1 = 0 → (∀ q ∈ s.livePorts, q = p) → t.regF 0 0x5050 1 1 = 0) ∧
        ∀ job j, AMap.get? s.jobs job = some j → j.uses p = true → ∃ j', AMap.get? t.jobs job = some j' ∧ j'.started = false ∧
          j'.records = [] ∧ j'.bufs = [] ∧ j'.early = [] ∧ j'.marks = j.marks ∧ j'.writing = j.writing) ∧
      (p < 8 → s.regF 0 (0x50B0 + p) 0 2 = 1 ∨ s.regF 0 (0x50B0 + p) 0 2 = 2 →
        ∃ t, exec (.cxlPortLoss p) s = .next t ∧ t.regF 0 (0x50B0 + p) 0 2 = 0) ∧
      (p < 8 → s.regF 0 (0x50B0 + p) 0 2 = 1 →
        (p ∉ s.cxlGone → ∃ t, exec (.cxlTrainingComplete p (some (Config.bootValue (0x20000 + p)).toNat)) s = .next t ∧
          t = { s with sys := t.sys } ∧ t.regF 0 (0x50B0 + p) 0 2 = 2) ∧
        ∀ n, n ≠ some (Config.bootValue (0x20000 + p)).toNat ∨ p ∈ s.cxlGone → ∃ t, exec (.cxlTrainingComplete p n) s = .next t ∧
          t.regF 0 (0x50B0 + p) 0 2 = 0 ∧ p ∈ t.cxlGone)) ∧
    (∀ (unit : Nat) (x : BlastSet),
      (∃ t, exec (.blastError 1 unit x) s = .next t ∧ (t.core unit).tlb = []) ∧
      (∃ t, exec (.blastError 2 unit x) s = .next t ∧ (t.core unit).cbc = []) ∧
      (∃ t, exec (.blastError 3 unit x) s = .next t ∧ ∀ y ∈ x.groups, inCrossbar s y = true →
        (∀ q ∈ t.remotes, ¬(q.2.handle = y.1 ∧ q.2.gi = y.2.1) ∧ (q.2.handle = noHandle → inBlast x q.2 = true → q.2.lost = true)) ∧
        ∀ b p, AMap.get? s.blocks y.1 = some b → b.owner = .launch p → ∀ g, t.group? y.1 y.2.1 = some g → g.exited = allLanes) ∧
      (∀ k, k = 4 ∨ k = 5 ∨ k = 6 → ∃ t, exec (.blastError k unit x) s = .next t ∧
        ∀ id o, (id, o) ∈ queueOps s k unit → ∀ o', (id, o') ∈ t.ops → o'.cancelled = true) ∧
      (∃ t, exec (.blastError 7 unit x) s = .next t ∧ t = { s with badLines := t.badLines, sys := t.sys } ∧
        (∀ l, l ∈ t.badLines ↔ l = unit ∨ l ∈ s.badLines) ∧
        ∀ p, locPort (s.locOf (unit / 512)) = some p → t.regF 0 (0x50B0 + p) 2 1 = 1) ∧
      (∃ t, exec (.blastError 8 unit x) s = .next t ∧ t = { s with l2Bad := t.l2Bad } ∧ ∀ l, l ∈ t.l2Bad ↔ l = unit ∨ l ∈ s.l2Bad) ∧
      (∃ t, exec (.blastError 9 unit x) s = .next t ∧ unit % 2048 ∈ (t.core (unit / 2048)).spBad))

/-! ### Turns, checkpoints and rollback (R331–R334, R340–R344, R399, R447, R448, R450, R451) -/

/-- R331, R332, R334, R337, R340–R344, R399, R447, R448, R450, R451: a free rotation is granted to the member with work; a turn that is over
ends; a spent quantum ends the turn, or is added to when no other member has work; a drain of 65,536 ticks becomes forced sealing; a
checkpoint falls due, is cut, copied and committed; a cut that would write into the image ROOT names aborts (which of DEST and `ckpalt` an
image goes to is the model's choice, assumption log 26). -/
def Obligations.TurnAndCheckpointEvents : Prop :=
  ∀ (s : State) (p r : Nat),
    ((s.rot r).holder = none → (s.rot r).resume = none → (s.rot r).members.filter s.hasWork = [p] → 0 < s.quantum p →
      ∃ t, exec (.turnGrant r) s = .next t ∧ (t.rot r).holder = some p ∧ t.turnState p = 1) ∧
    ((s.rot r).holder = some p → 2 ≤ s.turnState p → s.residentOf p = [] → ∀ s0 : State,
      (readQueues s p = (s0, false) → exec (.turnGrant r) s = .next s0) ∧
      (readQueues s p = (s0, true) →
        ∃ s1 : State, (s1.rot r).holder = none ∧ s1.turnState p = 0 ∧ (∀ q ∈ ringsOf p, s.ringState q = 0 → s1.ringState q = 2) ∧
          exec (.turnGrant r) s = .next (grantNext s1 r (some p)))) ∧
    ((s.rot r).holder = some p → s.turnState p = 1 →
      let drains : Prop := ∃ t, exec (.turnQuantumExpiry r) s = .next t ∧ t.turnState p = 2 ∧ (t.rot r).drainAt = some s.gt ∧
        (t.rot r).holder = some p
      (s.hasWork p = false → drains) ∧
      (s.hasWork p = true → 0 < s.deficit p → exec (.turnQuantumExpiry r) s = .next s) ∧
      (s.hasWork p = true → s.deficit p ≤ 0 → s.rotPending r = false →
        ((∃ m ∈ (s.rot r).members, m ≠ p ∧ s.hasWork m = true) → drains) ∧
        ((∀ m ∈ (s.rot r).members, m ≠ p → s.hasWork m = false) → ∃ t, exec (.turnQuantumExpiry r) s = .next t ∧
          t = { s with sys := t.sys } ∧ t.deficit p = s.deficit p + s.quantum p))) ∧
    (s.rotHeld p = some r →
      (∀ n, s.turnState p = 2 → (s.rot r).drainAt = some n → n + 65536 ≤ s.gt → drainStep s p = s → s.residentOf p ≠ [] →
        ∃ t, exec (.turnForcedSealing p) s = .next t ∧ t.turnState p = 3 ∧ (t.rot r).forcedAt = some s.gt) ∧
      (∀ n h b rest, (s.rot r).forcedAt = some n → n + 65536 ≤ s.gt → (s.rot r).overdue = false → s.residentOf p = (h, b) :: rest →
        ∃ s1 : State, s1 = (s.record { cls := clsPRE, part := some p, handle := h } .queue).1 ∧
          exec (.forcedSealingOverdue p) s = .next (s1.setRot r { s.rot r with overdue := true }))) ∧
    (∀ c, (s.part p).ckpt = some c →
      (∀ n, c.nextDue = some n → n ≤ s.gt →
        let bySteps : Prop := c.armed = true ∧ s.regF p 0x6090 0 16 ≠ 0 ∧ s.regF p 0x6090 0 16 ≤ c.steps
        ∃ t k, exec (.checkpointDue p) s = .next t ∧
        (t.part p).ckpt = some { c with
          due := true, steps := k, armed := decide (c.period ≠ 0)
          nextDue := if c.period = 0 then none else some (n + 4096 * c.period * ((s.gt - n) / (4096 * c.period) + 1)) } ∧
        (bySteps → k = 0) ∧ (¬bySteps → k = c.steps) ∧
        (c.stream = none → t.regF p 0x6091 0 2 = 1)) ∧
      (c.due = true → c.stream = none → s.holds p = true →
        (c.cutting = false → cutMoment s p = true → ∃ t, exec (.checkpointCut p) s = .next t ∧ t = { s with parts := t.parts } ∧
          (t.part p).ckpt = some { c with cutting := true }) ∧
        (∀ s0, c.cutting = true → cutQuiet s p = true →
          let read := readEntries s (cutReader p) c (fun hd => decide (fieldOf hd 0 4 = 1))
          (read = (s0, .error .wait) → exec (.checkpointCut p) s = .next s0) ∧
          (∀ cur : Option Entries, (∃ e, read = (s0, .ok e) ∧ cur = some e) ∨ (∃ x, read = (s0, .error x) ∧ x ≠ .wait ∧ cur = none) →
            let s1 := s0.fetchDone (cutReader p)
            let hs := cutHusks s1 p s1.gt
            let marks (base : W64) : List Nat := markedFrames s1 p c base (hs.map Husk.total)
            let into (base : W64) : Bool := intoCurrent cur base (imageLen (marks base).length (hs.map Husk.total))
            let bases := imageBases s1 p c
            ((∀ b ∈ bases, into b = true) → exec (.checkpointCut p) s = .next (abortCkpt s1 p c.dest c.dest)) ∧
            (∀ i base s2 w, bases[i]? = some base → into base = false → (∀ b ∈ bases.take i, into b = true) →
              writeHusks p c.asid s1.gt hs s1 base (65536 * (marks base).length) = (s2, .ok w) →
              let stream : Stream :=
                { cut := s1.gt, root := c.root, asid := c.asid, base, frames := marks base, copied := [], husks := w }
              ∃ t, exec (.checkpointCut p) s = .next t ∧ t.regF p 0x6091 0 2 = 2 ∧ t.mem = s2.mem ∧ t.cow = s2.cow ++ marks base ∧
                t.husks = hs ++ s2.husks ∧
                (t.part p).ckpt = some { c with due := false, cutting := false, stream := some stream })))) ∧
      (∀ m, c.stream = some m →
        let at_ := m.base + BitVec.ofNat 64 (manifestOff m)
        let commits (t : State) : Prop := t.reg64 p 0x6092 = BitVec.ofNat 64 m.cut ∧ t.regF p 0x6091 0 2 = b2n c.due ∧
          (t.part p).ckpt = some { c with stream := none, alt := decide (m.base = c.dest) }
        (∀ f bs s1, f ∈ m.frames → (∀ x ∈ m.copied, x.1 ≠ f) → (∀ k, s.pageWaited k = false) → s.mayStream f = true →
          s.physRead (physAddr f 0) 65536 = .ok bs →
          writeLong (.image p m.cut) m.asid 2 (s.act (streamEngine f))
            (m.base + BitVec.ofNat 64 (65536 * (m.frames.takeWhile (fun x => decide (x ≠ f))).length)) bs = (s1, none) →
          ∃ t, exec (.checkpointFrameCopy p f) s = .next t ∧ t.mem = s1.mem ∧ f ∉ t.cow ∧
            (t.part p).ckpt = some { c with stream := some { m with copied := m.copied ++ [(f, sha256 bs)] } }) ∧
        (∀ f, s.mayStream f = false → exec (.checkpointFrameCopy p f) s = .next s) ∧
        (m.copied.length < m.frames.length ∨ s.imageOut p m.cut = true → exec (.checkpointCommit p) s = .next s) ∧
        (m.frames.length ≤ m.copied.length → s.imageOut p m.cut = false →
          (∀ s1, m.manifest = false → m.rooted = false → s.mayStream m.frames.length = true →
            writeLong (.image p m.cut) m.asid longFuel s at_ (manifestBytes p (s.reg p 0x6010) m) = (s1, none) →
            ∃ t, exec (.checkpointCommit p) s = .next t ∧ t.mem = s1.mem ∧
              (t.part p).ckpt = some { c with stream := some { m with manifest := true } }) ∧
          (∀ s1, m.manifest = true → m.rooted = false → writeLong (.image p m.cut) m.asid longFuel s m.root (toBytes at_.toNat 8) = (s1, none) →
            ∃ t, exec (.checkpointCommit p) s = .next t ∧ t.mem = s1.mem ∧
              (s1.imageOut p m.cut = false → commits t) ∧
              (s1.imageOut p m.cut = true → (t.part p).ckpt = some { c with stream := some { m with rooted := true } })) ∧
          (m.rooted = true → ∃ t, exec (.checkpointCommit p) s = .next t ∧ t.mem = s.mem ∧ commits t))))

/-! ### The whole machine -/

/-- What the spec gives at module reset: GT 0 (R25); the reset slot, whose registers describe it until GT 384 (R89, R312); every generation 0
(R43); every frame free, and every byte as an unlisted one (its value is the model's choice, assumption log 5); no block, launch, command
or operation; the named register words of R88–R90, R308–R310, R331 and R429 at their reset values; the reset state of groups' and
blocks' registers (R54, R86, R87), and memory and the tables in canonical form. -/
def Obligations.ResetState : Prop :=
  let s := State.reset
  s.gt = 0 ∧ s.frozen = false ∧ s.clock.booted = false ∧ s.cursor = none ∧
  s.blocks = [] ∧ s.launches = [] ∧ s.cmds = [] ∧ s.tickets = [] ∧ s.ops = [] ∧ s.jobs = [] ∧ s.husks = [] ∧ s.remotes = [] ∧
  s.canonical ∧ (∀ pa, s.byte pa = memDefault pa) ∧ (∀ f, s.ftEntry f = 0) ∧
  (∀ c, (s.core c).tlb = [] ∧ s.ccount c = 0 ∧ s.reg c 0x3010 = 0) ∧
  s.reg64 0 0x5010 = 0 ∧ s.reg 0 0x5012 = 384 ∧ s.reg 0 0x5013 = 0xF#32 ∧ s.clock.phase = .slot ∧ s.clock.slotLen = 384 ∧
  (∀ c, c < 192 → fldN (s.reg 0 (0x5020 + c / 16)) (2 * (c % 16)) 2 = c / 48) ∧
  (∀ g, g < 4 → s.reg 0 (0x5030 + g) = 0x00FF4040#32 ∧ s.reg 0 (0x5040 + 2 * g) = 0 ∧ s.reg 0 (0x5041 + 2 * g) = 0) ∧
  (∀ p, p < 128 → s.reg 0 (0x5200 + 2 * p) = 0 ∧ s.reg 0 (0x5201 + 2 * p) = 0) ∧
  (∀ p, s.reg p 0x6010 = 0 ∧ s.reg p 0x6030 = 1 ∧ s.reg p 0x6002 = 0x000A0000#32 ∧ s.reg p 0x6052 = 0 ∧ s.reg p 0x6034 = 0 ∧
    s.reg p 0x6035 = 0 ∧ s.reg p 0x6036 = 0 ∧
    ∀ q, q < 16 → s.reg p (0x6100 + 8 * q) = 0 ∧ s.reg p (0x6102 + 8 * q) = 4) ∧
  (∀ r i, r < 16 → i < 6 → s.reg 0 (0x5B00 + 8 * r + i) = 0) ∧
  (∀ r, (s.rot r).cl = [] ∧ (s.rot r).members = [] ∧ (s.rot r).holder = none) ∧
  (∀ c, s.clusterPart c = none) ∧
  (let g : Group := {}
   g.level = 0 ∧ g.gates = [] ∧ g.counters = {} ∧ g.rngseed = 0 ∧ g.rngctr = 0 ∧ g.prog = 0 ∧ g.tvt = 0 ∧
   (∀ r l, g.base.vec r l = { bits := 0, tag := tagI32 }) ∧ (∀ k l, g.base.pred k l = decide (k = 7)) ∧
   (∀ r, g.base.uni r = 0) ∧ (∀ k, g.base.upred k = decide (k = 7)))

/-- Words written out from the spec's own examples of its encodings decode to the instructions they stand for (R173–R183). -/
def Obligations.DecodeWords : Prop :=
  decode 0x003E090A02004000#64 = .ok (.iadd { s := false, u := false, g := 7, n := false } { dst := 9, sa := 10, sb := 2, sc := 0, mod := 0x4000 }) ∧
  decode 0xA03E040506000000#64 = .ok (.iadd { s := true, u := true, g := 7, n := false } { dst := 4, sa := 5, sb := 6, sc := 0, mod := 0 }) ∧
  decode 0x0405050607000000#64 = .ok (.fadd { s := false, u := false, g := 2, n := true } { dst := 5, sa := 6, sb := 7, sc := 0, mod := 0 }) ∧
  decode 0x002E03003F800000#64 = .ok (.movi { s := false, u := false, g := 7, n := false } { dst := 3, sa := 0, imm := 0x3F800000 }) ∧
  decode 0x8C0E03FFFFF80001#64 = .ok (.bra { s := true, u := false, g := 7, n := false } { cond := 3, tgt := 0xFFFFF8, rcv := 1 }) ∧
  decode 0xB80E080050000000#64 = .ok (.srd { s := true, u := true, g := 7, n := false } { dst := 8, sa := 0, reg := 0x5000, mod := 0 }) ∧
  decode 0xC070081000E06070#64 = .ok (.pairWord true { hop := 0, g := 7, n := false, dst := 1, src := 2, m4 := 0 }
    { hop := 0, g := 7, n := false, dst := 6, src := 7, m4 := 0 }) ∧
  (∃ e, decode 0x029E000000000000#64 = .error e) ∧
  (∀ w : W64, (∃ i, decode w = .ok i) ↔ ∃ i, decodeTableWord 64 w.toNat = some i)

/-- A step with a group about to issue runs `exec` of what the word at the group's PC decodes to, on the state the fetch leaves with the word
noted as the run's, and nothing else but that the word is no longer about to issue: of the event that R373 names where it decodes to
nothing, or that R407 names where the fetch fails. A word on a page of the host or a peer is waited for (R126, R322), fails as its line
did, and at once with REM while the host link is down (R455). The model's choices: a begun run goes on with the word it has fetched, and
every other word is fetched anew from memory (R188 allows more; assumption log 8); a `seal` or `pmpt` first stops the long words of the
contexts it seals partway (assumption log 20, deduced from R382 and R400). -/
def Obligations.StepRunsDecoded : Prop :=
  ∀ (s : State) (h gi : Nat) (v : View) (t : State), s.cursor = some (h, gi) → viewOf s h gi = some v →
    let noted (u : State) (w : Option W64) : State := u.modGroup h gi (fun g => { g with word := w.map (fun x => (v.pc, x)) })
    let settled (i : Instr) (u : State) : Host.Outcome State Fault Refusal :=
      match exec i u with
      | .next x => .next { x with cursor := none, clock := { x.clock with worked := true } }
      | r => r
    let runs (w : W64) (u : State) : Prop :=
      (∀ i, decode w = .ok i → (∀ h o, i ≠ .seal h o ∧ i ≠ .pmpt h o) → step s = settled i (noted u (some w))) ∧
      (∀ i h o, decode w = .ok i → i = .seal h o ∨ i = .pmpt h o →
        step s = settled i (beforeSealing (runEvent (noted u (some w)) i) (noted u (some w)))) ∧
      (∀ e, decode w = .error e → step s = settled (.wordNamingNoInstruction w) (noted u (some w)))
    let a := v.g.asid.toNat
    let s0 := beforeFetch s v
    let fetch := fetchWord s0 v.core a v.pc
    (∀ w, v.g.inRun = true → v.g.word = some (v.pc, w) → runs w s0) ∧
    ((∀ w, v.g.inRun = true → v.g.word ≠ some (v.pc, w)) →
      (∀ w, fetch = (t, .word w) → runs w t) ∧
      (∀ f, fetch = (t, .fail f) → step s = settled (.instructionFetchFailure f) (noted t none)) ∧
      (∀ tr bs, fetch = (t, .away tr) → t.kept (wordReader v.handle v.gi) a v.pc = some bs → bs.length = 64 →
        runs (BitVec.ofNat 64 (ofBytes ((bs.drop (v.pc.toNat % 64)).take 8))) (t.fetchDone (wordReader v.handle v.gi))) ∧
      (∀ tr c, fetch = (t, .away tr) → t.kept (wordReader v.handle v.gi) a v.pc = some [c] →
        step s = settled (.instructionFetchFailure (fetchFail c.toNat tr.leafFrame tr.leafTier))
          (noted (t.fetchDone (wordReader v.handle v.gi)) none)) ∧
      (∀ tr, fetch = (t, .away tr) → t.kept (wordReader v.handle v.gi) a v.pc = none → tr.leafTier = 2 → t.host.linkUp = false →
        step s = settled (.instructionFetchFailure (fetchFail clsREM tr.leafFrame 2)) (noted t none)) ∧
      (∀ tr, fetch = (t, .away tr) → t.kept (wordReader v.handle v.gi) a v.pc = none → (tr.leafTier = 2 → t.host.linkUp = true) →
        ∃ u, step s = .next u ∧ u.cursor = none ∧ u.mem = t.mem)) ∧
    (∀ pa wr x c e so bs, judge s0 (some v.core) a .fetch v.pc 8 = (t, .mem pa wr x c e so) →
      t.physRead pa 8 = .ok bs → fetch = (t, .word (BitVec.ofNat 64 (ofBytes bs))))

/-- Decoding and encoding agree (R173–R183): every well-formed instruction with a word decodes from it, every word that decodes is the word of
what it decodes to, and that instruction is well formed. -/
def Obligations.DecodeEncode : Prop :=
  (∀ (i : Instr) (w : W64), WellFormed i = true → encode i = some w → decode w = .ok i) ∧
  (∀ (i : Instr) (w : W64), decode w = .ok i → encode i = some w ∧ WellFormed i = true)

/-- Every step keeps memory, the frame ownership table and the frames' locations in canonical form, so that equal ones are equal data. -/
def Obligations.StepKeepsCanonical : Prop :=
  ∀ s t : State, s.canonical → step s = .next t → t.canonical

/-- The machine never stops: from every state a step gives a next state, whatever the word at the PC and whatever is due. -/
def Obligations.StepNeverStops : Prop := ∀ s : State, Goes s
end

