-- ==== Sys2Proof/Laws/Aes.lean ====
section
/-! SUPPORT. The lengths of derived keys, ciphertexts and tags, and that the machine opens the husk it sealed (R43, R46). -/

namespace Sys2Proof.Machine

@[simp] theorem toBytes_length (y n : Nat) : (toBytes y n).length = n := by
  induction n generalizing y with
  | zero => rfl
  | succ n ih => simp [toBytes, ih]

@[simp] theorem toBytesBE_length (y n : Nat) : (toBytesBE y n).length = n := by simp [toBytesBE]

theorem shaRound_length (v : List W32) (h : v.length = 8) (kw : W32 × W32) : (shaRound v kw).length = 8 := by
  match v, h with
  | [_, _, _, _, _, _, _, _], _ => rfl

theorem shaRounds_length (ks : List (W32 × W32)) : ∀ v : List W32, v.length = 8 → (ks.foldl shaRound v).length = 8 := by
  induction ks with
  | nil => exact fun _ h => h
  | cons k ks ih => exact fun v h => ih _ (shaRound_length v h k)

theorem shaBlocks_length (n : Nat) : ∀ (h : List W32) (bs : List Byte), h.length = 8 → (shaBlocks n h bs).length = 8 := by
  induction n with
  | zero => exact fun _ _ h => h
  | succ n ih =>
    intro h bs e
    refine ih _ _ ?_
    simp [shaBlock, e, shaRounds_length _ h e]

theorem sha256_length (m : List Byte) : (sha256 m).length = 32 := by
  simp [sha256, List.length_flatMap, shaBlocks_length _ shaInit _ rfl]

theorem sealKey_length (s : State) (k : Husk) : (s.sealKey k).length = 32 := by
  simp only [State.sealKey]
  split <;> exact sha256_length _

theorem xorBytes_length (a b : List Byte) : (xorBytes a b).length = min a.length b.length := by simp [xorBytes]

theorem aesExtend_words (n : Nat) : ∀ (i : Nat) (rcon : Byte) (ws : List (List Byte)), 8 ≤ ws.length → (∀ w ∈ ws, w.length = 4) →
    (aesExtend n i rcon ws).length = ws.length + n ∧ ∀ w ∈ aesExtend n i rcon ws, w.length = 4 := by
  induction n with
  | zero => exact fun _ _ _ _ h => ⟨rfl, h⟩
  | succ n ih =>
    intro i rcon ws h8 hw
    have get (j : Nat) (hj : j < 8) : (ws.getD j []).length = 4 := by
      rw [List.getD_eq_getElem?_getD, List.getElem?_eq_getElem (by omega)]
      exact hw _ (List.getElem_mem _)
    have := ih (i + 1) (if i % 8 = 0 then aesDouble rcon else rcon) (xorBytes (ws.getD 7 [])
      (if i % 8 = 0 then xorBytes (((ws.getD 0 []).drop 1 ++ (ws.getD 0 []).take 1).map aesSub) [rcon, 0, 0, 0]
        else if i % 8 = 4 then (ws.getD 0 []).map aesSub else ws.getD 0 []) :: ws) (by simp; omega) (by
        intro w hm
        rcases List.mem_cons.mp hm with rfl | hm
        · have h0 := get 0 (by omega)
          rw [xorBytes_length, get 7 (by omega)]
          generalize ws.getD 0 [] = x at h0 ⊢
          split
          · simp [xorBytes_length]; omega
          · split <;> simp [h0]
        · exact hw w hm)
    refine ⟨?_, this.2⟩
    have e := this.1
    simp only [List.length_cons] at e
    simp only [aesExtend]
    omega

theorem aesKeys_get {key : List Byte} (hk : key.length = 32) {r : Nat} (hr : r < 15) : ((aesKeys key).getD r []).length = 16 := by
  have hw := aesExtend_words 52 8 1 ((List.range 8).map (fun i => (key.drop (4 * i)).take 4)).reverse (by simp) (by
    intro w hm
    obtain ⟨i, hi, rfl⟩ := List.mem_map.mp (List.mem_reverse.mp hm)
    have := List.mem_range.mp hi
    simp [hk]; omega)
  simp only [List.length_reverse, List.length_map, List.length_range] at hw
  simp only [aesKeys, List.getD_eq_getElem?_getD, List.getElem?_map, List.getElem?_range hr, Option.map_some, Option.getD_some]
  generalize aesExtend 52 8 1 _ = ws at hw ⊢
  obtain ⟨hl, hw⟩ := hw
  have h4 : ∀ x ∈ (List.take 4 (List.drop (4 * r) ws.reverse)).map List.length, x = 4 := by
    intro x hx
    obtain ⟨w, hm, rfl⟩ := List.mem_map.mp hx
    exact hw w (List.mem_reverse.mp (List.mem_of_mem_drop (List.mem_of_mem_take hm)))
  rw [List.length_flatten, List.sum_eq_card_nsmul _ _ h4]
  simp [hl]
  omega

theorem aesBlock_length {key : List Byte} (hk : key.length = 32) (b : List Byte) : (aesBlock (aesKeys key) b).length = 16 := by
  have h := aesKeys_get hk (r := 14) (by omega)
  simp only [aesBlock, xorBytes_length, h]
  simp [aesShift]

theorem gcmTag_length {key : List Byte} (hk : key.length = 32) (iv aad c : List Byte) : (gcmTag key iv aad c).length = 16 := by
  simp [gcmTag, xorBytes_length, aesBlock_length hk]

theorem gcmCount_length {key : List Byte} (hk : key.length = 32) (iv : List Byte) (n : Nat) :
    ∀ (c : Nat) (bs : List Byte), (gcmCount (aesKeys key) iv n c bs).length = min (16 * n) bs.length := by
  induction n with
  | zero => simp [gcmCount]
  | succ n ih =>
    intro c bs
    simp [gcmCount, xorBytes_length, aesBlock_length hk, ih]
    omega

theorem gcmCipher_length {key : List Byte} (hk : key.length = 32) (iv plain : List Byte) :
    (gcmCipher key iv plain).length = plain.length := by
  simp only [gcmCipher, gcmCount_length hk, cdiv]
  omega

theorem husk_header_length (k : Husk) : k.header.length = 48 := by simp [Husk.header]

theorem huskBytes_length (s : State) (k : Husk) : (s.huskBytes k).length = k.total := by
  simp [State.huskBytes, Husk.total, husk_header_length, gcmTag_length (sealKey_length s k), gcmCipher_length (sealKey_length s k)]
  omega

/-- A husk's bytes begin with its header. -/
theorem huskBytes_header (s : State) (k : Husk) : k.header ++ (s.huskBytes k).drop 48 = s.huskBytes k := by
  conv_rhs => rw [← List.take_append_drop 48 (s.huskBytes k)]
  rw [State.huskBytes, List.append_assoc, List.take_left' (husk_header_length k)]

/-- The bytes that the machine seals a husk into pass as that husk (R46). -/
theorem huskOpens_huskBytes (s : State) (k : Husk) : s.huskOpens k (s.huskBytes k) = true := by
  have h48 := husk_header_length k
  have ht := gcmTag_length (sealKey_length s k) k.iv k.header
  simp only [State.huskOpens, State.huskBytes, Bool.and_eq_true, decide_eq_true_eq, List.append_assoc]
  refine ⟨List.take_left' h48, ?_⟩
  rw [List.drop_left' h48, List.take_left' (ht _), ← List.append_assoc, List.drop_left' (by simp [h48, ht])]

end Sys2Proof.Machine
end

