-- ==== Sys2Proof/Laws/Exec.lean ====
section
/-! SUPPORT. Every arm of `exec` is its instruction's meaning. -/

namespace Sys2Proof.Machine

theorem exec_nop (h : Head) (o : F3) (σ : State) : exec (.nop h o) σ = execNop h o σ := rfl
theorem exec_mov (h : Head) (o : F3) (σ : State) : exec (.mov h o) σ = execMov h o σ := rfl
theorem exec_movi (h : Head) (o : FI) (σ : State) : exec (.movi h o) σ = execMovi h o σ := rfl
theorem exec_iadd (h : Head) (o : F3) (σ : State) : exec (.iadd h o) σ = execIadd h o σ := rfl
theorem exec_iaddi (h : Head) (o : FI) (σ : State) : exec (.iaddi h o) σ = execIaddi h o σ := rfl
theorem exec_isub (h : Head) (o : F3) (σ : State) : exec (.isub h o) σ = execIsub h o σ := rfl
theorem exec_imul (h : Head) (o : F3) (σ : State) : exec (.imul h o) σ = execImul h o σ := rfl
theorem exec_imulhi (h : Head) (o : F3) (σ : State) : exec (.imulhi h o) σ = execImulhi h o σ := rfl
theorem exec_imad (h : Head) (o : F3) (σ : State) : exec (.imad h o) σ = execImad h o σ := rfl
theorem exec_imin (h : Head) (o : F3) (σ : State) : exec (.imin h o) σ = execImin h o σ := rfl
theorem exec_imax (h : Head) (o : F3) (σ : State) : exec (.imax h o) σ = execImax h o σ := rfl
theorem exec_iabs (h : Head) (o : F3) (σ : State) : exec (.iabs h o) σ = execIabs h o σ := rfl
theorem exec_ineg (h : Head) (o : F3) (σ : State) : exec (.ineg h o) σ = execIneg h o σ := rfl
theorem exec_and (h : Head) (o : F3) (σ : State) : exec (.and h o) σ = execAnd h o σ := rfl
theorem exec_or (h : Head) (o : F3) (σ : State) : exec (.or h o) σ = execOr h o σ := rfl
theorem exec_xor (h : Head) (o : F3) (σ : State) : exec (.xor h o) σ = execXor h o σ := rfl
theorem exec_not (h : Head) (o : F3) (σ : State) : exec (.not h o) σ = execNot h o σ := rfl
theorem exec_andi (h : Head) (o : FI) (σ : State) : exec (.andi h o) σ = execAndi h o σ := rfl
theorem exec_ori (h : Head) (o : FI) (σ : State) : exec (.ori h o) σ = execOri h o σ := rfl
theorem exec_xori (h : Head) (o : FI) (σ : State) : exec (.xori h o) σ = execXori h o σ := rfl
theorem exec_shl (h : Head) (o : F3) (σ : State) : exec (.shl h o) σ = execShl h o σ := rfl
theorem exec_shr (h : Head) (o : F3) (σ : State) : exec (.shr h o) σ = execShr h o σ := rfl
theorem exec_sar (h : Head) (o : F3) (σ : State) : exec (.sar h o) σ = execSar h o σ := rfl
theorem exec_shli (h : Head) (o : FI) (σ : State) : exec (.shli h o) σ = execShli h o σ := rfl
theorem exec_shri (h : Head) (o : FI) (σ : State) : exec (.shri h o) σ = execShri h o σ := rfl
theorem exec_sari (h : Head) (o : FI) (σ : State) : exec (.sari h o) σ = execSari h o σ := rfl
theorem exec_rot (h : Head) (o : F3) (σ : State) : exec (.rot h o) σ = execRot h o σ := rfl
theorem exec_bfx (h : Head) (o : F3) (σ : State) : exec (.bfx h o) σ = execBfx h o σ := rfl
theorem exec_bfi (h : Head) (o : F3) (σ : State) : exec (.bfi h o) σ = execBfi h o σ := rfl
theorem exec_popc (h : Head) (o : F3) (σ : State) : exec (.popc h o) σ = execPopc h o σ := rfl
theorem exec_clz (h : Head) (o : F3) (σ : State) : exec (.clz h o) σ = execClz h o σ := rfl
theorem exec_brev (h : Head) (o : F3) (σ : State) : exec (.brev h o) σ = execBrev h o σ := rfl
theorem exec_sel (h : Head) (o : F3) (σ : State) : exec (.sel h o) σ = execSel h o σ := rfl
theorem exec_icmp (h : Head) (o : F3) (σ : State) : exec (.icmp h o) σ = execIcmp h o σ := rfl
theorem exec_icmpi (h : Head) (o : FI) (σ : State) : exec (.icmpi h o) σ = execIcmpi h o σ := rfl
theorem exec_plog (h : Head) (o : F3) (σ : State) : exec (.plog h o) σ = execPlog h o σ := rfl
theorem exec_lea (h : Head) (o : FM) (σ : State) : exec (.lea h o) σ = execLea h o σ := rfl
theorem exec_idx (h : Head) (o : F3) (σ : State) : exec (.idx h o) σ = execIdx h o σ := rfl
theorem exec_vote (h : Head) (o : F3) (σ : State) : exec (.vote h o) σ = execVote h o σ := rfl
theorem exec_shfl (h : Head) (o : F3) (σ : State) : exec (.shfl h o) σ = execShfl h o σ := rfl
theorem exec_vred (h : Head) (o : F3) (σ : State) : exec (.vred h o) σ = execVred h o σ := rfl
theorem exec_fadd (h : Head) (o : F3) (σ : State) : exec (.fadd h o) σ = execFadd h o σ := rfl
theorem exec_fsub (h : Head) (o : F3) (σ : State) : exec (.fsub h o) σ = execFsub h o σ := rfl
theorem exec_fmul (h : Head) (o : F3) (σ : State) : exec (.fmul h o) σ = execFmul h o σ := rfl
theorem exec_ffma (h : Head) (o : F3) (σ : State) : exec (.ffma h o) σ = execFfma h o σ := rfl
theorem exec_fmin (h : Head) (o : F3) (σ : State) : exec (.fmin h o) σ = execFmin h o σ := rfl
theorem exec_fmax (h : Head) (o : F3) (σ : State) : exec (.fmax h o) σ = execFmax h o σ := rfl
theorem exec_fcmp (h : Head) (o : F3) (σ : State) : exec (.fcmp h o) σ = execFcmp h o σ := rfl
theorem exec_fmuli (h : Head) (o : FI) (σ : State) : exec (.fmuli h o) σ = execFmuli h o σ := rfl
theorem exec_faddi (h : Head) (o : FI) (σ : State) : exec (.faddi h o) σ = execFaddi h o σ := rfl
theorem exec_fdot2 (h : Head) (o : F3) (σ : State) : exec (.fdot2 h o) σ = execFdot2 h o σ := rfl
theorem exec_fclass (h : Head) (o : F3) (σ : State) : exec (.fclass h o) σ = execFclass h o σ := rfl
theorem exec_frnd (h : Head) (o : F3) (σ : State) : exec (.frnd h o) σ = execFrnd h o σ := rfl
theorem exec_frcp (h : Head) (o : F3) (σ : State) : exec (.frcp h o) σ = execFrcp h o σ := rfl
theorem exec_frsq (h : Head) (o : F3) (σ : State) : exec (.frsq h o) σ = execFrsq h o σ := rfl
theorem exec_fsqrt (h : Head) (o : F3) (σ : State) : exec (.fsqrt h o) σ = execFsqrt h o σ := rfl
theorem exec_fex2 (h : Head) (o : F3) (σ : State) : exec (.fex2 h o) σ = execFex2 h o σ := rfl
theorem exec_flg2 (h : Head) (o : F3) (σ : State) : exec (.flg2 h o) σ = execFlg2 h o σ := rfl
theorem exec_fsin (h : Head) (o : F3) (σ : State) : exec (.fsin h o) σ = execFsin h o σ := rfl
theorem exec_fcos (h : Head) (o : F3) (σ : State) : exec (.fcos h o) σ = execFcos h o σ := rfl
theorem exec_fsig (h : Head) (o : F3) (σ : State) : exec (.fsig h o) σ = execFsig h o σ := rfl
theorem exec_ftanh (h : Head) (o : F3) (σ : State) : exec (.ftanh h o) σ = execFtanh h o σ := rfl
theorem exec_cvt (h : Head) (o : F3) (σ : State) : exec (.cvt h o) σ = execCvt h o σ := rfl
theorem exec_npk (h : Head) (o : F3) (σ : State) : exec (.npk h o) σ = execNpk h o σ := rfl
theorem exec_nunpk (h : Head) (o : F3) (σ : State) : exec (.nunpk h o) σ = execNunpk h o σ := rfl
theorem exec_scl (h : Head) (o : F3) (σ : State) : exec (.scl h o) σ = execScl h o σ := rfl
theorem exec_sclx (h : Head) (o : F3) (σ : State) : exec (.sclx h o) σ = execSclx h o σ := rfl
theorem exec_tag (h : Head) (o : F3) (σ : State) : exec (.tag h o) σ = execTag h o σ := rfl
theorem exec_tagr (h : Head) (o : F3) (σ : State) : exec (.tagr h o) σ = execTagr h o σ := rfl
theorem exec_fmset (h : Head) (o : FI) (σ : State) : exec (.fmset h o) σ = execFmset h o σ := rfl
theorem exec_bra (h : Head) (o : FB) (σ : State) : exec (.bra h o) σ = execBra h o σ := rfl
theorem exec_brx (h : Head) (o : F3) (σ : State) : exec (.brx h o) σ = execBrx h o σ := rfl
theorem exec_call (h : Head) (o : FB) (σ : State) : exec (.call h o) σ = execCall h o σ := rfl
theorem exec_ret (h : Head) (o : F3) (σ : State) : exec (.ret h o) σ = execRet h o σ := rfl
theorem exec_exit (h : Head) (o : F3) (σ : State) : exec (.exit h o) σ = execExit h o σ := rfl
theorem exec_bar (h : Head) (o : F3) (σ : State) : exec (.bar h o) σ = execBar h o σ := rfl
theorem exec_bara (h : Head) (o : FI) (σ : State) : exec (.bara h o) σ = execBara h o σ := rfl
theorem exec_barw (h : Head) (o : FI) (σ : State) : exec (.barw h o) σ = execBarw h o σ := rfl
theorem exec_yld (h : Head) (o : F3) (σ : State) : exec (.yld h o) σ = execYld h o σ := rfl
theorem exec_gcall (h : Head) (o : FI) (σ : State) : exec (.gcall h o) σ = execGcall h o σ := rfl
theorem exec_gret (h : Head) (o : F3) (σ : State) : exec (.gret h o) σ = execGret h o σ := rfl
theorem exec_trap (h : Head) (o : FI) (σ : State) : exec (.trap h o) σ = execTrap h o σ := rfl
theorem exec_rte (h : Head) (o : F3) (σ : State) : exec (.rte h o) σ = execRte h o σ := rfl
theorem exec_step (h : Head) (o : F3) (σ : State) : exec (.step h o) σ = execStep h o σ := rfl
theorem exec_qput (h : Head) (o : FM) (σ : State) : exec (.qput h o) σ = execQput h o σ := rfl
theorem exec_qget (h : Head) (o : FM) (σ : State) : exec (.qget h o) σ = execQget h o σ := rfl
theorem exec_qctlDone (h : Head) (o : F3) (σ : State) : exec (.qctlDone h o) σ = execQctlDone h o σ := rfl
theorem exec_qctlErr (h : Head) (o : F3) (σ : State) : exec (.qctlErr h o) σ = execQctlErr h o σ := rfl
theorem exec_qctlRun (h : Head) (o : F3) (σ : State) : exec (.qctlRun h o) σ = execQctlRun h o σ := rfl
theorem exec_qctlSetr (h : Head) (o : F3) (σ : State) : exec (.qctlSetr h o) σ = execQctlSetr h o σ := rfl
theorem exec_qctlStat (h : Head) (o : F3) (σ : State) : exec (.qctlStat h o) σ = execQctlStat h o σ := rfl
theorem exec_ld (h : Head) (o : FM) (σ : State) : exec (.ld h o) σ = execLd h o σ := rfl
theorem exec_ldTyped (h : Head) (tag : BitVec 4) (o : FM) (σ : State) : exec (.ldTyped h tag o) σ = execLdTyped h tag o σ := rfl
theorem exec_st (h : Head) (o : FM) (σ : State) : exec (.st h o) σ = execSt h o σ := rfl
theorem exec_lds (h : Head) (o : FM) (σ : State) : exec (.lds h o) σ = execLds h o σ := rfl
theorem exec_ldsTyped (h : Head) (tag : BitVec 4) (o : FM) (σ : State) : exec (.ldsTyped h tag o) σ = execLdsTyped h tag o σ := rfl
theorem exec_sts (h : Head) (o : FM) (σ : State) : exec (.sts h o) σ = execSts h o σ := rfl
theorem exec_ldc (h : Head) (o : FM) (σ : State) : exec (.ldc h o) σ = execLdc h o σ := rfl
theorem exec_atom (h : Head) (o : FM) (σ : State) : exec (.atom h o) σ = execAtom h o σ := rfl
theorem exec_atoms (h : Head) (o : FM) (σ : State) : exec (.atoms h o) σ = execAtoms h o σ := rfl
theorem exec_red (h : Head) (o : FM) (σ : State) : exec (.red h o) σ = execRed h o σ := rfl
theorem exec_fence (h : Head) (o : FM) (σ : State) : exec (.fence h o) σ = execFence h o σ := rfl
theorem exec_cbinv (h : Head) (o : FM) (σ : State) : exec (.cbinv h o) σ = execCbinv h o σ := rfl
theorem exec_tlook (h : Head) (o : FM) (σ : State) : exec (.tlook h o) σ = execTlook h o σ := rfl
theorem exec_tset (h : Head) (o : FM) (σ : State) : exec (.tset h o) σ = execTset h o σ := rfl
theorem exec_tclr (h : Head) (o : F3) (σ : State) : exec (.tclr h o) σ = execTclr h o σ := rfl
theorem exec_prf (h : Head) (o : FM) (σ : State) : exec (.prf h o) σ = execPrf h o σ := rfl
theorem exec_fget (h : Head) (o : F3) (σ : State) : exec (.fget h o) σ = execFget h o σ := rfl
theorem exec_fput (h : Head) (o : F3) (σ : State) : exec (.fput h o) σ = execFput h o σ := rfl
theorem exec_tinv (h : Head) (o : F3) (σ : State) : exec (.tinv h o) σ = execTinv h o σ := rfl
theorem exec_mma (h : Head) (o : F3) (σ : State) : exec (.mma h o) σ = execMma h o σ := rfl
theorem exec_mmam (h : Head) (o : F3) (σ : State) : exec (.mmam h o) σ = execMmam h o σ := rfl
theorem exec_mmt (h : Head) (o : F3) (σ : State) : exec (.mmt h o) σ = execMmt h o σ := rfl
theorem exec_aalloc (h : Head) (o : F3) (σ : State) : exec (.aalloc h o) σ = execAalloc h o σ := rfl
theorem exec_afree (h : Head) (o : F3) (σ : State) : exec (.afree h o) σ = execAfree h o σ := rfl
theorem exec_azero (h : Head) (o : F3) (σ : State) : exec (.azero h o) σ = execAzero h o σ := rfl
theorem exec_ald (h : Head) (o : F3) (σ : State) : exec (.ald h o) σ = execAld h o σ := rfl
theorem exec_aput (h : Head) (o : F3) (σ : State) : exec (.aput h o) σ = execAput h o σ := rfl
theorem exec_tmld (h : Head) (o : F3) (σ : State) : exec (.tmld h o) σ = execTmld h o σ := rfl
theorem exec_cpy (h : Head) (o : F3) (σ : State) : exec (.cpy h o) σ = execCpy h o σ := rfl
theorem exec_gth (h : Head) (o : F3) (σ : State) : exec (.gth h o) σ = execGth h o σ := rfl
theorem exec_sct (h : Head) (o : F3) (σ : State) : exec (.sct h o) σ = execSct h o σ := rfl
theorem exec_coll (h : Head) (o : F3) (σ : State) : exec (.coll h o) σ = execColl h o σ := rfl
theorem exec_waitc (h : Head) (o : FI) (σ : State) : exec (.waitc h o) σ = execWaitc h o σ := rfl
theorem exec_cntr (h : Head) (o : F3) (σ : State) : exec (.cntr h o) σ = execCntr h o σ := rfl
theorem exec_srd (h : Head) (o : FS) (σ : State) : exec (.srd h o) σ = execSrd h o σ := rfl
theorem exec_swr (h : Head) (o : FS) (σ : State) : exec (.swr h o) σ = execSwr h o σ := rfl
theorem exec_gtm (h : Head) (o : F3) (σ : State) : exec (.gtm h o) σ = execGtm h o σ := rfl
theorem exec_ccnt (h : Head) (o : F3) (σ : State) : exec (.ccnt h o) σ = execCcnt h o σ := rfl
theorem exec_calq (h : Head) (o : F3) (σ : State) : exec (.calq h o) σ = execCalq h o σ := rfl
theorem exec_bst (h : Head) (o : FI) (σ : State) : exec (.bst h o) σ = execBst h o σ := rfl
theorem exec_place (h : Head) (o : F3) (σ : State) : exec (.place h o) σ = execPlace h o σ := rfl
theorem exec_seal (h : Head) (o : F3) (σ : State) : exec (.seal h o) σ = execSeal h o σ := rfl
theorem exec_pmpt (h : Head) (o : F3) (σ : State) : exec (.pmpt h o) σ = execPmpt h o σ := rfl
theorem exec_pairWord (s : Bool) (a b : Half) (σ : State) : exec (.pairWord s a b) σ = execPairWord s a b σ := rfl
theorem exec_grant (core : Nat) (pa pb : BitVec 6) (opm : Bool) (σ : State) : exec (.grant core pa pb opm) σ = execGrant core pa pb opm σ := rfl
theorem exec_reclaim (core : Nat) (pa pb : BitVec 6) (opm : Bool) (σ : State) : exec (.reclaim core pa pb opm) σ = execReclaim core pa pb opm σ := rfl
theorem exec_take (core : Nat) (pa pb : BitVec 6) (opm : Bool) (σ : State) : exec (.take core pa pb opm) σ = execTake core pa pb opm σ := rfl
theorem exec_release (core : Nat) (pa pb : BitVec 6) (opm : Bool) (σ : State) : exec (.release core pa pb opm) σ = execRelease core pa pb opm σ := rfl
theorem exec_window (core : Nat) (pa pb : BitVec 6) (opm : Bool) (σ : State) : exec (.window core pa pb opm) σ = execWindow core pa pb opm σ := rfl
theorem exec_unwindow (core : Nat) (pa pb : BitVec 6) (opm : Bool) (σ : State) : exec (.unwindow core pa pb opm) σ = execUnwindow core pa pb opm σ := rfl
theorem exec_audbuf (core : Nat) (pa pb : BitVec 6) (opm : Bool) (σ : State) : exec (.audbuf core pa pb opm) σ = execAudbuf core pa pb opm σ := rfl
theorem exec_preset (core : Nat) (pa pb : BitVec 6) (opm : Bool) (σ : State) : exec (.preset core pa pb opm) σ = execPreset core pa pb opm σ := rfl
theorem exec_audtext (core : Nat) (pa pb : BitVec 6) (opm : Bool) (σ : State) : exec (.audtext core pa pb opm) σ = execAudtext core pa pb opm σ := rfl
theorem exec_arm (part : Nat) (σ : State) : exec (.arm part) σ = execArm part σ := rfl
theorem exec_disarm (part : Nat) (σ : State) : exec (.disarm part) σ = execDisarm part σ := rfl
theorem exec_ctlmark (part : Nat) (σ : State) : exec (.ctlmark part) σ = execCtlmark part σ := rfl
theorem exec_tohbm (core : Nat) (σ : State) : exec (.tohbm core) σ = execTohbm core σ := rfl
theorem exec_tocxl (core : Nat) (σ : State) : exec (.tocxl core) σ = execTocxl core σ := rfl
theorem exec_tocold (core : Nat) (σ : State) : exec (.tocold core) σ = execTocold core σ := rfl
theorem exec_query (core : Nat) (σ : State) : exec (.query core) σ = execQuery core σ := rfl
theorem exec_tierMoveComplete (frame : Nat) (σ : State) : exec (.tierMoveComplete frame) σ = execTierMoveComplete frame σ := rfl
theorem exec_tqcmd (core : Nat) (off : BitVec 10) (slots : BitVec 13) (σ : State) : exec (.tqcmd core off slots) σ = execTqcmd core off slots σ := rfl
theorem exec_evictCxlDirect (core : Nat) (part : BitVec 6) (opf : Bool) (σ : State) : exec (.evictCxlDirect core part opf) σ = execEvictCxlDirect core part opf σ := rfl
theorem exec_evictCxlCold (core : Nat) (part : BitVec 6) (opf : Bool) (σ : State) : exec (.evictCxlCold core part opf) σ = execEvictCxlCold core part opf σ := rfl
theorem exec_ckproll (part : Nat) (cutgt : W64) (σ : State) : exec (.ckproll part cutgt) σ = execCkproll part cutgt σ := rfl
theorem exec_ctxkill (handle : Nat) (σ : State) : exec (.ctxkill handle) σ = execCtxkill handle σ := rfl
theorem exec_dbgctlFreeze (σ : State) : exec .dbgctlFreeze σ = execDbgctlFreeze σ := rfl
theorem exec_testPortFreeze (σ : State) : exec .testPortFreeze σ = execTestPortFreeze σ := rfl
theorem exec_cxlRetrain (port : Nat) (σ : State) : exec (.cxlRetrain port) σ = execCxlRetrain port σ := rfl
theorem exec_hqtailDoorbell (ring : Nat) (value : W32) (σ : State) : exec (.hqtailDoorbell ring value) σ = execHqtailDoorbell ring value σ := rfl
theorem exec_hqskip (ring : Nat) (value : W32) (σ : State) : exec (.hqskip ring value) σ = execHqskip ring value σ := rfl
theorem exec_hqctlWrite (ring : Nat) (value : W32) (σ : State) : exec (.hqctlWrite ring value) σ = execHqctlWrite ring value σ := rfl
theorem exec_ttcfgWrite (handle : Nat) (value : W32) (σ : State) : exec (.ttcfgWrite handle value) σ = execTtcfgWrite handle value σ := rfl
theorem exec_sillageConfigWrite (part : Nat) (value : W32) (σ : State) : exec (.sillageConfigWrite part value) σ = execSillageConfigWrite part value σ := rfl
theorem exec_energyCapture (g : Nat) (odd : Bool) (σ : State) : exec (.energyCapture g odd) σ = execEnergyCapture g odd σ := rfl
theorem exec_wearthrWrite (value : W32) (σ : State) : exec (.wearthrWrite value) σ = execWearthrWrite value σ := rfl
theorem exec_registerWrite (fn : Fn) (target : HostTarget) (part : Nat) (value : W32) (σ : State) : exec (.registerWrite fn target part value) σ = execRegisterWrite fn target part value σ := rfl
theorem exec_moduleReset (σ : State) : exec .moduleReset σ = execModuleReset σ := rfl
theorem exec_boot (σ : State) : exec .boot σ = execBoot σ := rfl
theorem exec_frameBoundary (σ : State) : exec .frameBoundary σ = execFrameBoundary σ := rfl
theorem exec_budgetExhausted (a : Activity) (σ : State) : exec (.budgetExhausted a) σ = execBudgetExhausted a σ := rfl
theorem exec_boostIntervalBoundary (σ : State) : exec .boostIntervalBoundary σ = execBoostIntervalBoundary σ := rfl
theorem exec_energyUpdate (amounts : List Nat) (σ : State) : exec (.energyUpdate amounts) σ = execEnergyUpdate amounts σ := rfl
theorem exec_droopStretch (cluster : Nat) (σ : State) : exec (.droopStretch cluster) σ = execDroopStretch cluster σ := rfl
theorem exec_approachWindowStart (σ : State) : exec .approachWindowStart σ = execApproachWindowStart σ := rfl
theorem exec_slotOpen (σ : State) : exec .slotOpen σ = execSlotOpen σ := rfl
theorem exec_slotClose (r : SlotReport) (σ : State) : exec (.slotClose r) σ = execSlotClose r σ := rfl
theorem exec_slotOverrun (unit : Nat) (memory : Bool) (σ : State) : exec (.slotOverrun unit memory) σ = execSlotOverrun unit memory σ := rfl
theorem exec_gtSyncExchange (offset : Int) (σ : State) : exec (.gtSyncExchange offset) σ = execGtSyncExchange offset σ := rfl
theorem exec_waitSatisfied (handle gi : Nat) (σ : State) : exec (.waitSatisfied handle gi) σ = execWaitSatisfied handle gi σ := rfl
theorem exec_blockStart (launch : Nat) (σ : State) : exec (.blockStart launch) σ = execBlockStart launch σ := rfl
theorem exec_gangStart (launch : Nat) (σ : State) : exec (.gangStart launch) σ = execGangStart launch σ := rfl
theorem exec_gangPriorityTimeout (launch : Nat) (σ : State) : exec (.gangPriorityTimeout launch) σ = execGangPriorityTimeout launch σ := rfl
theorem exec_gangCannotFit (launch : Nat) (σ : State) : exec (.gangCannotFit launch) σ = execGangCannotFit launch σ := rfl
theorem exec_blockComplete (handle : Nat) (σ : State) : exec (.blockComplete handle) σ = execBlockComplete handle σ := rfl
theorem exec_stepBoundaryComplete (launch : Nat) (σ : State) : exec (.stepBoundaryComplete launch) σ = execStepBoundaryComplete launch σ := rfl
theorem exec_blockSwitchOut (handle : Nat) (σ : State) : exec (.blockSwitchOut handle) σ = execBlockSwitchOut handle σ := rfl
theorem exec_blockPageIn (handle : Nat) (σ : State) : exec (.blockPageIn handle) σ = execBlockPageIn handle σ := rfl
theorem exec_matrixPass (cluster : Nat) (σ : State) : exec (.matrixPass cluster) σ = execMatrixPass cluster σ := rfl
theorem exec_engineOpComplete (op : Nat) (σ : State) : exec (.engineOpComplete op) σ = execEngineOpComplete op σ := rfl
theorem exec_scrubLine (frame : Nat) (σ : State) : exec (.scrubLine frame) σ = execScrubLine frame σ := rfl
theorem exec_nopPacket (ring : Nat) (σ : State) : exec (.nopPacket ring) σ = execNopPacket ring σ := rfl
theorem exec_indirect (ring : Nat) (σ : State) : exec (.indirect ring) σ = execIndirect ring σ := rfl
theorem exec_launch (cmd : Nat) (σ : State) : exec (.launch cmd) σ = execLaunch cmd σ := rfl
theorem exec_bundle (cmd : Nat) (σ : State) : exec (.bundle cmd) σ = execBundle cmd σ := rfl
theorem exec_copy (cmd : Nat) (σ : State) : exec (.copy cmd) σ = execCopy cmd σ := rfl
theorem exec_signal (cmd : Nat) (σ : State) : exec (.signal cmd) σ = execSignal cmd σ := rfl
theorem exec_wait (cmd : Nat) (σ : State) : exec (.wait cmd) σ = execWait cmd σ := rfl
theorem exec_waitReread (cmd : Nat) (σ : State) : exec (.waitReread cmd) σ = execWaitReread cmd σ := rfl
theorem exec_checkpoint (cmd : Nat) (σ : State) : exec (.checkpoint cmd) σ = execCheckpoint cmd σ := rfl
theorem exec_qconfig (cmd : Nat) (σ : State) : exec (.qconfig cmd) σ = execQconfig cmd σ := rfl
theorem exec_packetFetch (ring : Nat) (σ : State) : exec (.packetFetch ring) σ = execPacketFetch ring σ := rfl
theorem exec_ticketPost (cmd : Nat) (σ : State) : exec (.ticketPost cmd) σ = execTicketPost cmd σ := rfl
theorem exec_commandStart (ticket : Nat) (σ : State) : exec (.commandStart ticket) σ = execCommandStart ticket σ := rfl
theorem exec_ticketRepost (ticket : Nat) (σ : State) : exec (.ticketRepost ticket) σ = execTicketRepost ticket σ := rfl
theorem exec_commandRetire (cmd : Nat) (σ : State) : exec (.commandRetire cmd) σ = execCommandRetire cmd σ := rfl
theorem exec_msixMessageSend (fn : Fn) (σ : State) : exec (.msixMessageSend fn) σ = execMsixMessageSend fn σ := rfl
theorem exec_queueRetest (handle gi : Nat) (σ : State) : exec (.queueRetest handle gi) σ = execQueueRetest handle gi σ := rfl
theorem exec_gateDeadline (handle gi : Nat) (σ : State) : exec (.gateDeadline handle gi) σ = execGateDeadline handle gi σ := rfl
theorem exec_remoteTimeout (id : Nat) (σ : State) : exec (.remoteTimeout id) σ = execRemoteTimeout id σ := rfl
theorem exec_remoteResponse (id : Nat) (a : Answer) (σ : State) : exec (.remoteResponse id a) σ = execRemoteResponse id a σ := rfl
theorem exec_inboundPeerAccess (x : Inbound) (σ : State) : exec (.inboundPeerAccess x) σ = execInboundPeerAccess x σ := rfl
theorem exec_atsResponse (id : Nat) (grant : Option AtsGrant) (σ : State) : exec (.atsResponse id grant) σ = execAtsResponse id grant σ := rfl
theorem exec_atsInvalidation (pasid page : Nat) (σ : State) : exec (.atsInvalidation pasid page) σ = execAtsInvalidation pasid page σ := rfl
theorem exec_invalidationCompletion (pasid page : Nat) (σ : State) : exec (.invalidationCompletion pasid page) σ = execInvalidationCompletion pasid page σ := rfl
theorem exec_pageRequestResponse (pasid page : Nat) (code : PriCode) (σ : State) : exec (.pageRequestResponse pasid page code) σ = execPageRequestResponse pasid page code σ := rfl
theorem exec_functionLevelReset (fn : Fn) (σ : State) : exec (.functionLevelReset fn) σ = execFunctionLevelReset fn σ := rfl
theorem exec_pcieLinkDown (σ : State) : exec .pcieLinkDown σ = execPcieLinkDown σ := rfl
theorem exec_linkRetryFail (port : Nat) (σ : State) : exec (.linkRetryFail port) σ = execLinkRetryFail port σ := rfl
theorem exec_collRecordReceive (job : Nat) (r : JobRecord) (σ : State) : exec (.collRecordReceive job r) σ = execCollRecordReceive job r σ := rfl
theorem exec_collChunkMark (job chunk : Nat) (contrib : List (Nat × List W32)) (σ : State) : exec (.collChunkMark job chunk contrib) σ = execCollChunkMark job chunk contrib σ := rfl
theorem exec_collStallTimeout (job : Nat) (σ : State) : exec (.collStallTimeout job) σ = execCollStallTimeout job σ := rfl
theorem exec_cxlPortLoss (port : Nat) (σ : State) : exec (.cxlPortLoss port) σ = execCxlPortLoss port σ := rfl
theorem exec_blastError (ukind unit : Nat) (x : BlastSet) (σ : State) : exec (.blastError ukind unit x) σ = execBlastError ukind unit x σ := rfl
theorem exec_turnGrant (rot : Nat) (σ : State) : exec (.turnGrant rot) σ = execTurnGrant rot σ := rfl
theorem exec_turnQuantumExpiry (rot : Nat) (σ : State) : exec (.turnQuantumExpiry rot) σ = execTurnQuantumExpiry rot σ := rfl
theorem exec_turnForcedSealing (part : Nat) (σ : State) : exec (.turnForcedSealing part) σ = execTurnForcedSealing part σ := rfl
theorem exec_checkpointDue (part : Nat) (σ : State) : exec (.checkpointDue part) σ = execCheckpointDue part σ := rfl
theorem exec_checkpointCut (part : Nat) (σ : State) : exec (.checkpointCut part) σ = execCheckpointCut part σ := rfl
theorem exec_checkpointFrameCopy (part frame : Nat) (σ : State) : exec (.checkpointFrameCopy part frame) σ = execCheckpointFrameCopy part frame σ := rfl
theorem exec_checkpointCommit (part : Nat) (σ : State) : exec (.checkpointCommit part) σ = execCheckpointCommit part σ := rfl
theorem exec_droopRecovery (cluster : Nat) (σ : State) : exec (.droopRecovery cluster) σ = execDroopRecovery cluster σ := rfl
theorem exec_scanReadout (chain : Nat) (σ : State) : exec (.scanReadout chain) σ = execScanReadout chain σ := rfl
theorem exec_pcieLinkUp (conventional : Bool) (σ : State) : exec (.pcieLinkUp conventional) σ = execPcieLinkUp conventional σ := rfl
theorem exec_cxlTrainingComplete (port : Nat) (serial : Option Nat) (σ : State) : exec (.cxlTrainingComplete port serial) σ = execCxlTrainingComplete port serial σ := rfl
theorem exec_forcedSealingOverdue (part : Nat) (σ : State) : exec (.forcedSealingOverdue part) σ = execForcedSealingOverdue part σ := rfl
theorem exec_wordNamingNoInstruction (w : W64) (σ : State) : exec (.wordNamingNoInstruction w) σ = execWordNamingNoInstruction w σ := rfl
theorem exec_instructionFetchFailure (f : FetchFailure) (σ : State) : exec (.instructionFetchFailure f) σ = execInstructionFetchFailure f σ := rfl
theorem exec_barMirrorRead (fn : Fn) (num : BitVec 16) (part : Nat) (word : Option BarWord) (σ : State) : exec (.barMirrorRead fn num part word) σ = execBarMirrorRead fn num part word σ := rfl

end Sys2Proof.Machine
end

