-- ==== Sys2Proof/Laws/Husks.lean ====
section
/-! SUPPORT. Husks that the operator writes to host pages: posted writes change nothing that a translation reads, so bytes go
to host pages whatever their length (R126, R253). -/

namespace Sys2Proof.Machine

/-- A state with other accesses on their way to the host. -/
def State.onTheWay (s : State) (r : AMap Remote) (f : Nat) (x : AMap AtsReq) : State :=
  { s with remotes := r, fresh := f, host := { s.host with ats := x } }

/-- An address has a leaf for a host page that may be written. -/
def State.hostLeaf (s : State) (a : Nat) (va : W64) : Bool :=
  decide (fldN va 56 8 = 0) && match s.walk a va.toNat with
  | .leaf pte _ _ => bit pte 7 && bit pte 4
  | _ => false

variable {s : State} {a : Nat} {r : AMap Remote} {f : Nat} {x : AMap AtsReq}

theorem walkFrom_onTheWay (va : Nat) (ls : List Nat) (e : W64) : walkFrom (s.onTheWay r f x) a va ls e = walkFrom s a va ls e := by
  induction ls generalizing e with
  | nil => rfl
  | cons l ls ih => simp only [walkFrom, ih]; rfl

theorem walk_onTheWay (va : Nat) : (s.onTheWay r f x).walk a va = s.walk a va := by
  simp only [State.walk, walkFrom_onTheWay]; rfl

theorem hostLeaf_onTheWay (va : W64) : (s.onTheWay r f x).hostLeaf a va = s.hostLeaf a va := by
  simp only [State.hostLeaf, walk_onTheWay]

/-- A load or store of a host page is judged by its leaf alone. -/
theorem judge_hostLeaf {k : Acc} {va : W64} (hk : k = .load ∨ k = .store) (ha : asidAud a = false) (h : s.hostLeaf a va = true) :
    ∃ ad fr so w, judge s none a k va 1 = (s, .host ad fr so w) := by
  simp only [State.hostLeaf, Bool.and_eq_true, decide_eq_true_eq] at h
  obtain ⟨h1, h⟩ := h
  split at h
  · rename_i pte lg pa hw
    simp only [Bool.and_eq_true] at h
    rcases hk with rfl | rfl <;> simp [judge, h1, translate, hw, entOf, h.1, h.2, resolve, leafAllows, ha, Acc.writes, Nat.mod_one]
  · cases h

/-- An access of the operator to a host page is on its way. -/
theorem sendRemote_onTheWay (hl : s.host.linkUp = true) (m : Remote) (hh : m.host = true)
    (hp : asidPart m.asid.toNat = none) (r : AMap Remote) (f : Nat) (x : AMap AtsReq) :
    ∃ r' f' x', (s.onTheWay r f x).sendRemote m = s.onTheWay r' f' x' := by
  have hl' : (s.onTheWay r f x).host.linkUp = true := hl
  unfold State.sendRemote
  simp only [hh, hl', hp, if_true, Bool.not_true, Bool.false_eq_true, if_false]
  split
  · exact ⟨_, _, x, rfl⟩
  · unfold State.askAts
    split
    · exact ⟨_, _, x, rfl⟩
    · exact ⟨_, _, _, rfl⟩

/-- Writes of the operator posted to the host are on their way. -/
theorem postAll_onTheWay (ha : asidPart a = none) (hb : a < 2048) (hl : s.host.linkUp = true) (use : HwUse) (ad fr : Nat) (so w : Bool) :
    ∀ (n : Nat) (va : W64) (off : Nat) (bs : List Byte) (r : AMap Remote) (f : Nat) (x : AMap AtsReq),
      ∃ r' f' x', postAll a use (.host ad fr so w) n (s.onTheWay r f x) va off bs = s.onTheWay r' f' x' := by
  intro n
  induction n with
  | zero => intro va off bs r f x; exact ⟨r, f, x, rfl⟩
  | succ n ih =>
    intro va off bs r f x
    rw [postAll]
    split
    · exact ⟨r, f, x, rfl⟩
    · have hp : asidPart (BitVec.ofNat 11 a).toNat = none := by rw [BitVec.toNat_ofNat, Nat.mod_eq_of_lt hb, ha]
      simp only [State.hwRemote, Tr.shift]
      generalize hS : (s.onTheWay r f x).sendRemote _ = S
      obtain ⟨r', f', x', e⟩ : ∃ r' f' x', S = s.onTheWay r' f' x' := hS ▸ sendRemote_onTheWay hl _ rfl hp r f x
      rw [e]
      exact ih _ _ _ r' f' x'

/-- A page's bytes are posted to the host. -/
theorem vpost_onTheWay (ha : asidPart a = none) (hb : a < 2048) (hd : asidAud a = false) (hl : s.host.linkUp = true) (use : HwUse)
    (va : W64) (bs : List Byte) (hv : s.hostLeaf a va = true) (r : AMap Remote) (f : Nat) (x : AMap AtsReq) :
    ∃ r' f' x', vpost (s.onTheWay r f x) a use va bs = (s.onTheWay r' f' x', none) := by
  obtain ⟨ad, fr, so, w, e⟩ := judge_hostLeaf (s := s.onTheWay r f x) (.inr rfl) hd (by rw [hostLeaf_onTheWay]; exact hv)
  obtain ⟨r', f', x', e'⟩ := postAll_onTheWay ha hb hl use ad fr so w (bs.length / 128 + 2) va 0 bs r f x
  refine ⟨r', f', x', ?_⟩
  have hl' : (s.onTheWay r f x).host.linkUp = true := hl
  simp only [vpost, e, hl', if_true, e']

/-- Bytes are posted to host pages, page by page. -/
theorem writeLong_onTheWay (ha : asidPart a = none) (hb : a < 2048) (hd : asidAud a = false) (hl : s.host.linkUp = true) (use : HwUse)
    (va : W64) (h0 : va.toNat % 65536 = 0) (n : Nat) (hv : ∀ k, k < n → s.hostLeaf a (va + BitVec.ofNat 64 (65536 * k)) = true) :
    ∀ (fuel k : Nat) (bs : List Byte) (r : AMap Remote) (f : Nat) (x : AMap AtsReq), k + (bs.length + 65535) / 65536 ≤ n →
      ∃ r' f' x', writeLong use a fuel (s.onTheWay r f x) (va + BitVec.ofNat 64 (65536 * k)) bs = (s.onTheWay r' f' x', none) := by
  intro fuel
  induction fuel with
  | zero => intro k bs r f x _; exact ⟨r, f, x, rfl⟩
  | succ fuel ih =>
    intro k bs r f x hk
    rw [writeLong]
    split
    · exact ⟨r, f, x, rfl⟩
    · rename_i hne
      have hlen : 0 < bs.length := List.length_pos_iff.mpr (by simpa using hne)
      have hpg : (va + BitVec.ofNat 64 (65536 * k)).toNat % 65536 = 0 := by
        rw [BitVec.toNat_add, BitVec.toNat_ofNat]; omega
      have hn : 65536 - (va + BitVec.ofNat 64 (65536 * k)).toNat % 65536 = 65536 := by rw [hpg]
      simp only [hn]
      obtain ⟨r', f', x', e⟩ := vpost_onTheWay ha hb hd hl use _ (bs.take 65536) (hv k (by omega)) r f x
      simp only [e]
      have hva : va + BitVec.ofNat 64 (65536 * k) + BitVec.ofNat 64 65536 = va + BitVec.ofNat 64 (65536 * (k + 1)) := by
        rw [BitVec.add_assoc, ← BitVec.ofNat_add]
        congr 2
      rw [hva]
      exact ih (k + 1) _ r' f' x' (by rw [List.length_drop]; omega)

/-- A context whose husk's bytes have all been acknowledged is sealed. -/
theorem sealAt_arrived {h gt : Nat} {va : W64} {b : Block} (hg : AMap.get? s.blocks h = some b) (ho : b.huskOut = some (gt, a, va))
    (hf : b.huskFail = none) (hn : s.huskAway h = false) (dest : Place) :
    sealAt s h a va dest = (sealed s h (huskOf s h b 0 gt) dest, .done (huskOf s h b 0 gt)) := by
  simp [sealAt, hg, hn, ho, hf]

/-- A line of the host that has come is read. -/
theorem fetchVia_fetched {reader : Nat} {va : W64} {bs : List Byte} (fuel : Nat) (h0 : va.toNat % 64 = 0) (hd : asidAud a = false)
    (hl : s.host.linkUp = true) (hv : s.hostLeaf a va = true) (hn : bs.length = 64)
    (hf : s.kept reader a va = some bs) :
    fetchVia reader a (fuel + 2) s va 64 = (s, .ok bs) := by
  obtain ⟨ad, fr, so, w, e⟩ := judge_hostLeaf (k := .load) (.inl rfl) hd hv
  have h1 : ∀ c, bs ≠ [c] := by intro c h; simp [h] at hn
  have h2 : (bs.drop 0).take 64 = bs := by rw [List.drop_zero, ← hn, List.take_length]
  have h3 : fetchVia reader a (fuel + 1) s (va + BitVec.ofNat 64 64) 0 = (s, .ok []) := by rw [fetchVia, if_pos rfl]
  rw [fetchVia]
  simp only [e, hl, hf, h0, Nat.sub_zero, Nat.min_self, Nat.sub_self, h2, h3, List.append_nil, Bool.true_or, if_true]
  split
  · omega
  · rfl

end Sys2Proof.Machine
end

