-- ==== Sys2Proof/Laws/Tables.lean ====
section
/-! SUPPORT. Reading a table after writing it, and the canonical form that every write keeps. -/

namespace Sys2Proof

variable {α : Type}

theorem SMap.get_insert_self (d : Nat → α) (m : SMap α) (k : Nat) (a : α) : SMap.get d (SMap.insert m k a) k = a := by
  induction m with
  | nil => simp [SMap.insert, SMap.get]
  | cons p m ih =>
    obtain ⟨j, b⟩ := p
    simp only [SMap.insert]
    split
    · simp [SMap.get]
    · split
      · simp [SMap.get]
      · rename_i h
        simp [SMap.get, Ne.symm h, ih]

theorem SMap.get_insert_ne (d : Nat → α) (m : SMap α) {k k' : Nat} (a : α) (h : k' ≠ k) :
    SMap.get d (SMap.insert m k a) k' = SMap.get d m k' := by
  induction m with
  | nil => simp [SMap.insert, SMap.get, h.symm]
  | cons p m ih =>
    obtain ⟨j, b⟩ := p
    simp only [SMap.insert]
    split
    · simp [SMap.get, h.symm]
    · split
      · rename_i e
        subst e
        simp [SMap.get, h.symm]
      · simp [SMap.get, ih]

theorem SMap.get_erase_ne (d : Nat → α) (m : SMap α) {k k' : Nat} (h : k' ≠ k) :
    SMap.get d (SMap.erase m k) k' = SMap.get d m k' := by
  induction m with
  | nil => simp [SMap.erase]
  | cons p m ih =>
    obtain ⟨j, b⟩ := p
    simp only [SMap.erase]
    split
    · rename_i e
      subst e
      simp [SMap.get, h.symm, ih]
    · simp [SMap.get, ih]

theorem SMap.get_erase_self (d : Nat → α) (m : SMap α) (k : Nat) : SMap.get d (SMap.erase m k) k = d k := by
  induction m with
  | nil => rfl
  | cons p m ih =>
    obtain ⟨j, b⟩ := p
    simp only [SMap.erase]
    split
    · exact ih
    · rename_i e
      simp [SMap.get, e, ih]

theorem SMap.mem_insert (m : SMap α) (k : Nat) (a : α) (p : Nat × α) (h : p ∈ SMap.insert m k a) : p = (k, a) ∨ p ∈ m := by
  induction m with
  | nil => simpa [SMap.insert] using h
  | cons q m ih =>
    obtain ⟨j, b⟩ := q
    simp only [SMap.insert] at h
    split at h
    · simpa using h
    · split at h
      · rcases List.mem_cons.mp h with h | h
        · exact .inl h
        · exact .inr (List.mem_cons_of_mem _ h)
      · rcases List.mem_cons.mp h with h | h
        · exact .inr (by simp [h])
        · rcases ih h with h | h
          · exact .inl h
          · exact .inr (List.mem_cons_of_mem _ h)

theorem SMap.mem_erase (m : SMap α) (k : Nat) (p : Nat × α) (h : p ∈ SMap.erase m k) : p ∈ m := by
  induction m with
  | nil => exact h
  | cons q m ih =>
    obtain ⟨j, b⟩ := q
    simp only [SMap.erase] at h
    split at h
    · exact List.mem_cons_of_mem _ (ih h)
    · rcases List.mem_cons.mp h with h | h
      · simp [h]
      · exact List.mem_cons_of_mem _ (ih h)

section
variable [DecidableEq α]

theorem SMap.wf_cons (d : Nat → α) (k : Nat) (a : α) (m : SMap α) :
    SMap.wf d ((k, a) :: m) = true ↔ a ≠ d k ∧ (∀ p ∈ m, k < p.1) ∧ SMap.wf d m = true := by
  simp [SMap.wf, and_assoc]

theorem SMap.wf_insert (d : Nat → α) (m : SMap α) (k : Nat) (a : α) (ha : a ≠ d k) (h : SMap.wf d m = true) :
    SMap.wf d (SMap.insert m k a) = true := by
  induction m with
  | nil => simp [SMap.insert, SMap.wf, ha]
  | cons p m ih =>
    obtain ⟨j, b⟩ := p
    obtain ⟨hb, hlt, hm⟩ := (SMap.wf_cons d j b m).mp h
    simp only [SMap.insert]
    split
    · rename_i hk
      refine (SMap.wf_cons ..).mpr ⟨ha, ?_, h⟩
      intro p hp
      rcases List.mem_cons.mp hp with rfl | hp
      · exact hk
      · exact Nat.lt_trans hk (hlt p hp)
    · split
      · rename_i e
        subst e
        exact (SMap.wf_cons ..).mpr ⟨ha, hlt, hm⟩
      · refine (SMap.wf_cons ..).mpr ⟨hb, ?_, ih hm⟩
        intro p hp
        rcases SMap.mem_insert m k a p hp with rfl | hp
        · simp only
          omega
        · exact hlt p hp

theorem SMap.wf_erase (d : Nat → α) (m : SMap α) (k : Nat) (h : SMap.wf d m = true) : SMap.wf d (SMap.erase m k) = true := by
  induction m with
  | nil => exact h
  | cons p m ih =>
    obtain ⟨j, b⟩ := p
    obtain ⟨hb, hlt, hm⟩ := (SMap.wf_cons d j b m).mp h
    simp only [SMap.erase]
    split
    · exact ih hm
    · exact (SMap.wf_cons ..).mpr ⟨hb, fun p hp => hlt p (SMap.mem_erase m k p hp), ih hm⟩

/-- Writing a key keeps the canonical form. -/
theorem SMap.wf_set (d : Nat → α) (m : SMap α) (k : Nat) (a : α) (h : SMap.wf d m = true) : SMap.wf d (SMap.set d m k a) = true := by
  unfold SMap.set
  split
  · exact SMap.wf_erase d m k h
  · rename_i ha
    exact SMap.wf_insert d m k a ha h

/-- Reading the key just written gives the value written. -/
theorem SMap.get_set_self (d : Nat → α) (m : SMap α) (k : Nat) (a : α) : SMap.get d (SMap.set d m k a) k = a := by
  unfold SMap.set
  split
  · rename_i ha
    rw [SMap.get_erase_self d m k, ha]
  · exact SMap.get_insert_self d m k a

/-- Writing a key leaves every other key alone. -/
theorem SMap.get_set_ne (d : Nat → α) (m : SMap α) {k k' : Nat} (a : α) (h : k' ≠ k) :
    SMap.get d (SMap.set d m k a) k' = SMap.get d m k' := by
  unfold SMap.set
  split
  · exact SMap.get_erase_ne d m h
  · exact SMap.get_insert_ne d m a h
end

theorem AMap.get?_put_self (m : AMap α) (k : Nat) (a : α) : AMap.get? (AMap.put m k a) k = some a := by
  unfold AMap.put
  induction m with
  | nil => simp [SMap.insert, AMap.get?]
  | cons p m ih =>
    obtain ⟨j, b⟩ := p
    simp only [SMap.insert]
    split
    · simp [AMap.get?]
    · split
      · simp [AMap.get?]
      · rename_i h
        simp [AMap.get?, Ne.symm h, ih]

theorem AMap.get?_put_ne (m : AMap α) {k k' : Nat} (a : α) (h : k' ≠ k) : AMap.get? (AMap.put m k a) k' = AMap.get? m k' := by
  unfold AMap.put
  induction m with
  | nil => simp [SMap.insert, AMap.get?, h.symm]
  | cons p m ih =>
    obtain ⟨j, b⟩ := p
    simp only [SMap.insert]
    split
    · simp [AMap.get?, h.symm]
    · split
      · rename_i e
        subst e
        simp [AMap.get?, h.symm]
      · simp [AMap.get?, ih]

@[simp] theorem AMap.getD_put_self (m : AMap α) (k : Nat) (a d : α) : AMap.getD (AMap.put m k a) k d = a := by
  simp [AMap.getD, AMap.get?_put_self]

theorem AMap.getD_put_ne (m : AMap α) {k k' : Nat} (a d : α) (h : k' ≠ k) : AMap.getD (AMap.put m k a) k' d = AMap.getD m k' d := by
  simp [AMap.getD, AMap.get?_put_ne m a h]

theorem AMap.get?_modify_self (m : AMap α) (k : Nat) (f : α → α) : AMap.get? (AMap.modify m k f) k = (AMap.get? m k).map f := by
  unfold AMap.modify
  cases h : AMap.get? m k with
  | none => simp [h]
  | some a => simp [AMap.get?_put_self]

theorem AMap.get?_modify_ne (m : AMap α) {k k' : Nat} (f : α → α) (h : k' ≠ k) :
    AMap.get? (AMap.modify m k f) k' = AMap.get? m k' := by
  unfold AMap.modify
  cases AMap.get? m k with
  | none => rfl
  | some a => simp [AMap.get?_put_ne m (f a) h]

end Sys2Proof
end

