-- ==== Sys2Proof/Laws/State.lean ====
section
/-! SUPPORT. What each update of the state leaves alone: one lemma per update and field, and the value of the field it writes. -/

namespace Sys2Proof.Machine

variable (s : State)

@[simp] theorem State.setCore_sys (c : Nat) (x : Core) : (s.setCore c x).sys = s.sys := rfl
@[simp] theorem State.setCore_blocks (c : Nat) (x : Core) : (s.setCore c x).blocks = s.blocks := rfl
@[simp] theorem State.setCore_clusters (c : Nat) (x : Core) : (s.setCore c x).clusters = s.clusters := rfl
@[simp] theorem State.setCore_mem (c : Nat) (x : Core) : (s.setCore c x).mem = s.mem := rfl
@[simp] theorem State.setCore_fot (c : Nat) (x : Core) : (s.setCore c x).fot = s.fot := rfl
@[simp] theorem State.setCore_pools (c : Nat) (x : Core) : (s.setCore c x).pools = s.pools := rfl
@[simp] theorem State.setCore_loc (c : Nat) (x : Core) : (s.setCore c x).loc = s.loc := rfl
@[simp] theorem State.setCore_frontiers (c : Nat) (x : Core) : (s.setCore c x).frontiers = s.frontiers := rfl
@[simp] theorem State.setCore_scrubQ (c : Nat) (x : Core) : (s.setCore c x).scrubQ = s.scrubQ := rfl
@[simp] theorem State.setCore_moves (c : Nat) (x : Core) : (s.setCore c x).moves = s.moves := rfl
@[simp] theorem State.setCore_ftWaits (c : Nat) (x : Core) : (s.setCore c x).ftWaits = s.ftWaits := rfl
@[simp] theorem State.setCore_evWaits (c : Nat) (x : Core) : (s.setCore c x).evWaits = s.evWaits := rfl
@[simp] theorem State.setCore_badLines (c : Nat) (x : Core) : (s.setCore c x).badLines = s.badLines := rfl
@[simp] theorem State.setCore_l2Bad (c : Nat) (x : Core) : (s.setCore c x).l2Bad = s.l2Bad := rfl
@[simp] theorem State.setCore_cxlGone (c : Nat) (x : Core) : (s.setCore c x).cxlGone = s.cxlGone := rfl
@[simp] theorem State.setCore_cow (c : Nat) (x : Core) : (s.setCore c x).cow = s.cow := rfl
@[simp] theorem State.setCore_rots (c : Nat) (x : Core) : (s.setCore c x).rots = s.rots := rfl
@[simp] theorem State.setCore_launches (c : Nat) (x : Core) : (s.setCore c x).launches = s.launches := rfl
@[simp] theorem State.setCore_nextLaunch (c : Nat) (x : Core) : (s.setCore c x).nextLaunch = s.nextLaunch := rfl
@[simp] theorem State.setCore_ops (c : Nat) (x : Core) : (s.setCore c x).ops = s.ops := rfl
@[simp] theorem State.setCore_nextOp (c : Nat) (x : Core) : (s.setCore c x).nextOp = s.nextOp := rfl
@[simp] theorem State.setCore_remotes (c : Nat) (x : Core) : (s.setCore c x).remotes = s.remotes := rfl
@[simp] theorem State.setCore_fetched (c : Nat) (x : Core) : (s.setCore c x).fetched = s.fetched := rfl
@[simp] theorem State.setCore_host (c : Nat) (x : Core) : (s.setCore c x).host = s.host := rfl
@[simp] theorem State.setCore_nextHandle (c : Nat) (x : Core) : (s.setCore c x).nextHandle = s.nextHandle := rfl
@[simp] theorem State.setCore_frozen (c : Nat) (x : Core) : (s.setCore c x).frozen = s.frozen := rfl
@[simp] theorem State.setCore_frozenAt (c : Nat) (x : Core) : (s.setCore c x).frozenAt = s.frozenAt := rfl
@[simp] theorem State.setCore_rings (c : Nat) (x : Core) : (s.setCore c x).rings = s.rings := rfl
@[simp] theorem State.setCore_cmds (c : Nat) (x : Core) : (s.setCore c x).cmds = s.cmds := rfl
@[simp] theorem State.setCore_nextCmd (c : Nat) (x : Core) : (s.setCore c x).nextCmd = s.nextCmd := rfl
@[simp] theorem State.setCore_tickets (c : Nat) (x : Core) : (s.setCore c x).tickets = s.tickets := rfl
@[simp] theorem State.setCore_nextTicket (c : Nat) (x : Core) : (s.setCore c x).nextTicket = s.nextTicket := rfl
@[simp] theorem State.setCore_claims (c : Nat) (x : Core) : (s.setCore c x).claims = s.claims := rfl
@[simp] theorem State.setCore_husks (c : Nat) (x : Core) : (s.setCore c x).husks = s.husks := rfl
@[simp] theorem State.setCore_keys (c : Nat) (x : Core) : (s.setCore c x).keys = s.keys := rfl
@[simp] theorem State.setCore_parts (c : Nat) (x : Core) : (s.setCore c x).parts = s.parts := rfl
@[simp] theorem State.setCore_jobs (c : Nat) (x : Core) : (s.setCore c x).jobs = s.jobs := rfl
@[simp] theorem State.setCore_domains (c : Nat) (x : Core) : (s.setCore c x).domains = s.domains := rfl
@[simp] theorem State.setCore_doms (c : Nat) (x : Core) : (s.setCore c x).doms = s.doms := rfl
@[simp] theorem State.setCore_clock (c : Nat) (x : Core) : (s.setCore c x).clock = s.clock := rfl
@[simp] theorem State.setCore_paused (c : Nat) (x : Core) : (s.setCore c x).paused = s.paused := rfl
@[simp] theorem State.setCore_tokenQueues (c : Nat) (x : Core) : (s.setCore c x).tokenQueues = s.tokenQueues := rfl
@[simp] theorem State.setCore_inbound (c : Nat) (x : Core) : (s.setCore c x).inbound = s.inbound := rfl
@[simp] theorem State.setCore_lastEvicted (c : Nat) (x : Core) : (s.setCore c x).lastEvicted = s.lastEvicted := rfl
@[simp] theorem State.setCore_outbox (c : Nat) (x : Core) : (s.setCore c x).outbox = s.outbox := rfl
@[simp] theorem State.setCore_cursor (c : Nat) (x : Core) : (s.setCore c x).cursor = s.cursor := rfl
@[simp] theorem State.setCore_heldWords (c : Nat) (x : Core) : (s.setCore c x).heldWords = s.heldWords := rfl
@[simp] theorem State.setCore_choices (c : Nat) (x : Core) : (s.setCore c x).choices = s.choices := rfl
@[simp] theorem State.setCore_fresh (c : Nat) (x : Core) : (s.setCore c x).fresh = s.fresh := rfl
@[simp] theorem State.setCore_inbox (c : Nat) (x : Core) : (s.setCore c x).inbox = s.inbox := rfl

@[simp] theorem State.setCluster_sys (c : Nat) (x : Cluster) : (s.setCluster c x).sys = s.sys := rfl
@[simp] theorem State.setCluster_blocks (c : Nat) (x : Cluster) : (s.setCluster c x).blocks = s.blocks := rfl
@[simp] theorem State.setCluster_cores (c : Nat) (x : Cluster) : (s.setCluster c x).cores = s.cores := rfl
@[simp] theorem State.setCluster_mem (c : Nat) (x : Cluster) : (s.setCluster c x).mem = s.mem := rfl
@[simp] theorem State.setCluster_fot (c : Nat) (x : Cluster) : (s.setCluster c x).fot = s.fot := rfl
@[simp] theorem State.setCluster_pools (c : Nat) (x : Cluster) : (s.setCluster c x).pools = s.pools := rfl
@[simp] theorem State.setCluster_loc (c : Nat) (x : Cluster) : (s.setCluster c x).loc = s.loc := rfl
@[simp] theorem State.setCluster_frontiers (c : Nat) (x : Cluster) : (s.setCluster c x).frontiers = s.frontiers := rfl
@[simp] theorem State.setCluster_scrubQ (c : Nat) (x : Cluster) : (s.setCluster c x).scrubQ = s.scrubQ := rfl
@[simp] theorem State.setCluster_moves (c : Nat) (x : Cluster) : (s.setCluster c x).moves = s.moves := rfl
@[simp] theorem State.setCluster_ftWaits (c : Nat) (x : Cluster) : (s.setCluster c x).ftWaits = s.ftWaits := rfl
@[simp] theorem State.setCluster_evWaits (c : Nat) (x : Cluster) : (s.setCluster c x).evWaits = s.evWaits := rfl
@[simp] theorem State.setCluster_badLines (c : Nat) (x : Cluster) : (s.setCluster c x).badLines = s.badLines := rfl
@[simp] theorem State.setCluster_l2Bad (c : Nat) (x : Cluster) : (s.setCluster c x).l2Bad = s.l2Bad := rfl
@[simp] theorem State.setCluster_cxlGone (c : Nat) (x : Cluster) : (s.setCluster c x).cxlGone = s.cxlGone := rfl
@[simp] theorem State.setCluster_cow (c : Nat) (x : Cluster) : (s.setCluster c x).cow = s.cow := rfl
@[simp] theorem State.setCluster_rots (c : Nat) (x : Cluster) : (s.setCluster c x).rots = s.rots := rfl
@[simp] theorem State.setCluster_launches (c : Nat) (x : Cluster) : (s.setCluster c x).launches = s.launches := rfl
@[simp] theorem State.setCluster_nextLaunch (c : Nat) (x : Cluster) : (s.setCluster c x).nextLaunch = s.nextLaunch := rfl
@[simp] theorem State.setCluster_ops (c : Nat) (x : Cluster) : (s.setCluster c x).ops = s.ops := rfl
@[simp] theorem State.setCluster_nextOp (c : Nat) (x : Cluster) : (s.setCluster c x).nextOp = s.nextOp := rfl
@[simp] theorem State.setCluster_remotes (c : Nat) (x : Cluster) : (s.setCluster c x).remotes = s.remotes := rfl
@[simp] theorem State.setCluster_fetched (c : Nat) (x : Cluster) : (s.setCluster c x).fetched = s.fetched := rfl
@[simp] theorem State.setCluster_host (c : Nat) (x : Cluster) : (s.setCluster c x).host = s.host := rfl
@[simp] theorem State.setCluster_nextHandle (c : Nat) (x : Cluster) : (s.setCluster c x).nextHandle = s.nextHandle := rfl
@[simp] theorem State.setCluster_frozen (c : Nat) (x : Cluster) : (s.setCluster c x).frozen = s.frozen := rfl
@[simp] theorem State.setCluster_frozenAt (c : Nat) (x : Cluster) : (s.setCluster c x).frozenAt = s.frozenAt := rfl
@[simp] theorem State.setCluster_rings (c : Nat) (x : Cluster) : (s.setCluster c x).rings = s.rings := rfl
@[simp] theorem State.setCluster_cmds (c : Nat) (x : Cluster) : (s.setCluster c x).cmds = s.cmds := rfl
@[simp] theorem State.setCluster_nextCmd (c : Nat) (x : Cluster) : (s.setCluster c x).nextCmd = s.nextCmd := rfl
@[simp] theorem State.setCluster_tickets (c : Nat) (x : Cluster) : (s.setCluster c x).tickets = s.tickets := rfl
@[simp] theorem State.setCluster_nextTicket (c : Nat) (x : Cluster) : (s.setCluster c x).nextTicket = s.nextTicket := rfl
@[simp] theorem State.setCluster_claims (c : Nat) (x : Cluster) : (s.setCluster c x).claims = s.claims := rfl
@[simp] theorem State.setCluster_husks (c : Nat) (x : Cluster) : (s.setCluster c x).husks = s.husks := rfl
@[simp] theorem State.setCluster_keys (c : Nat) (x : Cluster) : (s.setCluster c x).keys = s.keys := rfl
@[simp] theorem State.setCluster_parts (c : Nat) (x : Cluster) : (s.setCluster c x).parts = s.parts := rfl
@[simp] theorem State.setCluster_jobs (c : Nat) (x : Cluster) : (s.setCluster c x).jobs = s.jobs := rfl
@[simp] theorem State.setCluster_domains (c : Nat) (x : Cluster) : (s.setCluster c x).domains = s.domains := rfl
@[simp] theorem State.setCluster_doms (c : Nat) (x : Cluster) : (s.setCluster c x).doms = s.doms := rfl
@[simp] theorem State.setCluster_clock (c : Nat) (x : Cluster) : (s.setCluster c x).clock = s.clock := rfl
@[simp] theorem State.setCluster_paused (c : Nat) (x : Cluster) : (s.setCluster c x).paused = s.paused := rfl
@[simp] theorem State.setCluster_tokenQueues (c : Nat) (x : Cluster) : (s.setCluster c x).tokenQueues = s.tokenQueues := rfl
@[simp] theorem State.setCluster_inbound (c : Nat) (x : Cluster) : (s.setCluster c x).inbound = s.inbound := rfl
@[simp] theorem State.setCluster_lastEvicted (c : Nat) (x : Cluster) : (s.setCluster c x).lastEvicted = s.lastEvicted := rfl
@[simp] theorem State.setCluster_outbox (c : Nat) (x : Cluster) : (s.setCluster c x).outbox = s.outbox := rfl
@[simp] theorem State.setCluster_cursor (c : Nat) (x : Cluster) : (s.setCluster c x).cursor = s.cursor := rfl
@[simp] theorem State.setCluster_heldWords (c : Nat) (x : Cluster) : (s.setCluster c x).heldWords = s.heldWords := rfl
@[simp] theorem State.setCluster_choices (c : Nat) (x : Cluster) : (s.setCluster c x).choices = s.choices := rfl
@[simp] theorem State.setCluster_fresh (c : Nat) (x : Cluster) : (s.setCluster c x).fresh = s.fresh := rfl
@[simp] theorem State.setCluster_inbox (c : Nat) (x : Cluster) : (s.setCluster c x).inbox = s.inbox := rfl

@[simp] theorem State.modBlock_sys (h : Nat) (f : Block → Block) : (s.modBlock h f).sys = s.sys := rfl
@[simp] theorem State.modBlock_cores (h : Nat) (f : Block → Block) : (s.modBlock h f).cores = s.cores := rfl
@[simp] theorem State.modBlock_clusters (h : Nat) (f : Block → Block) : (s.modBlock h f).clusters = s.clusters := rfl
@[simp] theorem State.modBlock_mem (h : Nat) (f : Block → Block) : (s.modBlock h f).mem = s.mem := rfl
@[simp] theorem State.modBlock_fot (h : Nat) (f : Block → Block) : (s.modBlock h f).fot = s.fot := rfl
@[simp] theorem State.modBlock_pools (h : Nat) (f : Block → Block) : (s.modBlock h f).pools = s.pools := rfl
@[simp] theorem State.modBlock_loc (h : Nat) (f : Block → Block) : (s.modBlock h f).loc = s.loc := rfl
@[simp] theorem State.modBlock_frontiers (h : Nat) (f : Block → Block) : (s.modBlock h f).frontiers = s.frontiers := rfl
@[simp] theorem State.modBlock_scrubQ (h : Nat) (f : Block → Block) : (s.modBlock h f).scrubQ = s.scrubQ := rfl
@[simp] theorem State.modBlock_moves (h : Nat) (f : Block → Block) : (s.modBlock h f).moves = s.moves := rfl
@[simp] theorem State.modBlock_ftWaits (h : Nat) (f : Block → Block) : (s.modBlock h f).ftWaits = s.ftWaits := rfl
@[simp] theorem State.modBlock_evWaits (h : Nat) (f : Block → Block) : (s.modBlock h f).evWaits = s.evWaits := rfl
@[simp] theorem State.modBlock_badLines (h : Nat) (f : Block → Block) : (s.modBlock h f).badLines = s.badLines := rfl
@[simp] theorem State.modBlock_l2Bad (h : Nat) (f : Block → Block) : (s.modBlock h f).l2Bad = s.l2Bad := rfl
@[simp] theorem State.modBlock_cxlGone (h : Nat) (f : Block → Block) : (s.modBlock h f).cxlGone = s.cxlGone := rfl
@[simp] theorem State.modBlock_cow (h : Nat) (f : Block → Block) : (s.modBlock h f).cow = s.cow := rfl
@[simp] theorem State.modBlock_rots (h : Nat) (f : Block → Block) : (s.modBlock h f).rots = s.rots := rfl
@[simp] theorem State.modBlock_launches (h : Nat) (f : Block → Block) : (s.modBlock h f).launches = s.launches := rfl
@[simp] theorem State.modBlock_nextLaunch (h : Nat) (f : Block → Block) : (s.modBlock h f).nextLaunch = s.nextLaunch := rfl
@[simp] theorem State.modBlock_ops (h : Nat) (f : Block → Block) : (s.modBlock h f).ops = s.ops := rfl
@[simp] theorem State.modBlock_nextOp (h : Nat) (f : Block → Block) : (s.modBlock h f).nextOp = s.nextOp := rfl
@[simp] theorem State.modBlock_remotes (h : Nat) (f : Block → Block) : (s.modBlock h f).remotes = s.remotes := rfl
@[simp] theorem State.modBlock_fetched (h : Nat) (f : Block → Block) : (s.modBlock h f).fetched = s.fetched := rfl
@[simp] theorem State.modBlock_host (h : Nat) (f : Block → Block) : (s.modBlock h f).host = s.host := rfl
@[simp] theorem State.modBlock_nextHandle (h : Nat) (f : Block → Block) : (s.modBlock h f).nextHandle = s.nextHandle := rfl
@[simp] theorem State.modBlock_frozen (h : Nat) (f : Block → Block) : (s.modBlock h f).frozen = s.frozen := rfl
@[simp] theorem State.modBlock_frozenAt (h : Nat) (f : Block → Block) : (s.modBlock h f).frozenAt = s.frozenAt := rfl
@[simp] theorem State.modBlock_rings (h : Nat) (f : Block → Block) : (s.modBlock h f).rings = s.rings := rfl
@[simp] theorem State.modBlock_cmds (h : Nat) (f : Block → Block) : (s.modBlock h f).cmds = s.cmds := rfl
@[simp] theorem State.modBlock_nextCmd (h : Nat) (f : Block → Block) : (s.modBlock h f).nextCmd = s.nextCmd := rfl
@[simp] theorem State.modBlock_tickets (h : Nat) (f : Block → Block) : (s.modBlock h f).tickets = s.tickets := rfl
@[simp] theorem State.modBlock_nextTicket (h : Nat) (f : Block → Block) : (s.modBlock h f).nextTicket = s.nextTicket := rfl
@[simp] theorem State.modBlock_claims (h : Nat) (f : Block → Block) : (s.modBlock h f).claims = s.claims := rfl
@[simp] theorem State.modBlock_husks (h : Nat) (f : Block → Block) : (s.modBlock h f).husks = s.husks := rfl
@[simp] theorem State.modBlock_keys (h : Nat) (f : Block → Block) : (s.modBlock h f).keys = s.keys := rfl
@[simp] theorem State.modBlock_parts (h : Nat) (f : Block → Block) : (s.modBlock h f).parts = s.parts := rfl
@[simp] theorem State.modBlock_jobs (h : Nat) (f : Block → Block) : (s.modBlock h f).jobs = s.jobs := rfl
@[simp] theorem State.modBlock_domains (h : Nat) (f : Block → Block) : (s.modBlock h f).domains = s.domains := rfl
@[simp] theorem State.modBlock_doms (h : Nat) (f : Block → Block) : (s.modBlock h f).doms = s.doms := rfl
@[simp] theorem State.modBlock_clock (h : Nat) (f : Block → Block) : (s.modBlock h f).clock = s.clock := rfl
@[simp] theorem State.modBlock_paused (h : Nat) (f : Block → Block) : (s.modBlock h f).paused = s.paused := rfl
@[simp] theorem State.modBlock_tokenQueues (h : Nat) (f : Block → Block) : (s.modBlock h f).tokenQueues = s.tokenQueues := rfl
@[simp] theorem State.modBlock_inbound (h : Nat) (f : Block → Block) : (s.modBlock h f).inbound = s.inbound := rfl
@[simp] theorem State.modBlock_lastEvicted (h : Nat) (f : Block → Block) : (s.modBlock h f).lastEvicted = s.lastEvicted := rfl
@[simp] theorem State.modBlock_outbox (h : Nat) (f : Block → Block) : (s.modBlock h f).outbox = s.outbox := rfl
@[simp] theorem State.modBlock_cursor (h : Nat) (f : Block → Block) : (s.modBlock h f).cursor = s.cursor := rfl
@[simp] theorem State.modBlock_heldWords (h : Nat) (f : Block → Block) : (s.modBlock h f).heldWords = s.heldWords := rfl
@[simp] theorem State.modBlock_choices (h : Nat) (f : Block → Block) : (s.modBlock h f).choices = s.choices := rfl
@[simp] theorem State.modBlock_fresh (h : Nat) (f : Block → Block) : (s.modBlock h f).fresh = s.fresh := rfl
@[simp] theorem State.modBlock_inbox (h : Nat) (f : Block → Block) : (s.modBlock h f).inbox = s.inbox := rfl

@[simp] theorem State.modGroup_sys (h gi : Nat) (f : Group → Group) : (s.modGroup h gi f).sys = s.sys := rfl
@[simp] theorem State.modGroup_cores (h gi : Nat) (f : Group → Group) : (s.modGroup h gi f).cores = s.cores := rfl
@[simp] theorem State.modGroup_clusters (h gi : Nat) (f : Group → Group) : (s.modGroup h gi f).clusters = s.clusters := rfl
@[simp] theorem State.modGroup_mem (h gi : Nat) (f : Group → Group) : (s.modGroup h gi f).mem = s.mem := rfl
@[simp] theorem State.modGroup_fot (h gi : Nat) (f : Group → Group) : (s.modGroup h gi f).fot = s.fot := rfl
@[simp] theorem State.modGroup_pools (h gi : Nat) (f : Group → Group) : (s.modGroup h gi f).pools = s.pools := rfl
@[simp] theorem State.modGroup_loc (h gi : Nat) (f : Group → Group) : (s.modGroup h gi f).loc = s.loc := rfl
@[simp] theorem State.modGroup_frontiers (h gi : Nat) (f : Group → Group) : (s.modGroup h gi f).frontiers = s.frontiers := rfl
@[simp] theorem State.modGroup_scrubQ (h gi : Nat) (f : Group → Group) : (s.modGroup h gi f).scrubQ = s.scrubQ := rfl
@[simp] theorem State.modGroup_moves (h gi : Nat) (f : Group → Group) : (s.modGroup h gi f).moves = s.moves := rfl
@[simp] theorem State.modGroup_ftWaits (h gi : Nat) (f : Group → Group) : (s.modGroup h gi f).ftWaits = s.ftWaits := rfl
@[simp] theorem State.modGroup_evWaits (h gi : Nat) (f : Group → Group) : (s.modGroup h gi f).evWaits = s.evWaits := rfl
@[simp] theorem State.modGroup_badLines (h gi : Nat) (f : Group → Group) : (s.modGroup h gi f).badLines = s.badLines := rfl
@[simp] theorem State.modGroup_l2Bad (h gi : Nat) (f : Group → Group) : (s.modGroup h gi f).l2Bad = s.l2Bad := rfl
@[simp] theorem State.modGroup_cxlGone (h gi : Nat) (f : Group → Group) : (s.modGroup h gi f).cxlGone = s.cxlGone := rfl
@[simp] theorem State.modGroup_cow (h gi : Nat) (f : Group → Group) : (s.modGroup h gi f).cow = s.cow := rfl
@[simp] theorem State.modGroup_rots (h gi : Nat) (f : Group → Group) : (s.modGroup h gi f).rots = s.rots := rfl
@[simp] theorem State.modGroup_launches (h gi : Nat) (f : Group → Group) : (s.modGroup h gi f).launches = s.launches := rfl
@[simp] theorem State.modGroup_nextLaunch (h gi : Nat) (f : Group → Group) : (s.modGroup h gi f).nextLaunch = s.nextLaunch := rfl
@[simp] theorem State.modGroup_ops (h gi : Nat) (f : Group → Group) : (s.modGroup h gi f).ops = s.ops := rfl
@[simp] theorem State.modGroup_nextOp (h gi : Nat) (f : Group → Group) : (s.modGroup h gi f).nextOp = s.nextOp := rfl
@[simp] theorem State.modGroup_remotes (h gi : Nat) (f : Group → Group) : (s.modGroup h gi f).remotes = s.remotes := rfl
@[simp] theorem State.modGroup_fetched (h gi : Nat) (f : Group → Group) : (s.modGroup h gi f).fetched = s.fetched := rfl
@[simp] theorem State.modGroup_host (h gi : Nat) (f : Group → Group) : (s.modGroup h gi f).host = s.host := rfl
@[simp] theorem State.modGroup_nextHandle (h gi : Nat) (f : Group → Group) : (s.modGroup h gi f).nextHandle = s.nextHandle := rfl
@[simp] theorem State.modGroup_frozen (h gi : Nat) (f : Group → Group) : (s.modGroup h gi f).frozen = s.frozen := rfl
@[simp] theorem State.modGroup_frozenAt (h gi : Nat) (f : Group → Group) : (s.modGroup h gi f).frozenAt = s.frozenAt := rfl
@[simp] theorem State.modGroup_rings (h gi : Nat) (f : Group → Group) : (s.modGroup h gi f).rings = s.rings := rfl
@[simp] theorem State.modGroup_cmds (h gi : Nat) (f : Group → Group) : (s.modGroup h gi f).cmds = s.cmds := rfl
@[simp] theorem State.modGroup_nextCmd (h gi : Nat) (f : Group → Group) : (s.modGroup h gi f).nextCmd = s.nextCmd := rfl
@[simp] theorem State.modGroup_tickets (h gi : Nat) (f : Group → Group) : (s.modGroup h gi f).tickets = s.tickets := rfl
@[simp] theorem State.modGroup_nextTicket (h gi : Nat) (f : Group → Group) : (s.modGroup h gi f).nextTicket = s.nextTicket := rfl
@[simp] theorem State.modGroup_claims (h gi : Nat) (f : Group → Group) : (s.modGroup h gi f).claims = s.claims := rfl
@[simp] theorem State.modGroup_husks (h gi : Nat) (f : Group → Group) : (s.modGroup h gi f).husks = s.husks := rfl
@[simp] theorem State.modGroup_keys (h gi : Nat) (f : Group → Group) : (s.modGroup h gi f).keys = s.keys := rfl
@[simp] theorem State.modGroup_parts (h gi : Nat) (f : Group → Group) : (s.modGroup h gi f).parts = s.parts := rfl
@[simp] theorem State.modGroup_jobs (h gi : Nat) (f : Group → Group) : (s.modGroup h gi f).jobs = s.jobs := rfl
@[simp] theorem State.modGroup_domains (h gi : Nat) (f : Group → Group) : (s.modGroup h gi f).domains = s.domains := rfl
@[simp] theorem State.modGroup_doms (h gi : Nat) (f : Group → Group) : (s.modGroup h gi f).doms = s.doms := rfl
@[simp] theorem State.modGroup_clock (h gi : Nat) (f : Group → Group) : (s.modGroup h gi f).clock = s.clock := rfl
@[simp] theorem State.modGroup_paused (h gi : Nat) (f : Group → Group) : (s.modGroup h gi f).paused = s.paused := rfl
@[simp] theorem State.modGroup_tokenQueues (h gi : Nat) (f : Group → Group) : (s.modGroup h gi f).tokenQueues = s.tokenQueues := rfl
@[simp] theorem State.modGroup_inbound (h gi : Nat) (f : Group → Group) : (s.modGroup h gi f).inbound = s.inbound := rfl
@[simp] theorem State.modGroup_lastEvicted (h gi : Nat) (f : Group → Group) : (s.modGroup h gi f).lastEvicted = s.lastEvicted := rfl
@[simp] theorem State.modGroup_outbox (h gi : Nat) (f : Group → Group) : (s.modGroup h gi f).outbox = s.outbox := rfl
@[simp] theorem State.modGroup_cursor (h gi : Nat) (f : Group → Group) : (s.modGroup h gi f).cursor = s.cursor := rfl
@[simp] theorem State.modGroup_heldWords (h gi : Nat) (f : Group → Group) : (s.modGroup h gi f).heldWords = s.heldWords := rfl
@[simp] theorem State.modGroup_choices (h gi : Nat) (f : Group → Group) : (s.modGroup h gi f).choices = s.choices := rfl
@[simp] theorem State.modGroup_fresh (h gi : Nat) (f : Group → Group) : (s.modGroup h gi f).fresh = s.fresh := rfl
@[simp] theorem State.modGroup_inbox (h gi : Nat) (f : Group → Group) : (s.modGroup h gi f).inbox = s.inbox := rfl

@[simp] theorem State.tick_sys : (s.tick).sys = s.sys := rfl
@[simp] theorem State.tick_blocks : (s.tick).blocks = s.blocks := rfl
@[simp] theorem State.tick_cores : (s.tick).cores = s.cores := rfl
@[simp] theorem State.tick_clusters : (s.tick).clusters = s.clusters := rfl
@[simp] theorem State.tick_mem : (s.tick).mem = s.mem := rfl
@[simp] theorem State.tick_fot : (s.tick).fot = s.fot := rfl
@[simp] theorem State.tick_pools : (s.tick).pools = s.pools := rfl
@[simp] theorem State.tick_loc : (s.tick).loc = s.loc := rfl
@[simp] theorem State.tick_frontiers : (s.tick).frontiers = s.frontiers := rfl
@[simp] theorem State.tick_scrubQ : (s.tick).scrubQ = s.scrubQ := rfl
@[simp] theorem State.tick_moves : (s.tick).moves = s.moves := rfl
@[simp] theorem State.tick_ftWaits : (s.tick).ftWaits = s.ftWaits := rfl
@[simp] theorem State.tick_evWaits : (s.tick).evWaits = s.evWaits := rfl
@[simp] theorem State.tick_badLines : (s.tick).badLines = s.badLines := rfl
@[simp] theorem State.tick_l2Bad : (s.tick).l2Bad = s.l2Bad := rfl
@[simp] theorem State.tick_cxlGone : (s.tick).cxlGone = s.cxlGone := rfl
@[simp] theorem State.tick_cow : (s.tick).cow = s.cow := rfl
@[simp] theorem State.tick_rots : (s.tick).rots = s.rots := rfl
@[simp] theorem State.tick_launches : (s.tick).launches = s.launches := rfl
@[simp] theorem State.tick_nextLaunch : (s.tick).nextLaunch = s.nextLaunch := rfl
@[simp] theorem State.tick_ops : (s.tick).ops = s.ops := rfl
@[simp] theorem State.tick_nextOp : (s.tick).nextOp = s.nextOp := rfl
@[simp] theorem State.tick_remotes : (s.tick).remotes = s.remotes := rfl
@[simp] theorem State.tick_fetched : (s.tick).fetched = s.fetched := rfl
@[simp] theorem State.tick_host : (s.tick).host = s.host := rfl
@[simp] theorem State.tick_nextHandle : (s.tick).nextHandle = s.nextHandle := rfl
@[simp] theorem State.tick_frozen : (s.tick).frozen = s.frozen := rfl
@[simp] theorem State.tick_frozenAt : (s.tick).frozenAt = s.frozenAt := rfl
@[simp] theorem State.tick_rings : (s.tick).rings = s.rings := rfl
@[simp] theorem State.tick_cmds : (s.tick).cmds = s.cmds := rfl
@[simp] theorem State.tick_nextCmd : (s.tick).nextCmd = s.nextCmd := rfl
@[simp] theorem State.tick_tickets : (s.tick).tickets = s.tickets := rfl
@[simp] theorem State.tick_nextTicket : (s.tick).nextTicket = s.nextTicket := rfl
@[simp] theorem State.tick_claims : (s.tick).claims = s.claims := rfl
@[simp] theorem State.tick_husks : (s.tick).husks = s.husks := rfl
@[simp] theorem State.tick_keys : (s.tick).keys = s.keys := rfl
@[simp] theorem State.tick_parts : (s.tick).parts = s.parts := rfl
@[simp] theorem State.tick_jobs : (s.tick).jobs = s.jobs := rfl
@[simp] theorem State.tick_domains : (s.tick).domains = s.domains := rfl
@[simp] theorem State.tick_doms : (s.tick).doms = s.doms := rfl
@[simp] theorem State.tick_clock : (s.tick).clock = s.clock := rfl
@[simp] theorem State.tick_paused : (s.tick).paused = s.paused := rfl
@[simp] theorem State.tick_tokenQueues : (s.tick).tokenQueues = s.tokenQueues := rfl
@[simp] theorem State.tick_inbound : (s.tick).inbound = s.inbound := rfl
@[simp] theorem State.tick_lastEvicted : (s.tick).lastEvicted = s.lastEvicted := rfl
@[simp] theorem State.tick_outbox : (s.tick).outbox = s.outbox := rfl
@[simp] theorem State.tick_cursor : (s.tick).cursor = s.cursor := rfl
@[simp] theorem State.tick_heldWords : (s.tick).heldWords = s.heldWords := rfl
@[simp] theorem State.tick_choices : (s.tick).choices = s.choices := rfl
@[simp] theorem State.tick_inbox : (s.tick).inbox = s.inbox := rfl

@[simp] theorem State.setReg_blocks (inst num : Nat) (x : W32) : (s.setReg inst num x).blocks = s.blocks := rfl
@[simp] theorem State.setReg_cores (inst num : Nat) (x : W32) : (s.setReg inst num x).cores = s.cores := rfl
@[simp] theorem State.setReg_clusters (inst num : Nat) (x : W32) : (s.setReg inst num x).clusters = s.clusters := rfl
@[simp] theorem State.setReg_mem (inst num : Nat) (x : W32) : (s.setReg inst num x).mem = s.mem := rfl
@[simp] theorem State.setReg_fot (inst num : Nat) (x : W32) : (s.setReg inst num x).fot = s.fot := rfl
@[simp] theorem State.setReg_pools (inst num : Nat) (x : W32) : (s.setReg inst num x).pools = s.pools := rfl
@[simp] theorem State.setReg_loc (inst num : Nat) (x : W32) : (s.setReg inst num x).loc = s.loc := rfl
@[simp] theorem State.setReg_frontiers (inst num : Nat) (x : W32) : (s.setReg inst num x).frontiers = s.frontiers := rfl
@[simp] theorem State.setReg_scrubQ (inst num : Nat) (x : W32) : (s.setReg inst num x).scrubQ = s.scrubQ := rfl
@[simp] theorem State.setReg_moves (inst num : Nat) (x : W32) : (s.setReg inst num x).moves = s.moves := rfl
@[simp] theorem State.setReg_ftWaits (inst num : Nat) (x : W32) : (s.setReg inst num x).ftWaits = s.ftWaits := rfl
@[simp] theorem State.setReg_evWaits (inst num : Nat) (x : W32) : (s.setReg inst num x).evWaits = s.evWaits := rfl
@[simp] theorem State.setReg_badLines (inst num : Nat) (x : W32) : (s.setReg inst num x).badLines = s.badLines := rfl
@[simp] theorem State.setReg_l2Bad (inst num : Nat) (x : W32) : (s.setReg inst num x).l2Bad = s.l2Bad := rfl
@[simp] theorem State.setReg_cxlGone (inst num : Nat) (x : W32) : (s.setReg inst num x).cxlGone = s.cxlGone := rfl
@[simp] theorem State.setReg_cow (inst num : Nat) (x : W32) : (s.setReg inst num x).cow = s.cow := rfl
@[simp] theorem State.setReg_rots (inst num : Nat) (x : W32) : (s.setReg inst num x).rots = s.rots := rfl
@[simp] theorem State.setReg_launches (inst num : Nat) (x : W32) : (s.setReg inst num x).launches = s.launches := rfl
@[simp] theorem State.setReg_nextLaunch (inst num : Nat) (x : W32) : (s.setReg inst num x).nextLaunch = s.nextLaunch := rfl
@[simp] theorem State.setReg_ops (inst num : Nat) (x : W32) : (s.setReg inst num x).ops = s.ops := rfl
@[simp] theorem State.setReg_nextOp (inst num : Nat) (x : W32) : (s.setReg inst num x).nextOp = s.nextOp := rfl
@[simp] theorem State.setReg_remotes (inst num : Nat) (x : W32) : (s.setReg inst num x).remotes = s.remotes := rfl
@[simp] theorem State.setReg_fetched (inst num : Nat) (x : W32) : (s.setReg inst num x).fetched = s.fetched := rfl
@[simp] theorem State.setReg_host (inst num : Nat) (x : W32) : (s.setReg inst num x).host = s.host := rfl
@[simp] theorem State.setReg_nextHandle (inst num : Nat) (x : W32) : (s.setReg inst num x).nextHandle = s.nextHandle := rfl
@[simp] theorem State.setReg_frozen (inst num : Nat) (x : W32) : (s.setReg inst num x).frozen = s.frozen := rfl
@[simp] theorem State.setReg_frozenAt (inst num : Nat) (x : W32) : (s.setReg inst num x).frozenAt = s.frozenAt := rfl
@[simp] theorem State.setReg_rings (inst num : Nat) (x : W32) : (s.setReg inst num x).rings = s.rings := rfl
@[simp] theorem State.setReg_cmds (inst num : Nat) (x : W32) : (s.setReg inst num x).cmds = s.cmds := rfl
@[simp] theorem State.setReg_nextCmd (inst num : Nat) (x : W32) : (s.setReg inst num x).nextCmd = s.nextCmd := rfl
@[simp] theorem State.setReg_tickets (inst num : Nat) (x : W32) : (s.setReg inst num x).tickets = s.tickets := rfl
@[simp] theorem State.setReg_nextTicket (inst num : Nat) (x : W32) : (s.setReg inst num x).nextTicket = s.nextTicket := rfl
@[simp] theorem State.setReg_claims (inst num : Nat) (x : W32) : (s.setReg inst num x).claims = s.claims := rfl
@[simp] theorem State.setReg_husks (inst num : Nat) (x : W32) : (s.setReg inst num x).husks = s.husks := rfl
@[simp] theorem State.setReg_keys (inst num : Nat) (x : W32) : (s.setReg inst num x).keys = s.keys := rfl
@[simp] theorem State.setReg_parts (inst num : Nat) (x : W32) : (s.setReg inst num x).parts = s.parts := rfl
@[simp] theorem State.setReg_jobs (inst num : Nat) (x : W32) : (s.setReg inst num x).jobs = s.jobs := rfl
@[simp] theorem State.setReg_domains (inst num : Nat) (x : W32) : (s.setReg inst num x).domains = s.domains := rfl
@[simp] theorem State.setReg_doms (inst num : Nat) (x : W32) : (s.setReg inst num x).doms = s.doms := rfl
@[simp] theorem State.setReg_clock (inst num : Nat) (x : W32) : (s.setReg inst num x).clock = s.clock := rfl
@[simp] theorem State.setReg_paused (inst num : Nat) (x : W32) : (s.setReg inst num x).paused = s.paused := rfl
@[simp] theorem State.setReg_tokenQueues (inst num : Nat) (x : W32) : (s.setReg inst num x).tokenQueues = s.tokenQueues := rfl
@[simp] theorem State.setReg_inbound (inst num : Nat) (x : W32) : (s.setReg inst num x).inbound = s.inbound := rfl
@[simp] theorem State.setReg_lastEvicted (inst num : Nat) (x : W32) : (s.setReg inst num x).lastEvicted = s.lastEvicted := rfl
@[simp] theorem State.setReg_outbox (inst num : Nat) (x : W32) : (s.setReg inst num x).outbox = s.outbox := rfl
@[simp] theorem State.setReg_cursor (inst num : Nat) (x : W32) : (s.setReg inst num x).cursor = s.cursor := rfl
@[simp] theorem State.setReg_heldWords (inst num : Nat) (x : W32) : (s.setReg inst num x).heldWords = s.heldWords := rfl
@[simp] theorem State.setReg_choices (inst num : Nat) (x : W32) : (s.setReg inst num x).choices = s.choices := rfl
@[simp] theorem State.setReg_fresh (inst num : Nat) (x : W32) : (s.setReg inst num x).fresh = s.fresh := rfl
@[simp] theorem State.setReg_inbox (inst num : Nat) (x : W32) : (s.setReg inst num x).inbox = s.inbox := rfl

@[simp] theorem State.setRegF_blocks (inst num lo len x : Nat) : (s.setRegF inst num lo len x).blocks = s.blocks := rfl
@[simp] theorem State.setRegF_cores (inst num lo len x : Nat) : (s.setRegF inst num lo len x).cores = s.cores := rfl
@[simp] theorem State.setRegF_clusters (inst num lo len x : Nat) : (s.setRegF inst num lo len x).clusters = s.clusters := rfl
@[simp] theorem State.setRegF_mem (inst num lo len x : Nat) : (s.setRegF inst num lo len x).mem = s.mem := rfl
@[simp] theorem State.setRegF_fot (inst num lo len x : Nat) : (s.setRegF inst num lo len x).fot = s.fot := rfl
@[simp] theorem State.setRegF_pools (inst num lo len x : Nat) : (s.setRegF inst num lo len x).pools = s.pools := rfl
@[simp] theorem State.setRegF_loc (inst num lo len x : Nat) : (s.setRegF inst num lo len x).loc = s.loc := rfl
@[simp] theorem State.setRegF_frontiers (inst num lo len x : Nat) : (s.setRegF inst num lo len x).frontiers = s.frontiers := rfl
@[simp] theorem State.setRegF_scrubQ (inst num lo len x : Nat) : (s.setRegF inst num lo len x).scrubQ = s.scrubQ := rfl
@[simp] theorem State.setRegF_moves (inst num lo len x : Nat) : (s.setRegF inst num lo len x).moves = s.moves := rfl
@[simp] theorem State.setRegF_ftWaits (inst num lo len x : Nat) : (s.setRegF inst num lo len x).ftWaits = s.ftWaits := rfl
@[simp] theorem State.setRegF_evWaits (inst num lo len x : Nat) : (s.setRegF inst num lo len x).evWaits = s.evWaits := rfl
@[simp] theorem State.setRegF_badLines (inst num lo len x : Nat) : (s.setRegF inst num lo len x).badLines = s.badLines := rfl
@[simp] theorem State.setRegF_l2Bad (inst num lo len x : Nat) : (s.setRegF inst num lo len x).l2Bad = s.l2Bad := rfl
@[simp] theorem State.setRegF_cxlGone (inst num lo len x : Nat) : (s.setRegF inst num lo len x).cxlGone = s.cxlGone := rfl
@[simp] theorem State.setRegF_cow (inst num lo len x : Nat) : (s.setRegF inst num lo len x).cow = s.cow := rfl
@[simp] theorem State.setRegF_rots (inst num lo len x : Nat) : (s.setRegF inst num lo len x).rots = s.rots := rfl
@[simp] theorem State.setRegF_launches (inst num lo len x : Nat) : (s.setRegF inst num lo len x).launches = s.launches := rfl
@[simp] theorem State.setRegF_nextLaunch (inst num lo len x : Nat) : (s.setRegF inst num lo len x).nextLaunch = s.nextLaunch := rfl
@[simp] theorem State.setRegF_ops (inst num lo len x : Nat) : (s.setRegF inst num lo len x).ops = s.ops := rfl
@[simp] theorem State.setRegF_nextOp (inst num lo len x : Nat) : (s.setRegF inst num lo len x).nextOp = s.nextOp := rfl
@[simp] theorem State.setRegF_remotes (inst num lo len x : Nat) : (s.setRegF inst num lo len x).remotes = s.remotes := rfl
@[simp] theorem State.setRegF_fetched (inst num lo len x : Nat) : (s.setRegF inst num lo len x).fetched = s.fetched := rfl
@[simp] theorem State.setRegF_host (inst num lo len x : Nat) : (s.setRegF inst num lo len x).host = s.host := rfl
@[simp] theorem State.setRegF_nextHandle (inst num lo len x : Nat) : (s.setRegF inst num lo len x).nextHandle = s.nextHandle := rfl
@[simp] theorem State.setRegF_frozen (inst num lo len x : Nat) : (s.setRegF inst num lo len x).frozen = s.frozen := rfl
@[simp] theorem State.setRegF_frozenAt (inst num lo len x : Nat) : (s.setRegF inst num lo len x).frozenAt = s.frozenAt := rfl
@[simp] theorem State.setRegF_rings (inst num lo len x : Nat) : (s.setRegF inst num lo len x).rings = s.rings := rfl
@[simp] theorem State.setRegF_cmds (inst num lo len x : Nat) : (s.setRegF inst num lo len x).cmds = s.cmds := rfl
@[simp] theorem State.setRegF_nextCmd (inst num lo len x : Nat) : (s.setRegF inst num lo len x).nextCmd = s.nextCmd := rfl
@[simp] theorem State.setRegF_tickets (inst num lo len x : Nat) : (s.setRegF inst num lo len x).tickets = s.tickets := rfl
@[simp] theorem State.setRegF_nextTicket (inst num lo len x : Nat) : (s.setRegF inst num lo len x).nextTicket = s.nextTicket := rfl
@[simp] theorem State.setRegF_claims (inst num lo len x : Nat) : (s.setRegF inst num lo len x).claims = s.claims := rfl
@[simp] theorem State.setRegF_husks (inst num lo len x : Nat) : (s.setRegF inst num lo len x).husks = s.husks := rfl
@[simp] theorem State.setRegF_keys (inst num lo len x : Nat) : (s.setRegF inst num lo len x).keys = s.keys := rfl
@[simp] theorem State.setRegF_parts (inst num lo len x : Nat) : (s.setRegF inst num lo len x).parts = s.parts := rfl
@[simp] theorem State.setRegF_jobs (inst num lo len x : Nat) : (s.setRegF inst num lo len x).jobs = s.jobs := rfl
@[simp] theorem State.setRegF_domains (inst num lo len x : Nat) : (s.setRegF inst num lo len x).domains = s.domains := rfl
@[simp] theorem State.setRegF_doms (inst num lo len x : Nat) : (s.setRegF inst num lo len x).doms = s.doms := rfl
@[simp] theorem State.setRegF_clock (inst num lo len x : Nat) : (s.setRegF inst num lo len x).clock = s.clock := rfl
@[simp] theorem State.setRegF_paused (inst num lo len x : Nat) : (s.setRegF inst num lo len x).paused = s.paused := rfl
@[simp] theorem State.setRegF_tokenQueues (inst num lo len x : Nat) : (s.setRegF inst num lo len x).tokenQueues = s.tokenQueues := rfl
@[simp] theorem State.setRegF_inbound (inst num lo len x : Nat) : (s.setRegF inst num lo len x).inbound = s.inbound := rfl
@[simp] theorem State.setRegF_lastEvicted (inst num lo len x : Nat) : (s.setRegF inst num lo len x).lastEvicted = s.lastEvicted := rfl
@[simp] theorem State.setRegF_outbox (inst num lo len x : Nat) : (s.setRegF inst num lo len x).outbox = s.outbox := rfl
@[simp] theorem State.setRegF_cursor (inst num lo len x : Nat) : (s.setRegF inst num lo len x).cursor = s.cursor := rfl
@[simp] theorem State.setRegF_heldWords (inst num lo len x : Nat) : (s.setRegF inst num lo len x).heldWords = s.heldWords := rfl
@[simp] theorem State.setRegF_choices (inst num lo len x : Nat) : (s.setRegF inst num lo len x).choices = s.choices := rfl
@[simp] theorem State.setRegF_fresh (inst num lo len x : Nat) : (s.setRegF inst num lo len x).fresh = s.fresh := rfl
@[simp] theorem State.setRegF_inbox (inst num lo len x : Nat) : (s.setRegF inst num lo len x).inbox = s.inbox := rfl

@[simp] theorem State.setReg64_blocks (inst num : Nat) (x : W64) : (s.setReg64 inst num x).blocks = s.blocks := rfl
@[simp] theorem State.setReg64_cores (inst num : Nat) (x : W64) : (s.setReg64 inst num x).cores = s.cores := rfl
@[simp] theorem State.setReg64_clusters (inst num : Nat) (x : W64) : (s.setReg64 inst num x).clusters = s.clusters := rfl
@[simp] theorem State.setReg64_mem (inst num : Nat) (x : W64) : (s.setReg64 inst num x).mem = s.mem := rfl
@[simp] theorem State.setReg64_fot (inst num : Nat) (x : W64) : (s.setReg64 inst num x).fot = s.fot := rfl
@[simp] theorem State.setReg64_pools (inst num : Nat) (x : W64) : (s.setReg64 inst num x).pools = s.pools := rfl
@[simp] theorem State.setReg64_loc (inst num : Nat) (x : W64) : (s.setReg64 inst num x).loc = s.loc := rfl
@[simp] theorem State.setReg64_frontiers (inst num : Nat) (x : W64) : (s.setReg64 inst num x).frontiers = s.frontiers := rfl
@[simp] theorem State.setReg64_scrubQ (inst num : Nat) (x : W64) : (s.setReg64 inst num x).scrubQ = s.scrubQ := rfl
@[simp] theorem State.setReg64_moves (inst num : Nat) (x : W64) : (s.setReg64 inst num x).moves = s.moves := rfl
@[simp] theorem State.setReg64_ftWaits (inst num : Nat) (x : W64) : (s.setReg64 inst num x).ftWaits = s.ftWaits := rfl
@[simp] theorem State.setReg64_evWaits (inst num : Nat) (x : W64) : (s.setReg64 inst num x).evWaits = s.evWaits := rfl
@[simp] theorem State.setReg64_badLines (inst num : Nat) (x : W64) : (s.setReg64 inst num x).badLines = s.badLines := rfl
@[simp] theorem State.setReg64_l2Bad (inst num : Nat) (x : W64) : (s.setReg64 inst num x).l2Bad = s.l2Bad := rfl
@[simp] theorem State.setReg64_cxlGone (inst num : Nat) (x : W64) : (s.setReg64 inst num x).cxlGone = s.cxlGone := rfl
@[simp] theorem State.setReg64_cow (inst num : Nat) (x : W64) : (s.setReg64 inst num x).cow = s.cow := rfl
@[simp] theorem State.setReg64_rots (inst num : Nat) (x : W64) : (s.setReg64 inst num x).rots = s.rots := rfl
@[simp] theorem State.setReg64_launches (inst num : Nat) (x : W64) : (s.setReg64 inst num x).launches = s.launches := rfl
@[simp] theorem State.setReg64_nextLaunch (inst num : Nat) (x : W64) : (s.setReg64 inst num x).nextLaunch = s.nextLaunch := rfl
@[simp] theorem State.setReg64_ops (inst num : Nat) (x : W64) : (s.setReg64 inst num x).ops = s.ops := rfl
@[simp] theorem State.setReg64_nextOp (inst num : Nat) (x : W64) : (s.setReg64 inst num x).nextOp = s.nextOp := rfl
@[simp] theorem State.setReg64_remotes (inst num : Nat) (x : W64) : (s.setReg64 inst num x).remotes = s.remotes := rfl
@[simp] theorem State.setReg64_fetched (inst num : Nat) (x : W64) : (s.setReg64 inst num x).fetched = s.fetched := rfl
@[simp] theorem State.setReg64_host (inst num : Nat) (x : W64) : (s.setReg64 inst num x).host = s.host := rfl
@[simp] theorem State.setReg64_nextHandle (inst num : Nat) (x : W64) : (s.setReg64 inst num x).nextHandle = s.nextHandle := rfl
@[simp] theorem State.setReg64_frozen (inst num : Nat) (x : W64) : (s.setReg64 inst num x).frozen = s.frozen := rfl
@[simp] theorem State.setReg64_frozenAt (inst num : Nat) (x : W64) : (s.setReg64 inst num x).frozenAt = s.frozenAt := rfl
@[simp] theorem State.setReg64_rings (inst num : Nat) (x : W64) : (s.setReg64 inst num x).rings = s.rings := rfl
@[simp] theorem State.setReg64_cmds (inst num : Nat) (x : W64) : (s.setReg64 inst num x).cmds = s.cmds := rfl
@[simp] theorem State.setReg64_nextCmd (inst num : Nat) (x : W64) : (s.setReg64 inst num x).nextCmd = s.nextCmd := rfl
@[simp] theorem State.setReg64_tickets (inst num : Nat) (x : W64) : (s.setReg64 inst num x).tickets = s.tickets := rfl
@[simp] theorem State.setReg64_nextTicket (inst num : Nat) (x : W64) : (s.setReg64 inst num x).nextTicket = s.nextTicket := rfl
@[simp] theorem State.setReg64_claims (inst num : Nat) (x : W64) : (s.setReg64 inst num x).claims = s.claims := rfl
@[simp] theorem State.setReg64_husks (inst num : Nat) (x : W64) : (s.setReg64 inst num x).husks = s.husks := rfl
@[simp] theorem State.setReg64_keys (inst num : Nat) (x : W64) : (s.setReg64 inst num x).keys = s.keys := rfl
@[simp] theorem State.setReg64_parts (inst num : Nat) (x : W64) : (s.setReg64 inst num x).parts = s.parts := rfl
@[simp] theorem State.setReg64_jobs (inst num : Nat) (x : W64) : (s.setReg64 inst num x).jobs = s.jobs := rfl
@[simp] theorem State.setReg64_domains (inst num : Nat) (x : W64) : (s.setReg64 inst num x).domains = s.domains := rfl
@[simp] theorem State.setReg64_doms (inst num : Nat) (x : W64) : (s.setReg64 inst num x).doms = s.doms := rfl
@[simp] theorem State.setReg64_clock (inst num : Nat) (x : W64) : (s.setReg64 inst num x).clock = s.clock := rfl
@[simp] theorem State.setReg64_paused (inst num : Nat) (x : W64) : (s.setReg64 inst num x).paused = s.paused := rfl
@[simp] theorem State.setReg64_tokenQueues (inst num : Nat) (x : W64) : (s.setReg64 inst num x).tokenQueues = s.tokenQueues := rfl
@[simp] theorem State.setReg64_inbound (inst num : Nat) (x : W64) : (s.setReg64 inst num x).inbound = s.inbound := rfl
@[simp] theorem State.setReg64_lastEvicted (inst num : Nat) (x : W64) : (s.setReg64 inst num x).lastEvicted = s.lastEvicted := rfl
@[simp] theorem State.setReg64_outbox (inst num : Nat) (x : W64) : (s.setReg64 inst num x).outbox = s.outbox := rfl
@[simp] theorem State.setReg64_cursor (inst num : Nat) (x : W64) : (s.setReg64 inst num x).cursor = s.cursor := rfl
@[simp] theorem State.setReg64_heldWords (inst num : Nat) (x : W64) : (s.setReg64 inst num x).heldWords = s.heldWords := rfl
@[simp] theorem State.setReg64_choices (inst num : Nat) (x : W64) : (s.setReg64 inst num x).choices = s.choices := rfl
@[simp] theorem State.setReg64_fresh (inst num : Nat) (x : W64) : (s.setReg64 inst num x).fresh = s.fresh := rfl
@[simp] theorem State.setReg64_inbox (inst num : Nat) (x : W64) : (s.setReg64 inst num x).inbox = s.inbox := rfl

@[simp] theorem State.addReg_blocks (inst num lo len x : Nat) : (s.addReg inst num lo len x).blocks = s.blocks := rfl
@[simp] theorem State.addReg_cores (inst num lo len x : Nat) : (s.addReg inst num lo len x).cores = s.cores := rfl
@[simp] theorem State.addReg_clusters (inst num lo len x : Nat) : (s.addReg inst num lo len x).clusters = s.clusters := rfl
@[simp] theorem State.addReg_mem (inst num lo len x : Nat) : (s.addReg inst num lo len x).mem = s.mem := rfl
@[simp] theorem State.addReg_fot (inst num lo len x : Nat) : (s.addReg inst num lo len x).fot = s.fot := rfl
@[simp] theorem State.addReg_pools (inst num lo len x : Nat) : (s.addReg inst num lo len x).pools = s.pools := rfl
@[simp] theorem State.addReg_loc (inst num lo len x : Nat) : (s.addReg inst num lo len x).loc = s.loc := rfl
@[simp] theorem State.addReg_frontiers (inst num lo len x : Nat) : (s.addReg inst num lo len x).frontiers = s.frontiers := rfl
@[simp] theorem State.addReg_scrubQ (inst num lo len x : Nat) : (s.addReg inst num lo len x).scrubQ = s.scrubQ := rfl
@[simp] theorem State.addReg_moves (inst num lo len x : Nat) : (s.addReg inst num lo len x).moves = s.moves := rfl
@[simp] theorem State.addReg_ftWaits (inst num lo len x : Nat) : (s.addReg inst num lo len x).ftWaits = s.ftWaits := rfl
@[simp] theorem State.addReg_evWaits (inst num lo len x : Nat) : (s.addReg inst num lo len x).evWaits = s.evWaits := rfl
@[simp] theorem State.addReg_badLines (inst num lo len x : Nat) : (s.addReg inst num lo len x).badLines = s.badLines := rfl
@[simp] theorem State.addReg_l2Bad (inst num lo len x : Nat) : (s.addReg inst num lo len x).l2Bad = s.l2Bad := rfl
@[simp] theorem State.addReg_cxlGone (inst num lo len x : Nat) : (s.addReg inst num lo len x).cxlGone = s.cxlGone := rfl
@[simp] theorem State.addReg_cow (inst num lo len x : Nat) : (s.addReg inst num lo len x).cow = s.cow := rfl
@[simp] theorem State.addReg_rots (inst num lo len x : Nat) : (s.addReg inst num lo len x).rots = s.rots := rfl
@[simp] theorem State.addReg_launches (inst num lo len x : Nat) : (s.addReg inst num lo len x).launches = s.launches := rfl
@[simp] theorem State.addReg_nextLaunch (inst num lo len x : Nat) : (s.addReg inst num lo len x).nextLaunch = s.nextLaunch := rfl
@[simp] theorem State.addReg_ops (inst num lo len x : Nat) : (s.addReg inst num lo len x).ops = s.ops := rfl
@[simp] theorem State.addReg_nextOp (inst num lo len x : Nat) : (s.addReg inst num lo len x).nextOp = s.nextOp := rfl
@[simp] theorem State.addReg_remotes (inst num lo len x : Nat) : (s.addReg inst num lo len x).remotes = s.remotes := rfl
@[simp] theorem State.addReg_fetched (inst num lo len x : Nat) : (s.addReg inst num lo len x).fetched = s.fetched := rfl
@[simp] theorem State.addReg_host (inst num lo len x : Nat) : (s.addReg inst num lo len x).host = s.host := rfl
@[simp] theorem State.addReg_nextHandle (inst num lo len x : Nat) : (s.addReg inst num lo len x).nextHandle = s.nextHandle := rfl
@[simp] theorem State.addReg_frozen (inst num lo len x : Nat) : (s.addReg inst num lo len x).frozen = s.frozen := rfl
@[simp] theorem State.addReg_frozenAt (inst num lo len x : Nat) : (s.addReg inst num lo len x).frozenAt = s.frozenAt := rfl
@[simp] theorem State.addReg_rings (inst num lo len x : Nat) : (s.addReg inst num lo len x).rings = s.rings := rfl
@[simp] theorem State.addReg_cmds (inst num lo len x : Nat) : (s.addReg inst num lo len x).cmds = s.cmds := rfl
@[simp] theorem State.addReg_nextCmd (inst num lo len x : Nat) : (s.addReg inst num lo len x).nextCmd = s.nextCmd := rfl
@[simp] theorem State.addReg_tickets (inst num lo len x : Nat) : (s.addReg inst num lo len x).tickets = s.tickets := rfl
@[simp] theorem State.addReg_nextTicket (inst num lo len x : Nat) : (s.addReg inst num lo len x).nextTicket = s.nextTicket := rfl
@[simp] theorem State.addReg_claims (inst num lo len x : Nat) : (s.addReg inst num lo len x).claims = s.claims := rfl
@[simp] theorem State.addReg_husks (inst num lo len x : Nat) : (s.addReg inst num lo len x).husks = s.husks := rfl
@[simp] theorem State.addReg_keys (inst num lo len x : Nat) : (s.addReg inst num lo len x).keys = s.keys := rfl
@[simp] theorem State.addReg_parts (inst num lo len x : Nat) : (s.addReg inst num lo len x).parts = s.parts := rfl
@[simp] theorem State.addReg_jobs (inst num lo len x : Nat) : (s.addReg inst num lo len x).jobs = s.jobs := rfl
@[simp] theorem State.addReg_domains (inst num lo len x : Nat) : (s.addReg inst num lo len x).domains = s.domains := rfl
@[simp] theorem State.addReg_doms (inst num lo len x : Nat) : (s.addReg inst num lo len x).doms = s.doms := rfl
@[simp] theorem State.addReg_clock (inst num lo len x : Nat) : (s.addReg inst num lo len x).clock = s.clock := rfl
@[simp] theorem State.addReg_paused (inst num lo len x : Nat) : (s.addReg inst num lo len x).paused = s.paused := rfl
@[simp] theorem State.addReg_tokenQueues (inst num lo len x : Nat) : (s.addReg inst num lo len x).tokenQueues = s.tokenQueues := rfl
@[simp] theorem State.addReg_inbound (inst num lo len x : Nat) : (s.addReg inst num lo len x).inbound = s.inbound := rfl
@[simp] theorem State.addReg_lastEvicted (inst num lo len x : Nat) : (s.addReg inst num lo len x).lastEvicted = s.lastEvicted := rfl
@[simp] theorem State.addReg_outbox (inst num lo len x : Nat) : (s.addReg inst num lo len x).outbox = s.outbox := rfl
@[simp] theorem State.addReg_cursor (inst num lo len x : Nat) : (s.addReg inst num lo len x).cursor = s.cursor := rfl
@[simp] theorem State.addReg_heldWords (inst num lo len x : Nat) : (s.addReg inst num lo len x).heldWords = s.heldWords := rfl
@[simp] theorem State.addReg_choices (inst num lo len x : Nat) : (s.addReg inst num lo len x).choices = s.choices := rfl
@[simp] theorem State.addReg_fresh (inst num lo len x : Nat) : (s.addReg inst num lo len x).fresh = s.fresh := rfl
@[simp] theorem State.addReg_inbox (inst num lo len x : Nat) : (s.addReg inst num lo len x).inbox = s.inbox := rfl

@[simp] theorem State.addReg64_blocks (inst num x : Nat) : (s.addReg64 inst num x).blocks = s.blocks := rfl
@[simp] theorem State.addReg64_cores (inst num x : Nat) : (s.addReg64 inst num x).cores = s.cores := rfl
@[simp] theorem State.addReg64_clusters (inst num x : Nat) : (s.addReg64 inst num x).clusters = s.clusters := rfl
@[simp] theorem State.addReg64_mem (inst num x : Nat) : (s.addReg64 inst num x).mem = s.mem := rfl
@[simp] theorem State.addReg64_fot (inst num x : Nat) : (s.addReg64 inst num x).fot = s.fot := rfl
@[simp] theorem State.addReg64_pools (inst num x : Nat) : (s.addReg64 inst num x).pools = s.pools := rfl
@[simp] theorem State.addReg64_loc (inst num x : Nat) : (s.addReg64 inst num x).loc = s.loc := rfl
@[simp] theorem State.addReg64_frontiers (inst num x : Nat) : (s.addReg64 inst num x).frontiers = s.frontiers := rfl
@[simp] theorem State.addReg64_scrubQ (inst num x : Nat) : (s.addReg64 inst num x).scrubQ = s.scrubQ := rfl
@[simp] theorem State.addReg64_moves (inst num x : Nat) : (s.addReg64 inst num x).moves = s.moves := rfl
@[simp] theorem State.addReg64_ftWaits (inst num x : Nat) : (s.addReg64 inst num x).ftWaits = s.ftWaits := rfl
@[simp] theorem State.addReg64_evWaits (inst num x : Nat) : (s.addReg64 inst num x).evWaits = s.evWaits := rfl
@[simp] theorem State.addReg64_badLines (inst num x : Nat) : (s.addReg64 inst num x).badLines = s.badLines := rfl
@[simp] theorem State.addReg64_l2Bad (inst num x : Nat) : (s.addReg64 inst num x).l2Bad = s.l2Bad := rfl
@[simp] theorem State.addReg64_cxlGone (inst num x : Nat) : (s.addReg64 inst num x).cxlGone = s.cxlGone := rfl
@[simp] theorem State.addReg64_cow (inst num x : Nat) : (s.addReg64 inst num x).cow = s.cow := rfl
@[simp] theorem State.addReg64_rots (inst num x : Nat) : (s.addReg64 inst num x).rots = s.rots := rfl
@[simp] theorem State.addReg64_launches (inst num x : Nat) : (s.addReg64 inst num x).launches = s.launches := rfl
@[simp] theorem State.addReg64_nextLaunch (inst num x : Nat) : (s.addReg64 inst num x).nextLaunch = s.nextLaunch := rfl
@[simp] theorem State.addReg64_ops (inst num x : Nat) : (s.addReg64 inst num x).ops = s.ops := rfl
@[simp] theorem State.addReg64_nextOp (inst num x : Nat) : (s.addReg64 inst num x).nextOp = s.nextOp := rfl
@[simp] theorem State.addReg64_remotes (inst num x : Nat) : (s.addReg64 inst num x).remotes = s.remotes := rfl
@[simp] theorem State.addReg64_fetched (inst num x : Nat) : (s.addReg64 inst num x).fetched = s.fetched := rfl
@[simp] theorem State.addReg64_host (inst num x : Nat) : (s.addReg64 inst num x).host = s.host := rfl
@[simp] theorem State.addReg64_nextHandle (inst num x : Nat) : (s.addReg64 inst num x).nextHandle = s.nextHandle := rfl
@[simp] theorem State.addReg64_frozen (inst num x : Nat) : (s.addReg64 inst num x).frozen = s.frozen := rfl
@[simp] theorem State.addReg64_frozenAt (inst num x : Nat) : (s.addReg64 inst num x).frozenAt = s.frozenAt := rfl
@[simp] theorem State.addReg64_rings (inst num x : Nat) : (s.addReg64 inst num x).rings = s.rings := rfl
@[simp] theorem State.addReg64_cmds (inst num x : Nat) : (s.addReg64 inst num x).cmds = s.cmds := rfl
@[simp] theorem State.addReg64_nextCmd (inst num x : Nat) : (s.addReg64 inst num x).nextCmd = s.nextCmd := rfl
@[simp] theorem State.addReg64_tickets (inst num x : Nat) : (s.addReg64 inst num x).tickets = s.tickets := rfl
@[simp] theorem State.addReg64_nextTicket (inst num x : Nat) : (s.addReg64 inst num x).nextTicket = s.nextTicket := rfl
@[simp] theorem State.addReg64_claims (inst num x : Nat) : (s.addReg64 inst num x).claims = s.claims := rfl
@[simp] theorem State.addReg64_husks (inst num x : Nat) : (s.addReg64 inst num x).husks = s.husks := rfl
@[simp] theorem State.addReg64_keys (inst num x : Nat) : (s.addReg64 inst num x).keys = s.keys := rfl
@[simp] theorem State.addReg64_parts (inst num x : Nat) : (s.addReg64 inst num x).parts = s.parts := rfl
@[simp] theorem State.addReg64_jobs (inst num x : Nat) : (s.addReg64 inst num x).jobs = s.jobs := rfl
@[simp] theorem State.addReg64_domains (inst num x : Nat) : (s.addReg64 inst num x).domains = s.domains := rfl
@[simp] theorem State.addReg64_doms (inst num x : Nat) : (s.addReg64 inst num x).doms = s.doms := rfl
@[simp] theorem State.addReg64_clock (inst num x : Nat) : (s.addReg64 inst num x).clock = s.clock := rfl
@[simp] theorem State.addReg64_paused (inst num x : Nat) : (s.addReg64 inst num x).paused = s.paused := rfl
@[simp] theorem State.addReg64_tokenQueues (inst num x : Nat) : (s.addReg64 inst num x).tokenQueues = s.tokenQueues := rfl
@[simp] theorem State.addReg64_inbound (inst num x : Nat) : (s.addReg64 inst num x).inbound = s.inbound := rfl
@[simp] theorem State.addReg64_lastEvicted (inst num x : Nat) : (s.addReg64 inst num x).lastEvicted = s.lastEvicted := rfl
@[simp] theorem State.addReg64_outbox (inst num x : Nat) : (s.addReg64 inst num x).outbox = s.outbox := rfl
@[simp] theorem State.addReg64_cursor (inst num x : Nat) : (s.addReg64 inst num x).cursor = s.cursor := rfl
@[simp] theorem State.addReg64_heldWords (inst num x : Nat) : (s.addReg64 inst num x).heldWords = s.heldWords := rfl
@[simp] theorem State.addReg64_choices (inst num x : Nat) : (s.addReg64 inst num x).choices = s.choices := rfl
@[simp] theorem State.addReg64_fresh (inst num x : Nat) : (s.addReg64 inst num x).fresh = s.fresh := rfl
@[simp] theorem State.addReg64_inbox (inst num x : Nat) : (s.addReg64 inst num x).inbox = s.inbox := rfl

@[simp] theorem State.setRot_sys (r : Nat) (x : Rot) : (s.setRot r x).sys = s.sys := rfl
@[simp] theorem State.setRot_blocks (r : Nat) (x : Rot) : (s.setRot r x).blocks = s.blocks := rfl
@[simp] theorem State.setRot_cores (r : Nat) (x : Rot) : (s.setRot r x).cores = s.cores := rfl
@[simp] theorem State.setRot_clusters (r : Nat) (x : Rot) : (s.setRot r x).clusters = s.clusters := rfl
@[simp] theorem State.setRot_mem (r : Nat) (x : Rot) : (s.setRot r x).mem = s.mem := rfl
@[simp] theorem State.setRot_fot (r : Nat) (x : Rot) : (s.setRot r x).fot = s.fot := rfl
@[simp] theorem State.setRot_pools (r : Nat) (x : Rot) : (s.setRot r x).pools = s.pools := rfl
@[simp] theorem State.setRot_loc (r : Nat) (x : Rot) : (s.setRot r x).loc = s.loc := rfl
@[simp] theorem State.setRot_frontiers (r : Nat) (x : Rot) : (s.setRot r x).frontiers = s.frontiers := rfl
@[simp] theorem State.setRot_scrubQ (r : Nat) (x : Rot) : (s.setRot r x).scrubQ = s.scrubQ := rfl
@[simp] theorem State.setRot_moves (r : Nat) (x : Rot) : (s.setRot r x).moves = s.moves := rfl
@[simp] theorem State.setRot_ftWaits (r : Nat) (x : Rot) : (s.setRot r x).ftWaits = s.ftWaits := rfl
@[simp] theorem State.setRot_evWaits (r : Nat) (x : Rot) : (s.setRot r x).evWaits = s.evWaits := rfl
@[simp] theorem State.setRot_badLines (r : Nat) (x : Rot) : (s.setRot r x).badLines = s.badLines := rfl
@[simp] theorem State.setRot_l2Bad (r : Nat) (x : Rot) : (s.setRot r x).l2Bad = s.l2Bad := rfl
@[simp] theorem State.setRot_cxlGone (r : Nat) (x : Rot) : (s.setRot r x).cxlGone = s.cxlGone := rfl
@[simp] theorem State.setRot_cow (r : Nat) (x : Rot) : (s.setRot r x).cow = s.cow := rfl
@[simp] theorem State.setRot_launches (r : Nat) (x : Rot) : (s.setRot r x).launches = s.launches := rfl
@[simp] theorem State.setRot_nextLaunch (r : Nat) (x : Rot) : (s.setRot r x).nextLaunch = s.nextLaunch := rfl
@[simp] theorem State.setRot_ops (r : Nat) (x : Rot) : (s.setRot r x).ops = s.ops := rfl
@[simp] theorem State.setRot_nextOp (r : Nat) (x : Rot) : (s.setRot r x).nextOp = s.nextOp := rfl
@[simp] theorem State.setRot_remotes (r : Nat) (x : Rot) : (s.setRot r x).remotes = s.remotes := rfl
@[simp] theorem State.setRot_fetched (r : Nat) (x : Rot) : (s.setRot r x).fetched = s.fetched := rfl
@[simp] theorem State.setRot_host (r : Nat) (x : Rot) : (s.setRot r x).host = s.host := rfl
@[simp] theorem State.setRot_nextHandle (r : Nat) (x : Rot) : (s.setRot r x).nextHandle = s.nextHandle := rfl
@[simp] theorem State.setRot_frozen (r : Nat) (x : Rot) : (s.setRot r x).frozen = s.frozen := rfl
@[simp] theorem State.setRot_frozenAt (r : Nat) (x : Rot) : (s.setRot r x).frozenAt = s.frozenAt := rfl
@[simp] theorem State.setRot_rings (r : Nat) (x : Rot) : (s.setRot r x).rings = s.rings := rfl
@[simp] theorem State.setRot_cmds (r : Nat) (x : Rot) : (s.setRot r x).cmds = s.cmds := rfl
@[simp] theorem State.setRot_nextCmd (r : Nat) (x : Rot) : (s.setRot r x).nextCmd = s.nextCmd := rfl
@[simp] theorem State.setRot_tickets (r : Nat) (x : Rot) : (s.setRot r x).tickets = s.tickets := rfl
@[simp] theorem State.setRot_nextTicket (r : Nat) (x : Rot) : (s.setRot r x).nextTicket = s.nextTicket := rfl
@[simp] theorem State.setRot_claims (r : Nat) (x : Rot) : (s.setRot r x).claims = s.claims := rfl
@[simp] theorem State.setRot_husks (r : Nat) (x : Rot) : (s.setRot r x).husks = s.husks := rfl
@[simp] theorem State.setRot_keys (r : Nat) (x : Rot) : (s.setRot r x).keys = s.keys := rfl
@[simp] theorem State.setRot_parts (r : Nat) (x : Rot) : (s.setRot r x).parts = s.parts := rfl
@[simp] theorem State.setRot_jobs (r : Nat) (x : Rot) : (s.setRot r x).jobs = s.jobs := rfl
@[simp] theorem State.setRot_domains (r : Nat) (x : Rot) : (s.setRot r x).domains = s.domains := rfl
@[simp] theorem State.setRot_doms (r : Nat) (x : Rot) : (s.setRot r x).doms = s.doms := rfl
@[simp] theorem State.setRot_clock (r : Nat) (x : Rot) : (s.setRot r x).clock = s.clock := rfl
@[simp] theorem State.setRot_paused (r : Nat) (x : Rot) : (s.setRot r x).paused = s.paused := rfl
@[simp] theorem State.setRot_tokenQueues (r : Nat) (x : Rot) : (s.setRot r x).tokenQueues = s.tokenQueues := rfl
@[simp] theorem State.setRot_inbound (r : Nat) (x : Rot) : (s.setRot r x).inbound = s.inbound := rfl
@[simp] theorem State.setRot_lastEvicted (r : Nat) (x : Rot) : (s.setRot r x).lastEvicted = s.lastEvicted := rfl
@[simp] theorem State.setRot_outbox (r : Nat) (x : Rot) : (s.setRot r x).outbox = s.outbox := rfl
@[simp] theorem State.setRot_cursor (r : Nat) (x : Rot) : (s.setRot r x).cursor = s.cursor := rfl
@[simp] theorem State.setRot_heldWords (r : Nat) (x : Rot) : (s.setRot r x).heldWords = s.heldWords := rfl
@[simp] theorem State.setRot_choices (r : Nat) (x : Rot) : (s.setRot r x).choices = s.choices := rfl
@[simp] theorem State.setRot_fresh (r : Nat) (x : Rot) : (s.setRot r x).fresh = s.fresh := rfl
@[simp] theorem State.setRot_inbox (r : Nat) (x : Rot) : (s.setRot r x).inbox = s.inbox := rfl

@[simp] theorem State.setFt_sys (f : Nat) (e : W64) : (s.setFt f e).sys = s.sys := rfl
@[simp] theorem State.setFt_blocks (f : Nat) (e : W64) : (s.setFt f e).blocks = s.blocks := rfl
@[simp] theorem State.setFt_cores (f : Nat) (e : W64) : (s.setFt f e).cores = s.cores := rfl
@[simp] theorem State.setFt_clusters (f : Nat) (e : W64) : (s.setFt f e).clusters = s.clusters := rfl
@[simp] theorem State.setFt_mem (f : Nat) (e : W64) : (s.setFt f e).mem = s.mem := rfl
@[simp] theorem State.setFt_pools (f : Nat) (e : W64) : (s.setFt f e).pools = s.pools := rfl
@[simp] theorem State.setFt_loc (f : Nat) (e : W64) : (s.setFt f e).loc = s.loc := rfl
@[simp] theorem State.setFt_frontiers (f : Nat) (e : W64) : (s.setFt f e).frontiers = s.frontiers := rfl
@[simp] theorem State.setFt_scrubQ (f : Nat) (e : W64) : (s.setFt f e).scrubQ = s.scrubQ := rfl
@[simp] theorem State.setFt_moves (f : Nat) (e : W64) : (s.setFt f e).moves = s.moves := rfl
@[simp] theorem State.setFt_ftWaits (f : Nat) (e : W64) : (s.setFt f e).ftWaits = s.ftWaits := rfl
@[simp] theorem State.setFt_evWaits (f : Nat) (e : W64) : (s.setFt f e).evWaits = s.evWaits := rfl
@[simp] theorem State.setFt_badLines (f : Nat) (e : W64) : (s.setFt f e).badLines = s.badLines := rfl
@[simp] theorem State.setFt_l2Bad (f : Nat) (e : W64) : (s.setFt f e).l2Bad = s.l2Bad := rfl
@[simp] theorem State.setFt_cxlGone (f : Nat) (e : W64) : (s.setFt f e).cxlGone = s.cxlGone := rfl
@[simp] theorem State.setFt_cow (f : Nat) (e : W64) : (s.setFt f e).cow = s.cow := rfl
@[simp] theorem State.setFt_rots (f : Nat) (e : W64) : (s.setFt f e).rots = s.rots := rfl
@[simp] theorem State.setFt_launches (f : Nat) (e : W64) : (s.setFt f e).launches = s.launches := rfl
@[simp] theorem State.setFt_nextLaunch (f : Nat) (e : W64) : (s.setFt f e).nextLaunch = s.nextLaunch := rfl
@[simp] theorem State.setFt_ops (f : Nat) (e : W64) : (s.setFt f e).ops = s.ops := rfl
@[simp] theorem State.setFt_nextOp (f : Nat) (e : W64) : (s.setFt f e).nextOp = s.nextOp := rfl
@[simp] theorem State.setFt_remotes (f : Nat) (e : W64) : (s.setFt f e).remotes = s.remotes := rfl
@[simp] theorem State.setFt_fetched (f : Nat) (e : W64) : (s.setFt f e).fetched = s.fetched := rfl
@[simp] theorem State.setFt_host (f : Nat) (e : W64) : (s.setFt f e).host = s.host := rfl
@[simp] theorem State.setFt_nextHandle (f : Nat) (e : W64) : (s.setFt f e).nextHandle = s.nextHandle := rfl
@[simp] theorem State.setFt_frozen (f : Nat) (e : W64) : (s.setFt f e).frozen = s.frozen := rfl
@[simp] theorem State.setFt_frozenAt (f : Nat) (e : W64) : (s.setFt f e).frozenAt = s.frozenAt := rfl
@[simp] theorem State.setFt_rings (f : Nat) (e : W64) : (s.setFt f e).rings = s.rings := rfl
@[simp] theorem State.setFt_cmds (f : Nat) (e : W64) : (s.setFt f e).cmds = s.cmds := rfl
@[simp] theorem State.setFt_nextCmd (f : Nat) (e : W64) : (s.setFt f e).nextCmd = s.nextCmd := rfl
@[simp] theorem State.setFt_tickets (f : Nat) (e : W64) : (s.setFt f e).tickets = s.tickets := rfl
@[simp] theorem State.setFt_nextTicket (f : Nat) (e : W64) : (s.setFt f e).nextTicket = s.nextTicket := rfl
@[simp] theorem State.setFt_claims (f : Nat) (e : W64) : (s.setFt f e).claims = s.claims := rfl
@[simp] theorem State.setFt_husks (f : Nat) (e : W64) : (s.setFt f e).husks = s.husks := rfl
@[simp] theorem State.setFt_keys (f : Nat) (e : W64) : (s.setFt f e).keys = s.keys := rfl
@[simp] theorem State.setFt_parts (f : Nat) (e : W64) : (s.setFt f e).parts = s.parts := rfl
@[simp] theorem State.setFt_jobs (f : Nat) (e : W64) : (s.setFt f e).jobs = s.jobs := rfl
@[simp] theorem State.setFt_domains (f : Nat) (e : W64) : (s.setFt f e).domains = s.domains := rfl
@[simp] theorem State.setFt_doms (f : Nat) (e : W64) : (s.setFt f e).doms = s.doms := rfl
@[simp] theorem State.setFt_clock (f : Nat) (e : W64) : (s.setFt f e).clock = s.clock := rfl
@[simp] theorem State.setFt_paused (f : Nat) (e : W64) : (s.setFt f e).paused = s.paused := rfl
@[simp] theorem State.setFt_tokenQueues (f : Nat) (e : W64) : (s.setFt f e).tokenQueues = s.tokenQueues := rfl
@[simp] theorem State.setFt_inbound (f : Nat) (e : W64) : (s.setFt f e).inbound = s.inbound := rfl
@[simp] theorem State.setFt_lastEvicted (f : Nat) (e : W64) : (s.setFt f e).lastEvicted = s.lastEvicted := rfl
@[simp] theorem State.setFt_outbox (f : Nat) (e : W64) : (s.setFt f e).outbox = s.outbox := rfl
@[simp] theorem State.setFt_cursor (f : Nat) (e : W64) : (s.setFt f e).cursor = s.cursor := rfl
@[simp] theorem State.setFt_heldWords (f : Nat) (e : W64) : (s.setFt f e).heldWords = s.heldWords := rfl
@[simp] theorem State.setFt_choices (f : Nat) (e : W64) : (s.setFt f e).choices = s.choices := rfl
@[simp] theorem State.setFt_fresh (f : Nat) (e : W64) : (s.setFt f e).fresh = s.fresh := rfl
@[simp] theorem State.setFt_inbox (f : Nat) (e : W64) : (s.setFt f e).inbox = s.inbox := rfl

@[simp] theorem State.setLoc_sys (f : Nat) (l : Loc) : (s.setLoc f l).sys = s.sys := rfl
@[simp] theorem State.setLoc_blocks (f : Nat) (l : Loc) : (s.setLoc f l).blocks = s.blocks := rfl
@[simp] theorem State.setLoc_cores (f : Nat) (l : Loc) : (s.setLoc f l).cores = s.cores := rfl
@[simp] theorem State.setLoc_clusters (f : Nat) (l : Loc) : (s.setLoc f l).clusters = s.clusters := rfl
@[simp] theorem State.setLoc_mem (f : Nat) (l : Loc) : (s.setLoc f l).mem = s.mem := rfl
@[simp] theorem State.setLoc_fot (f : Nat) (l : Loc) : (s.setLoc f l).fot = s.fot := rfl
@[simp] theorem State.setLoc_pools (f : Nat) (l : Loc) : (s.setLoc f l).pools = s.pools := rfl
@[simp] theorem State.setLoc_frontiers (f : Nat) (l : Loc) : (s.setLoc f l).frontiers = s.frontiers := rfl
@[simp] theorem State.setLoc_scrubQ (f : Nat) (l : Loc) : (s.setLoc f l).scrubQ = s.scrubQ := rfl
@[simp] theorem State.setLoc_moves (f : Nat) (l : Loc) : (s.setLoc f l).moves = s.moves := rfl
@[simp] theorem State.setLoc_ftWaits (f : Nat) (l : Loc) : (s.setLoc f l).ftWaits = s.ftWaits := rfl
@[simp] theorem State.setLoc_evWaits (f : Nat) (l : Loc) : (s.setLoc f l).evWaits = s.evWaits := rfl
@[simp] theorem State.setLoc_badLines (f : Nat) (l : Loc) : (s.setLoc f l).badLines = s.badLines := rfl
@[simp] theorem State.setLoc_l2Bad (f : Nat) (l : Loc) : (s.setLoc f l).l2Bad = s.l2Bad := rfl
@[simp] theorem State.setLoc_cxlGone (f : Nat) (l : Loc) : (s.setLoc f l).cxlGone = s.cxlGone := rfl
@[simp] theorem State.setLoc_cow (f : Nat) (l : Loc) : (s.setLoc f l).cow = s.cow := rfl
@[simp] theorem State.setLoc_rots (f : Nat) (l : Loc) : (s.setLoc f l).rots = s.rots := rfl
@[simp] theorem State.setLoc_launches (f : Nat) (l : Loc) : (s.setLoc f l).launches = s.launches := rfl
@[simp] theorem State.setLoc_nextLaunch (f : Nat) (l : Loc) : (s.setLoc f l).nextLaunch = s.nextLaunch := rfl
@[simp] theorem State.setLoc_ops (f : Nat) (l : Loc) : (s.setLoc f l).ops = s.ops := rfl
@[simp] theorem State.setLoc_nextOp (f : Nat) (l : Loc) : (s.setLoc f l).nextOp = s.nextOp := rfl
@[simp] theorem State.setLoc_remotes (f : Nat) (l : Loc) : (s.setLoc f l).remotes = s.remotes := rfl
@[simp] theorem State.setLoc_fetched (f : Nat) (l : Loc) : (s.setLoc f l).fetched = s.fetched := rfl
@[simp] theorem State.setLoc_host (f : Nat) (l : Loc) : (s.setLoc f l).host = s.host := rfl
@[simp] theorem State.setLoc_nextHandle (f : Nat) (l : Loc) : (s.setLoc f l).nextHandle = s.nextHandle := rfl
@[simp] theorem State.setLoc_frozen (f : Nat) (l : Loc) : (s.setLoc f l).frozen = s.frozen := rfl
@[simp] theorem State.setLoc_frozenAt (f : Nat) (l : Loc) : (s.setLoc f l).frozenAt = s.frozenAt := rfl
@[simp] theorem State.setLoc_rings (f : Nat) (l : Loc) : (s.setLoc f l).rings = s.rings := rfl
@[simp] theorem State.setLoc_cmds (f : Nat) (l : Loc) : (s.setLoc f l).cmds = s.cmds := rfl
@[simp] theorem State.setLoc_nextCmd (f : Nat) (l : Loc) : (s.setLoc f l).nextCmd = s.nextCmd := rfl
@[simp] theorem State.setLoc_tickets (f : Nat) (l : Loc) : (s.setLoc f l).tickets = s.tickets := rfl
@[simp] theorem State.setLoc_nextTicket (f : Nat) (l : Loc) : (s.setLoc f l).nextTicket = s.nextTicket := rfl
@[simp] theorem State.setLoc_claims (f : Nat) (l : Loc) : (s.setLoc f l).claims = s.claims := rfl
@[simp] theorem State.setLoc_husks (f : Nat) (l : Loc) : (s.setLoc f l).husks = s.husks := rfl
@[simp] theorem State.setLoc_keys (f : Nat) (l : Loc) : (s.setLoc f l).keys = s.keys := rfl
@[simp] theorem State.setLoc_parts (f : Nat) (l : Loc) : (s.setLoc f l).parts = s.parts := rfl
@[simp] theorem State.setLoc_jobs (f : Nat) (l : Loc) : (s.setLoc f l).jobs = s.jobs := rfl
@[simp] theorem State.setLoc_domains (f : Nat) (l : Loc) : (s.setLoc f l).domains = s.domains := rfl
@[simp] theorem State.setLoc_doms (f : Nat) (l : Loc) : (s.setLoc f l).doms = s.doms := rfl
@[simp] theorem State.setLoc_clock (f : Nat) (l : Loc) : (s.setLoc f l).clock = s.clock := rfl
@[simp] theorem State.setLoc_paused (f : Nat) (l : Loc) : (s.setLoc f l).paused = s.paused := rfl
@[simp] theorem State.setLoc_tokenQueues (f : Nat) (l : Loc) : (s.setLoc f l).tokenQueues = s.tokenQueues := rfl
@[simp] theorem State.setLoc_inbound (f : Nat) (l : Loc) : (s.setLoc f l).inbound = s.inbound := rfl
@[simp] theorem State.setLoc_lastEvicted (f : Nat) (l : Loc) : (s.setLoc f l).lastEvicted = s.lastEvicted := rfl
@[simp] theorem State.setLoc_outbox (f : Nat) (l : Loc) : (s.setLoc f l).outbox = s.outbox := rfl
@[simp] theorem State.setLoc_cursor (f : Nat) (l : Loc) : (s.setLoc f l).cursor = s.cursor := rfl
@[simp] theorem State.setLoc_heldWords (f : Nat) (l : Loc) : (s.setLoc f l).heldWords = s.heldWords := rfl
@[simp] theorem State.setLoc_choices (f : Nat) (l : Loc) : (s.setLoc f l).choices = s.choices := rfl
@[simp] theorem State.setLoc_fresh (f : Nat) (l : Loc) : (s.setLoc f l).fresh = s.fresh := rfl
@[simp] theorem State.setLoc_inbox (f : Nat) (l : Loc) : (s.setLoc f l).inbox = s.inbox := rfl

@[simp] theorem State.setPart_sys (p : Nat) (x : Part) : (s.setPart p x).sys = s.sys := rfl
@[simp] theorem State.setPart_blocks (p : Nat) (x : Part) : (s.setPart p x).blocks = s.blocks := rfl
@[simp] theorem State.setPart_cores (p : Nat) (x : Part) : (s.setPart p x).cores = s.cores := rfl
@[simp] theorem State.setPart_clusters (p : Nat) (x : Part) : (s.setPart p x).clusters = s.clusters := rfl
@[simp] theorem State.setPart_mem (p : Nat) (x : Part) : (s.setPart p x).mem = s.mem := rfl
@[simp] theorem State.setPart_fot (p : Nat) (x : Part) : (s.setPart p x).fot = s.fot := rfl
@[simp] theorem State.setPart_pools (p : Nat) (x : Part) : (s.setPart p x).pools = s.pools := rfl
@[simp] theorem State.setPart_loc (p : Nat) (x : Part) : (s.setPart p x).loc = s.loc := rfl
@[simp] theorem State.setPart_frontiers (p : Nat) (x : Part) : (s.setPart p x).frontiers = s.frontiers := rfl
@[simp] theorem State.setPart_scrubQ (p : Nat) (x : Part) : (s.setPart p x).scrubQ = s.scrubQ := rfl
@[simp] theorem State.setPart_moves (p : Nat) (x : Part) : (s.setPart p x).moves = s.moves := rfl
@[simp] theorem State.setPart_ftWaits (p : Nat) (x : Part) : (s.setPart p x).ftWaits = s.ftWaits := rfl
@[simp] theorem State.setPart_evWaits (p : Nat) (x : Part) : (s.setPart p x).evWaits = s.evWaits := rfl
@[simp] theorem State.setPart_badLines (p : Nat) (x : Part) : (s.setPart p x).badLines = s.badLines := rfl
@[simp] theorem State.setPart_l2Bad (p : Nat) (x : Part) : (s.setPart p x).l2Bad = s.l2Bad := rfl
@[simp] theorem State.setPart_cxlGone (p : Nat) (x : Part) : (s.setPart p x).cxlGone = s.cxlGone := rfl
@[simp] theorem State.setPart_cow (p : Nat) (x : Part) : (s.setPart p x).cow = s.cow := rfl
@[simp] theorem State.setPart_rots (p : Nat) (x : Part) : (s.setPart p x).rots = s.rots := rfl
@[simp] theorem State.setPart_launches (p : Nat) (x : Part) : (s.setPart p x).launches = s.launches := rfl
@[simp] theorem State.setPart_nextLaunch (p : Nat) (x : Part) : (s.setPart p x).nextLaunch = s.nextLaunch := rfl
@[simp] theorem State.setPart_ops (p : Nat) (x : Part) : (s.setPart p x).ops = s.ops := rfl
@[simp] theorem State.setPart_nextOp (p : Nat) (x : Part) : (s.setPart p x).nextOp = s.nextOp := rfl
@[simp] theorem State.setPart_remotes (p : Nat) (x : Part) : (s.setPart p x).remotes = s.remotes := rfl
@[simp] theorem State.setPart_fetched (p : Nat) (x : Part) : (s.setPart p x).fetched = s.fetched := rfl
@[simp] theorem State.setPart_host (p : Nat) (x : Part) : (s.setPart p x).host = s.host := rfl
@[simp] theorem State.setPart_nextHandle (p : Nat) (x : Part) : (s.setPart p x).nextHandle = s.nextHandle := rfl
@[simp] theorem State.setPart_frozen (p : Nat) (x : Part) : (s.setPart p x).frozen = s.frozen := rfl
@[simp] theorem State.setPart_frozenAt (p : Nat) (x : Part) : (s.setPart p x).frozenAt = s.frozenAt := rfl
@[simp] theorem State.setPart_rings (p : Nat) (x : Part) : (s.setPart p x).rings = s.rings := rfl
@[simp] theorem State.setPart_cmds (p : Nat) (x : Part) : (s.setPart p x).cmds = s.cmds := rfl
@[simp] theorem State.setPart_nextCmd (p : Nat) (x : Part) : (s.setPart p x).nextCmd = s.nextCmd := rfl
@[simp] theorem State.setPart_tickets (p : Nat) (x : Part) : (s.setPart p x).tickets = s.tickets := rfl
@[simp] theorem State.setPart_nextTicket (p : Nat) (x : Part) : (s.setPart p x).nextTicket = s.nextTicket := rfl
@[simp] theorem State.setPart_claims (p : Nat) (x : Part) : (s.setPart p x).claims = s.claims := rfl
@[simp] theorem State.setPart_husks (p : Nat) (x : Part) : (s.setPart p x).husks = s.husks := rfl
@[simp] theorem State.setPart_keys (p : Nat) (x : Part) : (s.setPart p x).keys = s.keys := rfl
@[simp] theorem State.setPart_jobs (p : Nat) (x : Part) : (s.setPart p x).jobs = s.jobs := rfl
@[simp] theorem State.setPart_domains (p : Nat) (x : Part) : (s.setPart p x).domains = s.domains := rfl
@[simp] theorem State.setPart_doms (p : Nat) (x : Part) : (s.setPart p x).doms = s.doms := rfl
@[simp] theorem State.setPart_clock (p : Nat) (x : Part) : (s.setPart p x).clock = s.clock := rfl
@[simp] theorem State.setPart_paused (p : Nat) (x : Part) : (s.setPart p x).paused = s.paused := rfl
@[simp] theorem State.setPart_tokenQueues (p : Nat) (x : Part) : (s.setPart p x).tokenQueues = s.tokenQueues := rfl
@[simp] theorem State.setPart_inbound (p : Nat) (x : Part) : (s.setPart p x).inbound = s.inbound := rfl
@[simp] theorem State.setPart_lastEvicted (p : Nat) (x : Part) : (s.setPart p x).lastEvicted = s.lastEvicted := rfl
@[simp] theorem State.setPart_outbox (p : Nat) (x : Part) : (s.setPart p x).outbox = s.outbox := rfl
@[simp] theorem State.setPart_cursor (p : Nat) (x : Part) : (s.setPart p x).cursor = s.cursor := rfl
@[simp] theorem State.setPart_heldWords (p : Nat) (x : Part) : (s.setPart p x).heldWords = s.heldWords := rfl
@[simp] theorem State.setPart_choices (p : Nat) (x : Part) : (s.setPart p x).choices = s.choices := rfl
@[simp] theorem State.setPart_fresh (p : Nat) (x : Part) : (s.setPart p x).fresh = s.fresh := rfl
@[simp] theorem State.setPart_inbox (p : Nat) (x : Part) : (s.setPart p x).inbox = s.inbox := rfl

@[simp] theorem State.setRing_sys (r : Nat) (x : Ring) : (s.setRing r x).sys = s.sys := rfl
@[simp] theorem State.setRing_blocks (r : Nat) (x : Ring) : (s.setRing r x).blocks = s.blocks := rfl
@[simp] theorem State.setRing_cores (r : Nat) (x : Ring) : (s.setRing r x).cores = s.cores := rfl
@[simp] theorem State.setRing_clusters (r : Nat) (x : Ring) : (s.setRing r x).clusters = s.clusters := rfl
@[simp] theorem State.setRing_mem (r : Nat) (x : Ring) : (s.setRing r x).mem = s.mem := rfl
@[simp] theorem State.setRing_fot (r : Nat) (x : Ring) : (s.setRing r x).fot = s.fot := rfl
@[simp] theorem State.setRing_pools (r : Nat) (x : Ring) : (s.setRing r x).pools = s.pools := rfl
@[simp] theorem State.setRing_loc (r : Nat) (x : Ring) : (s.setRing r x).loc = s.loc := rfl
@[simp] theorem State.setRing_frontiers (r : Nat) (x : Ring) : (s.setRing r x).frontiers = s.frontiers := rfl
@[simp] theorem State.setRing_scrubQ (r : Nat) (x : Ring) : (s.setRing r x).scrubQ = s.scrubQ := rfl
@[simp] theorem State.setRing_moves (r : Nat) (x : Ring) : (s.setRing r x).moves = s.moves := rfl
@[simp] theorem State.setRing_ftWaits (r : Nat) (x : Ring) : (s.setRing r x).ftWaits = s.ftWaits := rfl
@[simp] theorem State.setRing_evWaits (r : Nat) (x : Ring) : (s.setRing r x).evWaits = s.evWaits := rfl
@[simp] theorem State.setRing_badLines (r : Nat) (x : Ring) : (s.setRing r x).badLines = s.badLines := rfl
@[simp] theorem State.setRing_l2Bad (r : Nat) (x : Ring) : (s.setRing r x).l2Bad = s.l2Bad := rfl
@[simp] theorem State.setRing_cxlGone (r : Nat) (x : Ring) : (s.setRing r x).cxlGone = s.cxlGone := rfl
@[simp] theorem State.setRing_cow (r : Nat) (x : Ring) : (s.setRing r x).cow = s.cow := rfl
@[simp] theorem State.setRing_rots (r : Nat) (x : Ring) : (s.setRing r x).rots = s.rots := rfl
@[simp] theorem State.setRing_launches (r : Nat) (x : Ring) : (s.setRing r x).launches = s.launches := rfl
@[simp] theorem State.setRing_nextLaunch (r : Nat) (x : Ring) : (s.setRing r x).nextLaunch = s.nextLaunch := rfl
@[simp] theorem State.setRing_ops (r : Nat) (x : Ring) : (s.setRing r x).ops = s.ops := rfl
@[simp] theorem State.setRing_nextOp (r : Nat) (x : Ring) : (s.setRing r x).nextOp = s.nextOp := rfl
@[simp] theorem State.setRing_remotes (r : Nat) (x : Ring) : (s.setRing r x).remotes = s.remotes := rfl
@[simp] theorem State.setRing_fetched (r : Nat) (x : Ring) : (s.setRing r x).fetched = s.fetched := rfl
@[simp] theorem State.setRing_host (r : Nat) (x : Ring) : (s.setRing r x).host = s.host := rfl
@[simp] theorem State.setRing_nextHandle (r : Nat) (x : Ring) : (s.setRing r x).nextHandle = s.nextHandle := rfl
@[simp] theorem State.setRing_frozen (r : Nat) (x : Ring) : (s.setRing r x).frozen = s.frozen := rfl
@[simp] theorem State.setRing_frozenAt (r : Nat) (x : Ring) : (s.setRing r x).frozenAt = s.frozenAt := rfl
@[simp] theorem State.setRing_cmds (r : Nat) (x : Ring) : (s.setRing r x).cmds = s.cmds := rfl
@[simp] theorem State.setRing_nextCmd (r : Nat) (x : Ring) : (s.setRing r x).nextCmd = s.nextCmd := rfl
@[simp] theorem State.setRing_tickets (r : Nat) (x : Ring) : (s.setRing r x).tickets = s.tickets := rfl
@[simp] theorem State.setRing_nextTicket (r : Nat) (x : Ring) : (s.setRing r x).nextTicket = s.nextTicket := rfl
@[simp] theorem State.setRing_claims (r : Nat) (x : Ring) : (s.setRing r x).claims = s.claims := rfl
@[simp] theorem State.setRing_husks (r : Nat) (x : Ring) : (s.setRing r x).husks = s.husks := rfl
@[simp] theorem State.setRing_keys (r : Nat) (x : Ring) : (s.setRing r x).keys = s.keys := rfl
@[simp] theorem State.setRing_parts (r : Nat) (x : Ring) : (s.setRing r x).parts = s.parts := rfl
@[simp] theorem State.setRing_jobs (r : Nat) (x : Ring) : (s.setRing r x).jobs = s.jobs := rfl
@[simp] theorem State.setRing_domains (r : Nat) (x : Ring) : (s.setRing r x).domains = s.domains := rfl
@[simp] theorem State.setRing_doms (r : Nat) (x : Ring) : (s.setRing r x).doms = s.doms := rfl
@[simp] theorem State.setRing_clock (r : Nat) (x : Ring) : (s.setRing r x).clock = s.clock := rfl
@[simp] theorem State.setRing_paused (r : Nat) (x : Ring) : (s.setRing r x).paused = s.paused := rfl
@[simp] theorem State.setRing_tokenQueues (r : Nat) (x : Ring) : (s.setRing r x).tokenQueues = s.tokenQueues := rfl
@[simp] theorem State.setRing_inbound (r : Nat) (x : Ring) : (s.setRing r x).inbound = s.inbound := rfl
@[simp] theorem State.setRing_lastEvicted (r : Nat) (x : Ring) : (s.setRing r x).lastEvicted = s.lastEvicted := rfl
@[simp] theorem State.setRing_outbox (r : Nat) (x : Ring) : (s.setRing r x).outbox = s.outbox := rfl
@[simp] theorem State.setRing_cursor (r : Nat) (x : Ring) : (s.setRing r x).cursor = s.cursor := rfl
@[simp] theorem State.setRing_heldWords (r : Nat) (x : Ring) : (s.setRing r x).heldWords = s.heldWords := rfl
@[simp] theorem State.setRing_choices (r : Nat) (x : Ring) : (s.setRing r x).choices = s.choices := rfl
@[simp] theorem State.setRing_fresh (r : Nat) (x : Ring) : (s.setRing r x).fresh = s.fresh := rfl
@[simp] theorem State.setRing_inbox (r : Nat) (x : Ring) : (s.setRing r x).inbox = s.inbox := rfl

@[simp] theorem State.countCycles_sys (c : Nat) : (s.countCycles c).sys = s.sys := rfl
@[simp] theorem State.countCycles_blocks (c : Nat) : (s.countCycles c).blocks = s.blocks := rfl
@[simp] theorem State.countCycles_cores (c : Nat) : (s.countCycles c).cores = s.cores := rfl
@[simp] theorem State.countCycles_mem (c : Nat) : (s.countCycles c).mem = s.mem := rfl
@[simp] theorem State.countCycles_fot (c : Nat) : (s.countCycles c).fot = s.fot := rfl
@[simp] theorem State.countCycles_pools (c : Nat) : (s.countCycles c).pools = s.pools := rfl
@[simp] theorem State.countCycles_loc (c : Nat) : (s.countCycles c).loc = s.loc := rfl
@[simp] theorem State.countCycles_frontiers (c : Nat) : (s.countCycles c).frontiers = s.frontiers := rfl
@[simp] theorem State.countCycles_scrubQ (c : Nat) : (s.countCycles c).scrubQ = s.scrubQ := rfl
@[simp] theorem State.countCycles_moves (c : Nat) : (s.countCycles c).moves = s.moves := rfl
@[simp] theorem State.countCycles_ftWaits (c : Nat) : (s.countCycles c).ftWaits = s.ftWaits := rfl
@[simp] theorem State.countCycles_evWaits (c : Nat) : (s.countCycles c).evWaits = s.evWaits := rfl
@[simp] theorem State.countCycles_badLines (c : Nat) : (s.countCycles c).badLines = s.badLines := rfl
@[simp] theorem State.countCycles_l2Bad (c : Nat) : (s.countCycles c).l2Bad = s.l2Bad := rfl
@[simp] theorem State.countCycles_cxlGone (c : Nat) : (s.countCycles c).cxlGone = s.cxlGone := rfl
@[simp] theorem State.countCycles_cow (c : Nat) : (s.countCycles c).cow = s.cow := rfl
@[simp] theorem State.countCycles_rots (c : Nat) : (s.countCycles c).rots = s.rots := rfl
@[simp] theorem State.countCycles_launches (c : Nat) : (s.countCycles c).launches = s.launches := rfl
@[simp] theorem State.countCycles_nextLaunch (c : Nat) : (s.countCycles c).nextLaunch = s.nextLaunch := rfl
@[simp] theorem State.countCycles_ops (c : Nat) : (s.countCycles c).ops = s.ops := rfl
@[simp] theorem State.countCycles_nextOp (c : Nat) : (s.countCycles c).nextOp = s.nextOp := rfl
@[simp] theorem State.countCycles_remotes (c : Nat) : (s.countCycles c).remotes = s.remotes := rfl
@[simp] theorem State.countCycles_fetched (c : Nat) : (s.countCycles c).fetched = s.fetched := rfl
@[simp] theorem State.countCycles_host (c : Nat) : (s.countCycles c).host = s.host := rfl
@[simp] theorem State.countCycles_nextHandle (c : Nat) : (s.countCycles c).nextHandle = s.nextHandle := rfl
@[simp] theorem State.countCycles_frozen (c : Nat) : (s.countCycles c).frozen = s.frozen := rfl
@[simp] theorem State.countCycles_frozenAt (c : Nat) : (s.countCycles c).frozenAt = s.frozenAt := rfl
@[simp] theorem State.countCycles_rings (c : Nat) : (s.countCycles c).rings = s.rings := rfl
@[simp] theorem State.countCycles_cmds (c : Nat) : (s.countCycles c).cmds = s.cmds := rfl
@[simp] theorem State.countCycles_nextCmd (c : Nat) : (s.countCycles c).nextCmd = s.nextCmd := rfl
@[simp] theorem State.countCycles_tickets (c : Nat) : (s.countCycles c).tickets = s.tickets := rfl
@[simp] theorem State.countCycles_nextTicket (c : Nat) : (s.countCycles c).nextTicket = s.nextTicket := rfl
@[simp] theorem State.countCycles_claims (c : Nat) : (s.countCycles c).claims = s.claims := rfl
@[simp] theorem State.countCycles_husks (c : Nat) : (s.countCycles c).husks = s.husks := rfl
@[simp] theorem State.countCycles_keys (c : Nat) : (s.countCycles c).keys = s.keys := rfl
@[simp] theorem State.countCycles_parts (c : Nat) : (s.countCycles c).parts = s.parts := rfl
@[simp] theorem State.countCycles_jobs (c : Nat) : (s.countCycles c).jobs = s.jobs := rfl
@[simp] theorem State.countCycles_domains (c : Nat) : (s.countCycles c).domains = s.domains := rfl
@[simp] theorem State.countCycles_doms (c : Nat) : (s.countCycles c).doms = s.doms := rfl
@[simp] theorem State.countCycles_clock (c : Nat) : (s.countCycles c).clock = s.clock := rfl
@[simp] theorem State.countCycles_paused (c : Nat) : (s.countCycles c).paused = s.paused := rfl
@[simp] theorem State.countCycles_tokenQueues (c : Nat) : (s.countCycles c).tokenQueues = s.tokenQueues := rfl
@[simp] theorem State.countCycles_inbound (c : Nat) : (s.countCycles c).inbound = s.inbound := rfl
@[simp] theorem State.countCycles_lastEvicted (c : Nat) : (s.countCycles c).lastEvicted = s.lastEvicted := rfl
@[simp] theorem State.countCycles_outbox (c : Nat) : (s.countCycles c).outbox = s.outbox := rfl
@[simp] theorem State.countCycles_cursor (c : Nat) : (s.countCycles c).cursor = s.cursor := rfl
@[simp] theorem State.countCycles_heldWords (c : Nat) : (s.countCycles c).heldWords = s.heldWords := rfl
@[simp] theorem State.countCycles_choices (c : Nat) : (s.countCycles c).choices = s.choices := rfl
@[simp] theorem State.countCycles_fresh (c : Nat) : (s.countCycles c).fresh = s.fresh := rfl
@[simp] theorem State.countCycles_inbox (c : Nat) : (s.countCycles c).inbox = s.inbox := rfl

@[simp] theorem State.setPhase_sys (p : Phase) : (s.setPhase p).sys = s.sys := rfl
@[simp] theorem State.setPhase_blocks (p : Phase) : (s.setPhase p).blocks = s.blocks := rfl
@[simp] theorem State.setPhase_cores (p : Phase) : (s.setPhase p).cores = s.cores := rfl
@[simp] theorem State.setPhase_clusters (p : Phase) : (s.setPhase p).clusters = s.clusters := rfl
@[simp] theorem State.setPhase_mem (p : Phase) : (s.setPhase p).mem = s.mem := rfl
@[simp] theorem State.setPhase_fot (p : Phase) : (s.setPhase p).fot = s.fot := rfl
@[simp] theorem State.setPhase_pools (p : Phase) : (s.setPhase p).pools = s.pools := rfl
@[simp] theorem State.setPhase_loc (p : Phase) : (s.setPhase p).loc = s.loc := rfl
@[simp] theorem State.setPhase_frontiers (p : Phase) : (s.setPhase p).frontiers = s.frontiers := rfl
@[simp] theorem State.setPhase_scrubQ (p : Phase) : (s.setPhase p).scrubQ = s.scrubQ := rfl
@[simp] theorem State.setPhase_moves (p : Phase) : (s.setPhase p).moves = s.moves := rfl
@[simp] theorem State.setPhase_ftWaits (p : Phase) : (s.setPhase p).ftWaits = s.ftWaits := rfl
@[simp] theorem State.setPhase_evWaits (p : Phase) : (s.setPhase p).evWaits = s.evWaits := rfl
@[simp] theorem State.setPhase_badLines (p : Phase) : (s.setPhase p).badLines = s.badLines := rfl
@[simp] theorem State.setPhase_l2Bad (p : Phase) : (s.setPhase p).l2Bad = s.l2Bad := rfl
@[simp] theorem State.setPhase_cxlGone (p : Phase) : (s.setPhase p).cxlGone = s.cxlGone := rfl
@[simp] theorem State.setPhase_cow (p : Phase) : (s.setPhase p).cow = s.cow := rfl
@[simp] theorem State.setPhase_rots (p : Phase) : (s.setPhase p).rots = s.rots := rfl
@[simp] theorem State.setPhase_launches (p : Phase) : (s.setPhase p).launches = s.launches := rfl
@[simp] theorem State.setPhase_nextLaunch (p : Phase) : (s.setPhase p).nextLaunch = s.nextLaunch := rfl
@[simp] theorem State.setPhase_ops (p : Phase) : (s.setPhase p).ops = s.ops := rfl
@[simp] theorem State.setPhase_nextOp (p : Phase) : (s.setPhase p).nextOp = s.nextOp := rfl
@[simp] theorem State.setPhase_remotes (p : Phase) : (s.setPhase p).remotes = s.remotes := rfl
@[simp] theorem State.setPhase_fetched (p : Phase) : (s.setPhase p).fetched = s.fetched := rfl
@[simp] theorem State.setPhase_host (p : Phase) : (s.setPhase p).host = s.host := rfl
@[simp] theorem State.setPhase_nextHandle (p : Phase) : (s.setPhase p).nextHandle = s.nextHandle := rfl
@[simp] theorem State.setPhase_frozen (p : Phase) : (s.setPhase p).frozen = s.frozen := rfl
@[simp] theorem State.setPhase_frozenAt (p : Phase) : (s.setPhase p).frozenAt = s.frozenAt := rfl
@[simp] theorem State.setPhase_rings (p : Phase) : (s.setPhase p).rings = s.rings := rfl
@[simp] theorem State.setPhase_cmds (p : Phase) : (s.setPhase p).cmds = s.cmds := rfl
@[simp] theorem State.setPhase_nextCmd (p : Phase) : (s.setPhase p).nextCmd = s.nextCmd := rfl
@[simp] theorem State.setPhase_tickets (p : Phase) : (s.setPhase p).tickets = s.tickets := rfl
@[simp] theorem State.setPhase_nextTicket (p : Phase) : (s.setPhase p).nextTicket = s.nextTicket := rfl
@[simp] theorem State.setPhase_claims (p : Phase) : (s.setPhase p).claims = s.claims := rfl
@[simp] theorem State.setPhase_husks (p : Phase) : (s.setPhase p).husks = s.husks := rfl
@[simp] theorem State.setPhase_keys (p : Phase) : (s.setPhase p).keys = s.keys := rfl
@[simp] theorem State.setPhase_parts (p : Phase) : (s.setPhase p).parts = s.parts := rfl
@[simp] theorem State.setPhase_jobs (p : Phase) : (s.setPhase p).jobs = s.jobs := rfl
@[simp] theorem State.setPhase_domains (p : Phase) : (s.setPhase p).domains = s.domains := rfl
@[simp] theorem State.setPhase_doms (p : Phase) : (s.setPhase p).doms = s.doms := rfl
@[simp] theorem State.setPhase_paused (p : Phase) : (s.setPhase p).paused = s.paused := rfl
@[simp] theorem State.setPhase_tokenQueues (p : Phase) : (s.setPhase p).tokenQueues = s.tokenQueues := rfl
@[simp] theorem State.setPhase_inbound (p : Phase) : (s.setPhase p).inbound = s.inbound := rfl
@[simp] theorem State.setPhase_lastEvicted (p : Phase) : (s.setPhase p).lastEvicted = s.lastEvicted := rfl
@[simp] theorem State.setPhase_outbox (p : Phase) : (s.setPhase p).outbox = s.outbox := rfl
@[simp] theorem State.setPhase_cursor (p : Phase) : (s.setPhase p).cursor = s.cursor := rfl
@[simp] theorem State.setPhase_heldWords (p : Phase) : (s.setPhase p).heldWords = s.heldWords := rfl
@[simp] theorem State.setPhase_choices (p : Phase) : (s.setPhase p).choices = s.choices := rfl
@[simp] theorem State.setPhase_fresh (p : Phase) : (s.setPhase p).fresh = s.fresh := rfl
@[simp] theorem State.setPhase_inbox (p : Phase) : (s.setPhase p).inbox = s.inbox := rfl

@[simp] theorem State.gt_eq : s.sys.gt = s.gt := rfl
@[simp] theorem State.setReg_gt (inst num : Nat) (x : W32) : (s.setReg inst num x).gt = s.gt := rfl
@[simp] theorem State.setRegF_gt (inst num lo len x : Nat) : (s.setRegF inst num lo len x).gt = s.gt := rfl
@[simp] theorem State.setReg64_gt (inst num : Nat) (x : W64) : (s.setReg64 inst num x).gt = s.gt := rfl
@[simp] theorem State.setCore_core_self (c : Nat) (x : Core) : (s.setCore c x).core c = x := by simp [State.setCore, State.core]
@[simp] theorem State.setCluster_cluster_self (c : Nat) (x : Cluster) : (s.setCluster c x).cluster c = x := by
  simp [State.setCluster, State.cluster]
@[simp] theorem State.setRot_rot_self (r : Nat) (x : Rot) : (s.setRot r x).rot r = x := by simp [State.setRot, State.rot]

/-- A register just written reads as written. -/
@[simp] theorem State.reg_setReg_self (inst num : Nat) (x : W32) : (s.setReg inst num x).reg inst num = x := by
  simp [State.setReg, State.reg, Sys.setReg, Sys.reg, SMap.get_set_self]

/-- A write of a register leaves every other register alone. -/
theorem State.reg_setReg_ne (inst num inst' num' : Nat) (x : W32) (h : 65536 * inst' + num' ≠ 65536 * inst + num) :
    (s.setReg inst num x).reg inst' num' = s.reg inst' num' := by
  simp [State.setReg, State.reg, Sys.setReg, Sys.reg, SMap.get_set_ne _ _ _ h]

/-- An entry of the frame ownership table just written reads as written. -/
@[simp] theorem State.ftEntry_setFt_self (f : Nat) (e : W64) : (s.setFt f e).ftEntry f = e := by
  simp [State.setFt, State.ftEntry, SMap.get_set_self]

/-- A write of an entry leaves every other entry alone. -/
theorem State.ftEntry_setFt_ne (f g : Nat) (e : W64) (h : g ≠ f) : (s.setFt f e).ftEntry g = s.ftEntry g := by
  simp [State.setFt, State.ftEntry, SMap.get_set_ne _ _ _ h]

/-- A block just changed. -/
theorem State.modBlock_get (h : Nat) (f : Block → Block) : AMap.get? (s.modBlock h f).blocks h = (AMap.get? s.blocks h).map f := by
  simp [State.modBlock, AMap.get?_modify_self]

/-- A change of a block leaves every other block alone. -/
theorem State.modBlock_get_ne {h k : Nat} (f : Block → Block) (hk : k ≠ h) :
    AMap.get? (s.modBlock h f).blocks k = AMap.get? s.blocks k := by
  simp [State.modBlock, AMap.get?_modify_ne _ _ hk]

/-- A group just changed. -/
theorem State.modGroup_group (h gi : Nat) (f : Group → Group) : (s.modGroup h gi f).group? h gi = (s.group? h gi).map f := by
  simp only [State.group?, State.modGroup, State.modBlock_get]
  cases AMap.get? s.blocks h with
  | none => rfl
  | some b => simp [Block.modGroup]

/-- A change of a group leaves every other group alone. -/
theorem State.modGroup_group_ne {h gi k gj : Nat} (f : Group → Group) (hk : k ≠ h ∨ gj ≠ gi) :
    (s.modGroup h gi f).group? k gj = s.group? k gj := by
  simp only [State.group?, State.modGroup]
  by_cases e : k = h
  · subst e
    have hg : gi ≠ gj := fun e => (hk.resolve_left (by simp)) e.symm
    rw [State.modBlock_get]
    cases AMap.get? s.blocks k with
    | none => rfl
    | some b => simp [Block.modGroup, hg]
  · rw [State.modBlock_get_ne _ _ e]

end Sys2Proof.Machine
end

