-- ==== Sys2Proof/Laws/Results.lean ====
section
/-! SUPPORT. What the shared operations on register files write, and what they leave alone. -/

namespace Sys2Proof.Machine

variable (R : Regs)

theorem Regs.vec_setVec (reg l r m : Nat) (x : VReg) (hl : l < 32) (hm : m < 32) :
    (R.setVec reg l x).vec r m = if r = reg ∧ m = l then x else R.vec r m := by
  simp only [Regs.vec, Regs.setVec]
  by_cases e : r = reg ∧ m = l
  · rw [if_pos e, e.1, e.2, SMap.get_set_self]
  · rw [if_neg e, SMap.get_set_ne _ _ _ (by omega)]

@[simp] theorem Regs.uni_setVec (reg l r : Nat) (x : VReg) : (R.setVec reg l x).uni r = R.uni r := rfl
@[simp] theorem Regs.pred_setVec (reg l k m : Nat) (x : VReg) : (R.setVec reg l x).pred k m = R.pred k m := rfl
@[simp] theorem Regs.upred_setVec (reg l k : Nat) (x : VReg) : (R.setVec reg l x).upred k = R.upred k := rfl
@[simp] theorem Regs.acc_setVec (reg l : Nat) (x : VReg) : (R.setVec reg l x).acc = R.acc := rfl
@[simp] theorem Regs.fm_setVec (reg l : Nat) (x : VReg) : (R.setVec reg l x).fm = R.fm := rfl

theorem Regs.uni_setUni (reg r : Nat) (x : W32) : (R.setUni reg x).uni r = if r = reg then x else R.uni r := by
  simp only [Regs.uni, Regs.setUni]
  by_cases e : r = reg
  · rw [if_pos e, e, SMap.get_set_self]
  · rw [if_neg e, SMap.get_set_ne _ _ _ e]

@[simp] theorem Regs.vec_setUni (reg r m : Nat) (x : W32) : (R.setUni reg x).vec r m = R.vec r m := rfl
@[simp] theorem Regs.pred_setUni (reg k m : Nat) (x : W32) : (R.setUni reg x).pred k m = R.pred k m := rfl
@[simp] theorem Regs.upred_setUni (reg k : Nat) (x : W32) : (R.setUni reg x).upred k = R.upred k := rfl
@[simp] theorem Regs.acc_setUni (reg : Nat) (x : W32) : (R.setUni reg x).acc = R.acc := rfl
@[simp] theorem Regs.fm_setUni (reg : Nat) (x : W32) : (R.setUni reg x).fm = R.fm := rfl

theorem Regs.upred_setUpred (k j : Nat) (x : Bool) : (R.setUpred k x).upred j = if j = k ∧ j ≠ 7 then x else R.upred j := by
  simp only [Regs.setUpred]
  split
  · rename_i e
    subst e
    rw [if_neg (fun h => h.2 h.1)]
  · rename_i e
    by_cases h : j = k
    · subst h
      simp [Regs.upred, SMap.get_set_self, e]
    · rw [if_neg (fun a => h a.1)]
      simp only [Regs.upred, SMap.get_set_ne _ _ _ h]

@[simp] theorem Regs.vec_setUpred (k r m : Nat) (x : Bool) : (R.setUpred k x).vec r m = R.vec r m := by
  unfold Regs.setUpred; split <;> rfl
@[simp] theorem Regs.pred_setUpred (k j m : Nat) (x : Bool) : (R.setUpred k x).pred j m = R.pred j m := by
  unfold Regs.setUpred; split <;> rfl
@[simp] theorem Regs.uni_setUpred (k r : Nat) (x : Bool) : (R.setUpred k x).uni r = R.uni r := by
  unfold Regs.setUpred; split <;> rfl
@[simp] theorem Regs.acc_setUpred (k : Nat) (x : Bool) : (R.setUpred k x).acc = R.acc := by
  unfold Regs.setUpred; split <;> rfl
@[simp] theorem Regs.fm_setUpred (k : Nat) (x : Bool) : (R.setUpred k x).fm = R.fm := by
  unfold Regs.setUpred; split <;> rfl

theorem bit_shiftOne (l m : Nat) (hm : m < 32) : (1#32 <<< l).getLsbD m = decide (m = l) := by
  rw [BitVec.getLsbD_shiftLeft, BitVec.getLsbD_one]
  by_cases e : m = l
  · subst e; simp [hm]
  · have : ¬ (l ≤ m ∧ m - l = 0) := by omega
    simp only [hm, decide_true, Bool.true_and, e, decide_false, Bool.and_eq_false_iff]
    by_cases hl : m < l
    · simp [hl]
    · have : m - l ≠ 0 := by omega
      simp [this]

theorem Regs.pred_setPred (k l j m : Nat) (x : Bool) (hm : m < 32) :
    (R.setPred k l x).pred j m = if j = k ∧ m = l ∧ j ≠ 7 then x else R.pred j m := by
  simp only [Regs.setPred]
  split
  · rename_i e
    subst e
    rw [if_neg (fun h => h.2.2 h.1)]
  · rename_i e
    by_cases h : j = k
    · subst h
      simp only [Regs.pred, SMap.get_set_self]
      generalize SMap.get (fun _ => 0) R.p j = P
      have e7 : (j == 7) = false := by simpa using e
      rw [e7]
      by_cases hl : m = l
      · subst hl
        cases x <;> simp only [bit, Bool.false_or, BitVec.getLsbD_and, BitVec.getLsbD_or, BitVec.getLsbD_not, bit_shiftOne _ _ hm,
          hm, decide_true, if_true, if_false, Bool.false_eq_true, Bool.and_false, Bool.or_true, Bool.not_true,
          true_and, ne_eq, e, not_false_eq_true]
      · cases x <;> simp only [bit, Bool.false_or, BitVec.getLsbD_and, BitVec.getLsbD_or, BitVec.getLsbD_not, bit_shiftOne _ _ hm,
          hm, decide_true, decide_false, hl, if_true, if_false, Bool.false_eq_true, Bool.and_true, Bool.or_false, Bool.not_false,
          false_and, and_false]
    · have hn : ¬ (j = k ∧ m = l ∧ j ≠ 7) := fun a => h a.1
      rw [if_neg hn]
      simp only [Regs.pred, SMap.get_set_ne _ _ _ h]

@[simp] theorem Regs.vec_setPred (k l r m : Nat) (x : Bool) : (R.setPred k l x).vec r m = R.vec r m := by
  unfold Regs.setPred; split <;> rfl
@[simp] theorem Regs.upred_setPred (k l j : Nat) (x : Bool) : (R.setPred k l x).upred j = R.upred j := by
  unfold Regs.setPred; split <;> rfl
@[simp] theorem Regs.uni_setPred (k l r : Nat) (x : Bool) : (R.setPred k l x).uni r = R.uni r := by
  unfold Regs.setPred; split <;> rfl
@[simp] theorem Regs.acc_setPred (k l : Nat) (x : Bool) : (R.setPred k l x).acc = R.acc := by
  unfold Regs.setPred; split <;> rfl
@[simp] theorem Regs.fm_setPred (k l : Nat) (x : Bool) : (R.setPred k l x).fm = R.fm := by
  unfold Regs.setPred; split <;> rfl

theorem OnlyIn.refl (f : File) : OnlyIn f R R :=
  ⟨.inr fun _ _ => rfl, .inr fun _ _ => rfl, .inr fun _ => rfl, .inr fun _ => rfl, rfl, rfl⟩

theorem OnlyIn.trans {f : File} {R S T : Regs} (a : OnlyIn f R S) (b : OnlyIn f S T) : OnlyIn f R T := by
  obtain ⟨a1, a2, a3, a4, a5, a6⟩ := a
  obtain ⟨b1, b2, b3, b4, b5, b6⟩ := b
  refine ⟨?_, ?_, ?_, ?_, b5.trans a5, b6.trans a6⟩
  · rcases a1 with h | a
    · exact .inl h
    · exact b1.imp_right fun b r l => (b r l).trans (a r l)
  · rcases a2 with h | a
    · exact .inl h
    · exact b2.imp_right fun b r l => (b r l).trans (a r l)
  · rcases a3 with h | a
    · exact .inl h
    · exact b3.imp_right fun b r => (b r).trans (a r)
  · rcases a4 with h | a
    · exact .inl h
    · exact b4.imp_right fun b r => (b r).trans (a r)

/-- A 32- or 64-bit result of one execution. -/
theorem putN_onlyIn (u w : Bool) (d l : Nat) (tag : BitVec 4) (x : W64) : OnlyIn (if u then .s else .v) R (putN u w d l tag x R) := by
  cases u <;> cases w <;>
    exact ⟨by simp [putN, putPair, putReg], .inr fun _ _ => rfl, by simp [putN, putPair, putReg], .inr fun _ => rfl, rfl, rfl⟩

theorem putN_uni (w : Bool) (d l r : Nat) (tag : BitVec 4) (x : W64) :
    (putN true w d l tag x R).uni r = (regPart w d r x).getD (R.uni r) := by
  cases w
  · simp only [putN, putReg, regPart, Regs.uni_setUni, if_true, Bool.false_eq_true, if_false, false_and]
    split <;> rfl
  · simp only [putN, putPair, putReg, regPart, Regs.uni_setUni, if_true, true_and]
    by_cases h1 : r = d
    · have : ¬ r = d + 1 := by omega
      simp [h1]
    · by_cases h2 : r = d + 1 <;> simp [h1, h2]

theorem putN_vec (w : Bool) (d l r m : Nat) (tag : BitVec 4) (x : W64) (hl : l < 32) (hm : m < 32) :
    (putN false w d l tag x R).vec r m =
      match (if m = l then regPart w d r x else none) with
      | some y => { bits := y, tag }
      | none => R.vec r m := by
  cases w
  · simp only [putN, putReg, regPart, Bool.false_eq_true, if_false, false_and, Regs.vec_setVec R _ _ _ _ _ hl hm]
    by_cases h : m = l <;> by_cases h1 : r = d <;> simp [h, h1]
  · simp only [putN, putPair, putReg, regPart, Bool.false_eq_true, if_false, if_true, true_and]
    rw [Regs.vec_setVec _ _ _ _ _ _ hl hm, Regs.vec_setVec _ _ _ _ _ _ hl hm]
    by_cases h : m = l
    · by_cases h1 : r = d
      · have : ¬ r = d + 1 := by omega
        simp [h, h1]
      · by_cases h2 : r = d + 1 <;> simp [h, h1, h2]
    · simp [h]

theorem mem_lanesOf (m : W32) (l : Nat) : l ∈ lanesOf m ↔ l < 32 ∧ bit m l = true := by
  simp [lanesOf, laneNums]

theorem foldl_onlyIn {f : File} (g : Nat → Regs → Regs) (hg : ∀ l R, OnlyIn f R (g l R)) (L : List Nat) :
    OnlyIn f R (L.foldl (fun r l => g l r) R) := by
  induction L generalizing R with
  | nil => exact OnlyIn.refl R f
  | cons a L ih => exact (hg a R).trans (ih (g a R))

theorem foldl_putN_vec (w : Bool) (d r m : Nat) (tag : BitVec 4) (f : Nat → W64) (L : List Nat) (hL : ∀ l ∈ L, l < 32) (hm : m < 32) :
    (L.foldl (fun R l => putN false w d l tag (f l) R) R).vec r m =
      match (if m ∈ L then regPart w d r (f m) else none) with
      | some y => { bits := y, tag }
      | none => R.vec r m := by
  induction L generalizing R with
  | nil => simp
  | cons a L ih =>
    rw [List.foldl_cons, ih _ (fun l h => hL l (List.mem_cons_of_mem _ h)), putN_vec R w d a r m tag (f a) (hL a (by simp)) hm]
    by_cases h : m ∈ L
    · simp only [h, if_true, List.mem_cons, or_true]
      by_cases e : m = a
      · subst e
        simp only [if_true]
        cases regPart w d r (f m) <;> rfl
      · simp [e]
    · by_cases e : m = a
      · subst e
        simp [h]
      · simp [h, e]

/-- The result of every execution of a word: a register, or a pair, per executing lane, or one in the uniform file. -/
theorem forUnits_wroteN (v : View) (h : Head) (w : Bool) (d : Nat) (tag : BitVec 4) (f : Nat → W64) :
    WroteN v h w d tag f (v.forUnits h (fun l => putN h.u w d l tag (f l))) := by
  refine ⟨foldl_onlyIn _ _ (fun l R => putN_onlyIn R h.u w d l tag (f l)) _, ?_⟩
  cases hu : h.u
  · simp only [Bool.false_eq_true, if_false]
    intro r m hm
    simp only [View.forUnits, View.units, hu, Bool.false_eq_true, if_false]
    rw [foldl_putN_vec _ _ _ _ _ _ _ _ (fun l hl => ((mem_lanesOf _ _).mp hl).1) hm]
    by_cases hb : bit (v.lanes h) m = true
    · rw [if_pos hb, if_pos ((mem_lanesOf _ _).mpr ⟨hm, hb⟩)]
      all_goals (cases regPart w d r (f m) <;> rfl)
    · rw [if_neg hb, if_neg (fun a => hb ((mem_lanesOf _ _).mp a).2)]
  · simp only [if_true]
    intro r
    cases hg : v.go h
    · simp [View.forUnits, View.units, hu, hg]
    · simp [View.forUnits, View.units, hu, hg, putN_uni]

theorem putPrd_onlyIn (u : Bool) (k l : Nat) (x : Bool) : OnlyIn (if u then .q else .p) R (putPrd u k l x R) := by
  cases u
  · exact ⟨.inr fun _ _ => Regs.vec_setPred .., .inl rfl, .inr fun _ => Regs.uni_setPred .., .inr fun _ => Regs.upred_setPred ..,
      Regs.acc_setPred .., Regs.fm_setPred ..⟩
  · exact ⟨.inr fun _ _ => Regs.vec_setUpred .., .inr fun _ _ => Regs.pred_setUpred .., .inr fun _ => Regs.uni_setUpred .., .inl rfl,
      Regs.acc_setUpred .., Regs.fm_setUpred ..⟩

theorem foldl_putPrd_pred (k j m : Nat) (f : Nat → Bool) (L : List Nat) (hm : m < 32) :
    (L.foldl (fun R l => putPrd false k l (f l) R) R).pred j m = if m ∈ L ∧ j = k ∧ j ≠ 7 then f m else R.pred j m := by
  induction L generalizing R with
  | nil => simp
  | cons a L ih =>
    rw [List.foldl_cons, ih]
    simp only [putPrd, Bool.false_eq_true, if_false, Regs.pred_setPred R k a j m (f a) hm, List.mem_cons]
    by_cases h : m ∈ L <;> by_cases e : m = a <;> by_cases c : j = k ∧ j ≠ 7 <;> simp [h, e, c]
    all_goals (subst e; simp_all)

/-- The predicate results of every execution of a word. -/
theorem forUnits_wrotePrd (v : View) (h : Head) (k : Nat) (f : Nat → Bool) :
    WrotePrd v h k f (v.forUnits h (fun l => putPrd h.u k l (f l))) := by
  refine ⟨foldl_onlyIn _ _ (fun l R => putPrd_onlyIn R h.u k l (f l)) _, ?_⟩
  cases hu : h.u
  · simp only [Bool.false_eq_true, if_false]
    intro j m hm
    simp only [View.forUnits, View.units, hu, Bool.false_eq_true, if_false]
    rw [foldl_putPrd_pred _ _ _ _ _ _ hm]
    simp only [mem_lanesOf, hm, true_and]
  · simp only [if_true]
    intro j
    cases hg : v.go h
    · simp [View.forUnits, View.units, hu, hg]
    · simp [View.forUnits, View.units, hu, hg, putPrd, Regs.upred_setUpred]

end Sys2Proof.Machine
end

