-- ==== Sys2Proof/Laws/Issue.lean ====
section
/-! SUPPORT. The issue of a word, once: when the checks before its effect pass, it does what its effect says (R371). -/

namespace Sys2Proof.Machine

variable {i : Instr} {ends : Bool} {r : Rights} {rgt : View → Bool} {body : State → View → Res} {s : State} {v0 v : View}

/-- A word that issues does its own effect, then the end of a word. -/
theorem issue_of (h : Issues i ends r s v0 v) (hr : rgt v = true) :
    issue i ends r rgt body s =
      match body (startRun s v0) v with
      | .ok s => .next (finish v ends s)
      | .jump s => .next (finishJump v s)
      | .park w s =>
        .next (endRun ((s.modGroup v.handle v.gi (fun g => g.setSlot v.d { g.slot v.d with wait := w })).modBlock v.handle
          Block.checkBar) v)
      | .hold c s => .next (holdAt s v c)
      | .stop s => .next (s.modGroup v.handle v.gi (fun g => { g with stopped := true }))
      | .raise q s' => .next (faultAt (startRun s v0) s' v q) := by
  have hc : ¬ (31 ≤ v.sl.cnt ∧ (!ends) = true) := by
    rcases h.count with c | c
    · omega
    · simp [c]
  simp only [issue, h.first, h.view, h.quiet]
  rw [if_neg hc]
  simp only [h.enc, h.right, hr, Bool.not_true, Bool.and_self, Bool.false_eq_true, if_false]
  all_goals (cases body (startRun s v0) v <;> rfl)

theorem issue_ok (h : Issues i ends r s v0 v) (hr : rgt v = true) {t : State} (e : body (startRun s v0) v = .ok t) :
    issue i ends r rgt body s = .next (finish v ends t) := by rw [issue_of h hr, e]

theorem issue_jump (h : Issues i ends r s v0 v) (hr : rgt v = true) {t : State} (e : body (startRun s v0) v = .jump t) :
    issue i ends r rgt body s = .next (finishJump v t) := by rw [issue_of h hr, e]

theorem issue_hold (h : Issues i ends r s v0 v) (hr : rgt v = true) {c : Cond} {t : State} (e : body (startRun s v0) v = .hold c t) :
    issue i ends r rgt body s = .next (holdAt t v c) := by rw [issue_of h hr, e]

theorem issue_raise (h : Issues i ends r s v0 v) (hr : rgt v = true) {q : Req} {t : State} (e : body (startRun s v0) v = .raise q t) :
    issue i ends r rgt body s = .next (faultAt (startRun s v0) t v q) := by rw [issue_of h hr, e]

/-- A word that only changes register files ends with the results of its executions. -/
theorem alu_of {h : Head} {f : View → Nat → Regs → Regs} (hi : Issues i h.s .all s v0 v) :
    alu i h f s = .next (finish v h.s (v.put (startRun s v0) (v.forUnits h (f v)))) := issue_ok hi rfl rfl

/-- A word whose sources carry their tags ends with the results of its executions. -/
theorem aluTagged_of {h : Head} {ok : View → Nat → Bool} {f : View → Nat → Regs → Regs} (hi : Issues i h.s .all s v0 v)
    (ht : ∀ l ∈ v.units h, ok v l = true) :
    aluTagged i h ok f s = .next (finish v h.s (v.put (startRun s v0) (v.forUnits h (f v)))) := by
  have e : (v.units h).filter (fun l => !ok v l) = [] := by simpa using ht
  exact issue_ok hi rfl (by simp [e])

end Sys2Proof.Machine
end

