-- ==== Sys2Proof/Laws/Memory.lean ====
section
/-! SUPPORT. The named operations over physical memory: the canonical form they keep, what they read back and what they leave alone. -/

namespace Sys2Proof.Machine

theorem memSet_wf {m : SMap Byte} (pa : Nat) (b : Byte) (h : Memory.wf m = true) : Memory.wf (memSet m pa b) = true :=
  SMap.wf_set _ _ _ _ h

theorem memPut_wf {m : SMap Byte} (pa : Nat) (bs : List Byte) (h : Memory.wf m = true) : Memory.wf (memPut m pa bs) = true := by
  induction bs generalizing m pa with
  | nil => exact h
  | cons b bs ih => exact ih (pa + 1) (memSet_wf pa b h)

theorem State.zeroFirst_wf {s : State} (pa : Nat) (h : Memory.wf s.mem = true) : Memory.wf (s.zeroFirst pa).mem = true := by
  unfold State.zeroFirst
  generalize (List.replicate 128 0 : List Byte) = zeros
  dsimp only
  split
  · exact memPut_wf _ zeros h
  · exact h

theorem State.setByte_wf {s : State} (pa : Nat) (b : Byte) (h : Memory.wf s.mem = true) : Memory.wf (s.setByte pa b).mem = true :=
  memSet_wf pa b (State.zeroFirst_wf pa h)

theorem State.setBytes_wf {s : State} (pa : Nat) (bs : List Byte) (h : Memory.wf s.mem = true) :
    Memory.wf (s.setBytes pa bs).mem = true := by
  induction bs generalizing s pa with
  | nil => exact h
  | cons b bs ih => exact ih (pa + 1) (State.setByte_wf pa b h)

/-- A physical write that meets no uncorrectable error keeps the canonical form. -/
theorem State.physWrite_wf {s t : State} {pa : Nat} {bs : List Byte} (h : Memory.wf s.mem = true) (e : s.physWrite pa bs = .ok t) :
    Memory.wf t.mem = true := by
  unfold State.physWrite at e
  split at e
  · cases e
  · cases e
    exact State.setBytes_wf pa bs h

/-- Memory at reset is in canonical form. -/
theorem reset_memory_wf : Memory.wf State.reset.mem = true := rfl

/-- Reading the byte just stored in a memory. -/
theorem memSet_get_self (m : SMap Byte) (pa : Nat) (b : Byte) : SMap.get memDefault (memSet m pa b) pa = b :=
  SMap.get_set_self _ _ _ _

/-- A byte store leaves every other address of a memory alone. -/
theorem memSet_get_ne (m : SMap Byte) {pa pa' : Nat} (b : Byte) (h : pa' ≠ pa) :
    SMap.get memDefault (memSet m pa b) pa' = SMap.get memDefault m pa' := SMap.get_set_ne _ _ _ h

/-- What `memPut` leaves at an address. -/
theorem memPut_get (m : SMap Byte) (pa : Nat) (bs : List Byte) (a : Nat) :
    SMap.get memDefault (memPut m pa bs) a =
      if h : pa ≤ a ∧ a < pa + bs.length then bs[a - pa]'(by omega) else SMap.get memDefault m a := by
  induction bs generalizing m pa with
  | nil => rw [dif_neg (by simp)]; rfl
  | cons b bs ih =>
    rw [memPut, ih]
    by_cases h : pa = a
    · subst h
      have h1 : ¬ (pa + 1 ≤ pa ∧ pa < pa + 1 + bs.length) := by omega
      rw [dif_neg h1, memSet_get_self]
      simp
    · rw [memSet_get_ne _ _ (Ne.symm h)]
      by_cases h1 : pa + 1 ≤ a ∧ a < pa + 1 + bs.length
      · have h2 : pa ≤ a ∧ a < pa + (b :: bs).length := by simp only [List.length_cons]; omega
        rw [dif_pos h1, dif_pos h2]
        have e : a - pa = a - (pa + 1) + 1 := by omega
        simp [e]
      · have h2 : ¬ (pa ≤ a ∧ a < pa + (b :: bs).length) := by simp only [List.length_cons]; omega
        rw [dif_neg h1, dif_neg h2]

end Sys2Proof.Machine
end

