-- ==== Sys2Proof/Laws/PerInstr.lean ====
section
/-! SUPPORT. Per-instruction facts about the encoding: an instruction has a word exactly when it is a word of the instruction set. -/

namespace Sys2Proof.Laws

/-- An instruction has a word of its own; an operation or event of an agent has none (R173). -/
def Encoded.Statement (i : Instr) : Prop := (encode i).isSome = i.isWord

theorem Encoded.nop (h : Head) (o : F3) : Encoded.Statement (.nop h o) := rfl
theorem Encoded.mov (h : Head) (o : F3) : Encoded.Statement (.mov h o) := rfl
theorem Encoded.movi (h : Head) (o : FI) : Encoded.Statement (.movi h o) := rfl
theorem Encoded.iadd (h : Head) (o : F3) : Encoded.Statement (.iadd h o) := rfl
theorem Encoded.iaddi (h : Head) (o : FI) : Encoded.Statement (.iaddi h o) := rfl
theorem Encoded.isub (h : Head) (o : F3) : Encoded.Statement (.isub h o) := rfl
theorem Encoded.imul (h : Head) (o : F3) : Encoded.Statement (.imul h o) := rfl
theorem Encoded.imulhi (h : Head) (o : F3) : Encoded.Statement (.imulhi h o) := rfl
theorem Encoded.imad (h : Head) (o : F3) : Encoded.Statement (.imad h o) := rfl
theorem Encoded.imin (h : Head) (o : F3) : Encoded.Statement (.imin h o) := rfl
theorem Encoded.imax (h : Head) (o : F3) : Encoded.Statement (.imax h o) := rfl
theorem Encoded.iabs (h : Head) (o : F3) : Encoded.Statement (.iabs h o) := rfl
theorem Encoded.ineg (h : Head) (o : F3) : Encoded.Statement (.ineg h o) := rfl
theorem Encoded.and (h : Head) (o : F3) : Encoded.Statement (.and h o) := rfl
theorem Encoded.or (h : Head) (o : F3) : Encoded.Statement (.or h o) := rfl
theorem Encoded.xor (h : Head) (o : F3) : Encoded.Statement (.xor h o) := rfl
theorem Encoded.not (h : Head) (o : F3) : Encoded.Statement (.not h o) := rfl
theorem Encoded.andi (h : Head) (o : FI) : Encoded.Statement (.andi h o) := rfl
theorem Encoded.ori (h : Head) (o : FI) : Encoded.Statement (.ori h o) := rfl
theorem Encoded.xori (h : Head) (o : FI) : Encoded.Statement (.xori h o) := rfl
theorem Encoded.shl (h : Head) (o : F3) : Encoded.Statement (.shl h o) := rfl
theorem Encoded.shr (h : Head) (o : F3) : Encoded.Statement (.shr h o) := rfl
theorem Encoded.sar (h : Head) (o : F3) : Encoded.Statement (.sar h o) := rfl
theorem Encoded.shli (h : Head) (o : FI) : Encoded.Statement (.shli h o) := rfl
theorem Encoded.shri (h : Head) (o : FI) : Encoded.Statement (.shri h o) := rfl
theorem Encoded.sari (h : Head) (o : FI) : Encoded.Statement (.sari h o) := rfl
theorem Encoded.rot (h : Head) (o : F3) : Encoded.Statement (.rot h o) := rfl
theorem Encoded.bfx (h : Head) (o : F3) : Encoded.Statement (.bfx h o) := rfl
theorem Encoded.bfi (h : Head) (o : F3) : Encoded.Statement (.bfi h o) := rfl
theorem Encoded.popc (h : Head) (o : F3) : Encoded.Statement (.popc h o) := rfl
theorem Encoded.clz (h : Head) (o : F3) : Encoded.Statement (.clz h o) := rfl
theorem Encoded.brev (h : Head) (o : F3) : Encoded.Statement (.brev h o) := rfl
theorem Encoded.sel (h : Head) (o : F3) : Encoded.Statement (.sel h o) := rfl
theorem Encoded.icmp (h : Head) (o : F3) : Encoded.Statement (.icmp h o) := rfl
theorem Encoded.icmpi (h : Head) (o : FI) : Encoded.Statement (.icmpi h o) := rfl
theorem Encoded.plog (h : Head) (o : F3) : Encoded.Statement (.plog h o) := rfl
theorem Encoded.lea (h : Head) (o : FM) : Encoded.Statement (.lea h o) := rfl
theorem Encoded.idx (h : Head) (o : F3) : Encoded.Statement (.idx h o) := rfl
theorem Encoded.vote (h : Head) (o : F3) : Encoded.Statement (.vote h o) := rfl
theorem Encoded.shfl (h : Head) (o : F3) : Encoded.Statement (.shfl h o) := rfl
theorem Encoded.vred (h : Head) (o : F3) : Encoded.Statement (.vred h o) := rfl
theorem Encoded.fadd (h : Head) (o : F3) : Encoded.Statement (.fadd h o) := rfl
theorem Encoded.fsub (h : Head) (o : F3) : Encoded.Statement (.fsub h o) := rfl
theorem Encoded.fmul (h : Head) (o : F3) : Encoded.Statement (.fmul h o) := rfl
theorem Encoded.ffma (h : Head) (o : F3) : Encoded.Statement (.ffma h o) := rfl
theorem Encoded.fmin (h : Head) (o : F3) : Encoded.Statement (.fmin h o) := rfl
theorem Encoded.fmax (h : Head) (o : F3) : Encoded.Statement (.fmax h o) := rfl
theorem Encoded.fcmp (h : Head) (o : F3) : Encoded.Statement (.fcmp h o) := rfl
theorem Encoded.fmuli (h : Head) (o : FI) : Encoded.Statement (.fmuli h o) := rfl
theorem Encoded.faddi (h : Head) (o : FI) : Encoded.Statement (.faddi h o) := rfl
theorem Encoded.fdot2 (h : Head) (o : F3) : Encoded.Statement (.fdot2 h o) := rfl
theorem Encoded.fclass (h : Head) (o : F3) : Encoded.Statement (.fclass h o) := rfl
theorem Encoded.frnd (h : Head) (o : F3) : Encoded.Statement (.frnd h o) := rfl
theorem Encoded.frcp (h : Head) (o : F3) : Encoded.Statement (.frcp h o) := rfl
theorem Encoded.frsq (h : Head) (o : F3) : Encoded.Statement (.frsq h o) := rfl
theorem Encoded.fsqrt (h : Head) (o : F3) : Encoded.Statement (.fsqrt h o) := rfl
theorem Encoded.fex2 (h : Head) (o : F3) : Encoded.Statement (.fex2 h o) := rfl
theorem Encoded.flg2 (h : Head) (o : F3) : Encoded.Statement (.flg2 h o) := rfl
theorem Encoded.fsin (h : Head) (o : F3) : Encoded.Statement (.fsin h o) := rfl
theorem Encoded.fcos (h : Head) (o : F3) : Encoded.Statement (.fcos h o) := rfl
theorem Encoded.fsig (h : Head) (o : F3) : Encoded.Statement (.fsig h o) := rfl
theorem Encoded.ftanh (h : Head) (o : F3) : Encoded.Statement (.ftanh h o) := rfl
theorem Encoded.cvt (h : Head) (o : F3) : Encoded.Statement (.cvt h o) := rfl
theorem Encoded.npk (h : Head) (o : F3) : Encoded.Statement (.npk h o) := rfl
theorem Encoded.nunpk (h : Head) (o : F3) : Encoded.Statement (.nunpk h o) := rfl
theorem Encoded.scl (h : Head) (o : F3) : Encoded.Statement (.scl h o) := rfl
theorem Encoded.sclx (h : Head) (o : F3) : Encoded.Statement (.sclx h o) := rfl
theorem Encoded.tag (h : Head) (o : F3) : Encoded.Statement (.tag h o) := rfl
theorem Encoded.tagr (h : Head) (o : F3) : Encoded.Statement (.tagr h o) := rfl
theorem Encoded.fmset (h : Head) (o : FI) : Encoded.Statement (.fmset h o) := rfl
theorem Encoded.bra (h : Head) (o : FB) : Encoded.Statement (.bra h o) := rfl
theorem Encoded.brx (h : Head) (o : F3) : Encoded.Statement (.brx h o) := rfl
theorem Encoded.call (h : Head) (o : FB) : Encoded.Statement (.call h o) := rfl
theorem Encoded.ret (h : Head) (o : F3) : Encoded.Statement (.ret h o) := rfl
theorem Encoded.exit (h : Head) (o : F3) : Encoded.Statement (.exit h o) := rfl
theorem Encoded.bar (h : Head) (o : F3) : Encoded.Statement (.bar h o) := rfl
theorem Encoded.bara (h : Head) (o : FI) : Encoded.Statement (.bara h o) := rfl
theorem Encoded.barw (h : Head) (o : FI) : Encoded.Statement (.barw h o) := rfl
theorem Encoded.yld (h : Head) (o : F3) : Encoded.Statement (.yld h o) := rfl
theorem Encoded.gcall (h : Head) (o : FI) : Encoded.Statement (.gcall h o) := rfl
theorem Encoded.gret (h : Head) (o : F3) : Encoded.Statement (.gret h o) := rfl
theorem Encoded.trap (h : Head) (o : FI) : Encoded.Statement (.trap h o) := rfl
theorem Encoded.rte (h : Head) (o : F3) : Encoded.Statement (.rte h o) := rfl
theorem Encoded.step (h : Head) (o : F3) : Encoded.Statement (.step h o) := rfl
theorem Encoded.qput (h : Head) (o : FM) : Encoded.Statement (.qput h o) := rfl
theorem Encoded.qget (h : Head) (o : FM) : Encoded.Statement (.qget h o) := rfl
theorem Encoded.qctlDone (h : Head) (o : F3) : Encoded.Statement (.qctlDone h o) := rfl
theorem Encoded.qctlErr (h : Head) (o : F3) : Encoded.Statement (.qctlErr h o) := rfl
theorem Encoded.qctlRun (h : Head) (o : F3) : Encoded.Statement (.qctlRun h o) := rfl
theorem Encoded.qctlSetr (h : Head) (o : F3) : Encoded.Statement (.qctlSetr h o) := rfl
theorem Encoded.qctlStat (h : Head) (o : F3) : Encoded.Statement (.qctlStat h o) := rfl
theorem Encoded.ld (h : Head) (o : FM) : Encoded.Statement (.ld h o) := rfl
theorem Encoded.ldTyped (h : Head) (tag : BitVec 4) (o : FM) : Encoded.Statement (.ldTyped h tag o) := rfl
theorem Encoded.st (h : Head) (o : FM) : Encoded.Statement (.st h o) := rfl
theorem Encoded.lds (h : Head) (o : FM) : Encoded.Statement (.lds h o) := rfl
theorem Encoded.ldsTyped (h : Head) (tag : BitVec 4) (o : FM) : Encoded.Statement (.ldsTyped h tag o) := rfl
theorem Encoded.sts (h : Head) (o : FM) : Encoded.Statement (.sts h o) := rfl
theorem Encoded.ldc (h : Head) (o : FM) : Encoded.Statement (.ldc h o) := rfl
theorem Encoded.atom (h : Head) (o : FM) : Encoded.Statement (.atom h o) := rfl
theorem Encoded.atoms (h : Head) (o : FM) : Encoded.Statement (.atoms h o) := rfl
theorem Encoded.red (h : Head) (o : FM) : Encoded.Statement (.red h o) := rfl
theorem Encoded.fence (h : Head) (o : FM) : Encoded.Statement (.fence h o) := rfl
theorem Encoded.cbinv (h : Head) (o : FM) : Encoded.Statement (.cbinv h o) := rfl
theorem Encoded.tlook (h : Head) (o : FM) : Encoded.Statement (.tlook h o) := rfl
theorem Encoded.tset (h : Head) (o : FM) : Encoded.Statement (.tset h o) := rfl
theorem Encoded.tclr (h : Head) (o : F3) : Encoded.Statement (.tclr h o) := rfl
theorem Encoded.prf (h : Head) (o : FM) : Encoded.Statement (.prf h o) := rfl
theorem Encoded.fget (h : Head) (o : F3) : Encoded.Statement (.fget h o) := rfl
theorem Encoded.fput (h : Head) (o : F3) : Encoded.Statement (.fput h o) := rfl
theorem Encoded.tinv (h : Head) (o : F3) : Encoded.Statement (.tinv h o) := rfl
theorem Encoded.mma (h : Head) (o : F3) : Encoded.Statement (.mma h o) := rfl
theorem Encoded.mmam (h : Head) (o : F3) : Encoded.Statement (.mmam h o) := rfl
theorem Encoded.mmt (h : Head) (o : F3) : Encoded.Statement (.mmt h o) := rfl
theorem Encoded.aalloc (h : Head) (o : F3) : Encoded.Statement (.aalloc h o) := rfl
theorem Encoded.afree (h : Head) (o : F3) : Encoded.Statement (.afree h o) := rfl
theorem Encoded.azero (h : Head) (o : F3) : Encoded.Statement (.azero h o) := rfl
theorem Encoded.ald (h : Head) (o : F3) : Encoded.Statement (.ald h o) := rfl
theorem Encoded.aput (h : Head) (o : F3) : Encoded.Statement (.aput h o) := rfl
theorem Encoded.tmld (h : Head) (o : F3) : Encoded.Statement (.tmld h o) := rfl
theorem Encoded.cpy (h : Head) (o : F3) : Encoded.Statement (.cpy h o) := rfl
theorem Encoded.gth (h : Head) (o : F3) : Encoded.Statement (.gth h o) := rfl
theorem Encoded.sct (h : Head) (o : F3) : Encoded.Statement (.sct h o) := rfl
theorem Encoded.coll (h : Head) (o : F3) : Encoded.Statement (.coll h o) := rfl
theorem Encoded.waitc (h : Head) (o : FI) : Encoded.Statement (.waitc h o) := rfl
theorem Encoded.cntr (h : Head) (o : F3) : Encoded.Statement (.cntr h o) := rfl
theorem Encoded.srd (h : Head) (o : FS) : Encoded.Statement (.srd h o) := rfl
theorem Encoded.swr (h : Head) (o : FS) : Encoded.Statement (.swr h o) := rfl
theorem Encoded.gtm (h : Head) (o : F3) : Encoded.Statement (.gtm h o) := rfl
theorem Encoded.ccnt (h : Head) (o : F3) : Encoded.Statement (.ccnt h o) := rfl
theorem Encoded.calq (h : Head) (o : F3) : Encoded.Statement (.calq h o) := rfl
theorem Encoded.bst (h : Head) (o : FI) : Encoded.Statement (.bst h o) := rfl
theorem Encoded.place (h : Head) (o : F3) : Encoded.Statement (.place h o) := rfl
theorem Encoded.seal (h : Head) (o : F3) : Encoded.Statement (.seal h o) := rfl
theorem Encoded.pmpt (h : Head) (o : F3) : Encoded.Statement (.pmpt h o) := rfl
theorem Encoded.pairWord (s : Bool) (a b : Half) : Encoded.Statement (.pairWord s a b) := rfl
theorem Encoded.grant (core : Nat) (pa pb : BitVec 6) (opm : Bool) : Encoded.Statement (.grant core pa pb opm) := rfl
theorem Encoded.reclaim (core : Nat) (pa pb : BitVec 6) (opm : Bool) : Encoded.Statement (.reclaim core pa pb opm) := rfl
theorem Encoded.take (core : Nat) (pa pb : BitVec 6) (opm : Bool) : Encoded.Statement (.take core pa pb opm) := rfl
theorem Encoded.release (core : Nat) (pa pb : BitVec 6) (opm : Bool) : Encoded.Statement (.release core pa pb opm) := rfl
theorem Encoded.window (core : Nat) (pa pb : BitVec 6) (opm : Bool) : Encoded.Statement (.window core pa pb opm) := rfl
theorem Encoded.unwindow (core : Nat) (pa pb : BitVec 6) (opm : Bool) : Encoded.Statement (.unwindow core pa pb opm) := rfl
theorem Encoded.audbuf (core : Nat) (pa pb : BitVec 6) (opm : Bool) : Encoded.Statement (.audbuf core pa pb opm) := rfl
theorem Encoded.preset (core : Nat) (pa pb : BitVec 6) (opm : Bool) : Encoded.Statement (.preset core pa pb opm) := rfl
theorem Encoded.audtext (core : Nat) (pa pb : BitVec 6) (opm : Bool) : Encoded.Statement (.audtext core pa pb opm) := rfl
theorem Encoded.arm (part : Nat) : Encoded.Statement (.arm part) := rfl
theorem Encoded.disarm (part : Nat) : Encoded.Statement (.disarm part) := rfl
theorem Encoded.ctlmark (part : Nat) : Encoded.Statement (.ctlmark part) := rfl
theorem Encoded.tohbm (core : Nat) : Encoded.Statement (.tohbm core) := rfl
theorem Encoded.tocxl (core : Nat) : Encoded.Statement (.tocxl core) := rfl
theorem Encoded.tocold (core : Nat) : Encoded.Statement (.tocold core) := rfl
theorem Encoded.query (core : Nat) : Encoded.Statement (.query core) := rfl
theorem Encoded.tierMoveComplete (frame : Nat) : Encoded.Statement (.tierMoveComplete frame) := rfl
theorem Encoded.tqcmd (core : Nat) (off : BitVec 10) (slots : BitVec 13) : Encoded.Statement (.tqcmd core off slots) := rfl
theorem Encoded.evictCxlDirect (core : Nat) (part : BitVec 6) (opf : Bool) : Encoded.Statement (.evictCxlDirect core part opf) := rfl
theorem Encoded.evictCxlCold (core : Nat) (part : BitVec 6) (opf : Bool) : Encoded.Statement (.evictCxlCold core part opf) := rfl
theorem Encoded.ckproll (part : Nat) (cutgt : W64) : Encoded.Statement (.ckproll part cutgt) := rfl
theorem Encoded.ctxkill (handle : Nat) : Encoded.Statement (.ctxkill handle) := rfl
theorem Encoded.dbgctlFreeze : Encoded.Statement (.dbgctlFreeze ) := rfl
theorem Encoded.testPortFreeze : Encoded.Statement (.testPortFreeze ) := rfl
theorem Encoded.cxlRetrain (port : Nat) : Encoded.Statement (.cxlRetrain port) := rfl
theorem Encoded.hqtailDoorbell (ring : Nat) (value : W32) : Encoded.Statement (.hqtailDoorbell ring value) := rfl
theorem Encoded.hqskip (ring : Nat) (value : W32) : Encoded.Statement (.hqskip ring value) := rfl
theorem Encoded.hqctlWrite (ring : Nat) (value : W32) : Encoded.Statement (.hqctlWrite ring value) := rfl
theorem Encoded.ttcfgWrite (handle : Nat) (value : W32) : Encoded.Statement (.ttcfgWrite handle value) := rfl
theorem Encoded.sillageConfigWrite (part : Nat) (value : W32) : Encoded.Statement (.sillageConfigWrite part value) := rfl
theorem Encoded.energyCapture (g : Nat) (odd : Bool) : Encoded.Statement (.energyCapture g odd) := rfl
theorem Encoded.wearthrWrite (value : W32) : Encoded.Statement (.wearthrWrite value) := rfl
theorem Encoded.registerWrite (fn : Fn) (target : HostTarget) (part : Nat) (value : W32) : Encoded.Statement (.registerWrite fn target part value) := rfl
theorem Encoded.moduleReset : Encoded.Statement (.moduleReset ) := rfl
theorem Encoded.boot : Encoded.Statement (.boot ) := rfl
theorem Encoded.frameBoundary : Encoded.Statement (.frameBoundary ) := rfl
theorem Encoded.budgetExhausted (a : Activity) : Encoded.Statement (.budgetExhausted a) := rfl
theorem Encoded.boostIntervalBoundary : Encoded.Statement (.boostIntervalBoundary ) := rfl
theorem Encoded.energyUpdate (amounts : List Nat) : Encoded.Statement (.energyUpdate amounts) := rfl
theorem Encoded.droopStretch (cluster : Nat) : Encoded.Statement (.droopStretch cluster) := rfl
theorem Encoded.approachWindowStart : Encoded.Statement (.approachWindowStart ) := rfl
theorem Encoded.slotOpen : Encoded.Statement (.slotOpen ) := rfl
theorem Encoded.slotClose (r : SlotReport) : Encoded.Statement (.slotClose r) := rfl
theorem Encoded.slotOverrun (unit : Nat) (memory : Bool) : Encoded.Statement (.slotOverrun unit memory) := rfl
theorem Encoded.gtSyncExchange (offset : Int) : Encoded.Statement (.gtSyncExchange offset) := rfl
theorem Encoded.waitSatisfied (handle gi : Nat) : Encoded.Statement (.waitSatisfied handle gi) := rfl
theorem Encoded.blockStart (launch : Nat) : Encoded.Statement (.blockStart launch) := rfl
theorem Encoded.gangStart (launch : Nat) : Encoded.Statement (.gangStart launch) := rfl
theorem Encoded.gangPriorityTimeout (launch : Nat) : Encoded.Statement (.gangPriorityTimeout launch) := rfl
theorem Encoded.gangCannotFit (launch : Nat) : Encoded.Statement (.gangCannotFit launch) := rfl
theorem Encoded.blockComplete (handle : Nat) : Encoded.Statement (.blockComplete handle) := rfl
theorem Encoded.stepBoundaryComplete (launch : Nat) : Encoded.Statement (.stepBoundaryComplete launch) := rfl
theorem Encoded.blockSwitchOut (handle : Nat) : Encoded.Statement (.blockSwitchOut handle) := rfl
theorem Encoded.blockPageIn (handle : Nat) : Encoded.Statement (.blockPageIn handle) := rfl
theorem Encoded.matrixPass (cluster : Nat) : Encoded.Statement (.matrixPass cluster) := rfl
theorem Encoded.engineOpComplete (op : Nat) : Encoded.Statement (.engineOpComplete op) := rfl
theorem Encoded.scrubLine (frame : Nat) : Encoded.Statement (.scrubLine frame) := rfl
theorem Encoded.nopPacket (ring : Nat) : Encoded.Statement (.nopPacket ring) := rfl
theorem Encoded.indirect (ring : Nat) : Encoded.Statement (.indirect ring) := rfl
theorem Encoded.launch (cmd : Nat) : Encoded.Statement (.launch cmd) := rfl
theorem Encoded.bundle (cmd : Nat) : Encoded.Statement (.bundle cmd) := rfl
theorem Encoded.copy (cmd : Nat) : Encoded.Statement (.copy cmd) := rfl
theorem Encoded.signal (cmd : Nat) : Encoded.Statement (.signal cmd) := rfl
theorem Encoded.wait (cmd : Nat) : Encoded.Statement (.wait cmd) := rfl
theorem Encoded.waitReread (cmd : Nat) : Encoded.Statement (.waitReread cmd) := rfl
theorem Encoded.checkpoint (cmd : Nat) : Encoded.Statement (.checkpoint cmd) := rfl
theorem Encoded.qconfig (cmd : Nat) : Encoded.Statement (.qconfig cmd) := rfl
theorem Encoded.packetFetch (ring : Nat) : Encoded.Statement (.packetFetch ring) := rfl
theorem Encoded.ticketPost (cmd : Nat) : Encoded.Statement (.ticketPost cmd) := rfl
theorem Encoded.commandStart (ticket : Nat) : Encoded.Statement (.commandStart ticket) := rfl
theorem Encoded.ticketRepost (ticket : Nat) : Encoded.Statement (.ticketRepost ticket) := rfl
theorem Encoded.commandRetire (cmd : Nat) : Encoded.Statement (.commandRetire cmd) := rfl
theorem Encoded.msixMessageSend (fn : Fn) : Encoded.Statement (.msixMessageSend fn) := rfl
theorem Encoded.queueRetest (handle gi : Nat) : Encoded.Statement (.queueRetest handle gi) := rfl
theorem Encoded.gateDeadline (handle gi : Nat) : Encoded.Statement (.gateDeadline handle gi) := rfl
theorem Encoded.remoteTimeout (id : Nat) : Encoded.Statement (.remoteTimeout id) := rfl
theorem Encoded.remoteResponse (id : Nat) (a : Answer) : Encoded.Statement (.remoteResponse id a) := rfl
theorem Encoded.inboundPeerAccess (x : Inbound) : Encoded.Statement (.inboundPeerAccess x) := rfl
theorem Encoded.atsResponse (id : Nat) (grant : Option AtsGrant) : Encoded.Statement (.atsResponse id grant) := rfl
theorem Encoded.atsInvalidation (pasid page : Nat) : Encoded.Statement (.atsInvalidation pasid page) := rfl
theorem Encoded.invalidationCompletion (pasid page : Nat) : Encoded.Statement (.invalidationCompletion pasid page) := rfl
theorem Encoded.pageRequestResponse (pasid page : Nat) (code : PriCode) : Encoded.Statement (.pageRequestResponse pasid page code) := rfl
theorem Encoded.functionLevelReset (fn : Fn) : Encoded.Statement (.functionLevelReset fn) := rfl
theorem Encoded.pcieLinkDown : Encoded.Statement (.pcieLinkDown ) := rfl
theorem Encoded.linkRetryFail (port : Nat) : Encoded.Statement (.linkRetryFail port) := rfl
theorem Encoded.collRecordReceive (job : Nat) (r : JobRecord) : Encoded.Statement (.collRecordReceive job r) := rfl
theorem Encoded.collChunkMark (job chunk : Nat) (contrib : List (Nat × List W32)) : Encoded.Statement (.collChunkMark job chunk contrib) := rfl
theorem Encoded.collStallTimeout (job : Nat) : Encoded.Statement (.collStallTimeout job) := rfl
theorem Encoded.cxlPortLoss (port : Nat) : Encoded.Statement (.cxlPortLoss port) := rfl
theorem Encoded.blastError (ukind unit : Nat) (x : BlastSet) : Encoded.Statement (.blastError ukind unit x) := rfl
theorem Encoded.turnGrant (rot : Nat) : Encoded.Statement (.turnGrant rot) := rfl
theorem Encoded.turnQuantumExpiry (rot : Nat) : Encoded.Statement (.turnQuantumExpiry rot) := rfl
theorem Encoded.turnForcedSealing (part : Nat) : Encoded.Statement (.turnForcedSealing part) := rfl
theorem Encoded.checkpointDue (part : Nat) : Encoded.Statement (.checkpointDue part) := rfl
theorem Encoded.checkpointCut (part : Nat) : Encoded.Statement (.checkpointCut part) := rfl
theorem Encoded.checkpointFrameCopy (part frame : Nat) : Encoded.Statement (.checkpointFrameCopy part frame) := rfl
theorem Encoded.checkpointCommit (part : Nat) : Encoded.Statement (.checkpointCommit part) := rfl
theorem Encoded.droopRecovery (cluster : Nat) : Encoded.Statement (.droopRecovery cluster) := rfl
theorem Encoded.scanReadout (chain : Nat) : Encoded.Statement (.scanReadout chain) := rfl
theorem Encoded.pcieLinkUp (conventional : Bool) : Encoded.Statement (.pcieLinkUp conventional) := rfl
theorem Encoded.cxlTrainingComplete (port : Nat) (serial : Option Nat) : Encoded.Statement (.cxlTrainingComplete port serial) := rfl
theorem Encoded.forcedSealingOverdue (part : Nat) : Encoded.Statement (.forcedSealingOverdue part) := rfl
theorem Encoded.wordNamingNoInstruction (w : W64) : Encoded.Statement (.wordNamingNoInstruction w) := rfl
theorem Encoded.instructionFetchFailure (f : FetchFailure) : Encoded.Statement (.instructionFetchFailure f) := rfl
theorem Encoded.barMirrorRead (fn : Fn) (num : BitVec 16) (part : Nat) (word : Option BarWord) : Encoded.Statement (.barMirrorRead fn num part word) := rfl

end Sys2Proof.Laws
end

