-- ==== Sys2Proof/Tests/Slice0.lean ====
section
/-! SUPPORT. Tests on small states: words written out from the encodings of the spec, ill-formed terms, single steps whose results come
from the spec's rules, and for each statement a state and operands that meet its hypotheses. -/

namespace Sys2Proof.Tests

open Sys2Proof Sys2Proof.Machine

set_option Elab.async false

theorem test_decode_integer : ∀ x ∈ ([
    (0x800E000000000000, .nop { s := true, u := false, g := 7, n := false } { dst := 0, sa := 0, sb := 0, sc := 0, mod := 0x0 }),
    (0x8015040600000001, .mov { s := true, u := false, g := 2, n := true } { dst := 4, sa := 6, sb := 0, sc := 0, mod := 0x1 }),
    (0x002E03003F800000, .movi { s := false, u := false, g := 7, n := false } { dst := 3, sa := 0, imm := 0x3F800000 }),
    (0x003E040608000003, .iadd { s := false, u := false, g := 7, n := false } { dst := 4, sa := 6, sb := 8, sc := 0, mod := 0x3 }),
    (0x804E090AFFFFFFFF, .iaddi { s := true, u := false, g := 7, n := false } { dst := 9, sa := 10, imm := 0xFFFFFFFF }),
    (0x205E040608000007, .isub { s := false, u := true, g := 7, n := false } { dst := 4, sa := 6, sb := 8, sc := 0, mod := 0x7 }),
    (0x806EFE0102000000, .imul { s := true, u := false, g := 7, n := false } { dst := 254, sa := 1, sb := 2, sc := 0, mod := 0x0 }),
    (0x807E01023F004004, .imulhi { s := true, u := false, g := 7, n := false } { dst := 1, sa := 2, sb := 63, sc := 0, mod := 0x4004 }),
    (0x808E020507040005, .imad { s := true, u := false, g := 7, n := false } { dst := 2, sa := 5, sb := 7, sc := 4, mod := 0x5 }),
    (0x809E010203000004, .imin { s := true, u := false, g := 7, n := false } { dst := 1, sa := 2, sb := 3, sc := 0, mod := 0x4 }),
    (0x80AE020406000001, .imax { s := true, u := false, g := 7, n := false } { dst := 2, sa := 4, sb := 6, sc := 0, mod := 0x1 }),
    (0x80BE010200000002, .iabs { s := true, u := false, g := 7, n := false } { dst := 1, sa := 2, sb := 0, sc := 0, mod := 0x2 }),
    (0x80CE013F00002002, .ineg { s := true, u := false, g := 7, n := false } { dst := 1, sa := 63, sb := 0, sc := 0, mod := 0x2002 }),
    (0x80DE010203000000, .and { s := true, u := false, g := 7, n := false } { dst := 1, sa := 2, sb := 3, sc := 0, mod := 0x0 }),
    (0x80EE010203006000, .or { s := true, u := false, g := 7, n := false } { dst := 1, sa := 2, sb := 3, sc := 0, mod := 0x6000 }),
    (0xA0FE010203000000, .xor { s := true, u := true, g := 7, n := false } { dst := 1, sa := 2, sb := 3, sc := 0, mod := 0x0 }),
    (0x810E010200000000, .not { s := true, u := false, g := 7, n := false } { dst := 1, sa := 2, sb := 0, sc := 0, mod := 0x0 }),
    (0x811E0102F0F0F0F0, .andi { s := true, u := false, g := 7, n := false } { dst := 1, sa := 2, imm := 0xF0F0F0F0 }),
    (0x812E010200000001, .ori { s := true, u := false, g := 7, n := false } { dst := 1, sa := 2, imm := 0x1 }),
    (0x813E010280000000, .xori { s := true, u := false, g := 7, n := false } { dst := 1, sa := 2, imm := 0x80000000 })] : List (W64 × Instr)), decode x.1 = .ok x.2 := by decide

theorem test_decode_logic : ∀ x ∈ ([
    (0x814E010203000000, .shl { s := true, u := false, g := 7, n := false } { dst := 1, sa := 2, sb := 3, sc := 0, mod := 0x0 }),
    (0x815E010203000000, .shr { s := true, u := false, g := 7, n := false } { dst := 1, sa := 2, sb := 3, sc := 0, mod := 0x0 }),
    (0x816E010203000000, .sar { s := true, u := false, g := 7, n := false } { dst := 1, sa := 2, sb := 3, sc := 0, mod := 0x0 }),
    (0x817E01020000001F, .shli { s := true, u := false, g := 7, n := false } { dst := 1, sa := 2, imm := 0x1F }),
    (0x818E010200000000, .shri { s := true, u := false, g := 7, n := false } { dst := 1, sa := 2, imm := 0x0 }),
    (0x819E010200000005, .sari { s := true, u := false, g := 7, n := false } { dst := 1, sa := 2, imm := 0x5 }),
    (0x81AE010203000000, .rot { s := true, u := false, g := 7, n := false } { dst := 1, sa := 2, sb := 3, sc := 0, mod := 0x0 }),
    (0x81BE010203000004, .bfx { s := true, u := false, g := 7, n := false } { dst := 1, sa := 2, sb := 3, sc := 0, mod := 0x4 }),
    (0x81CE010203040000, .bfi { s := true, u := false, g := 7, n := false } { dst := 1, sa := 2, sb := 3, sc := 4, mod := 0x0 }),
    (0x81DE010200000000, .popc { s := true, u := false, g := 7, n := false } { dst := 1, sa := 2, sb := 0, sc := 0, mod := 0x0 }),
    (0x81EE010200000000, .clz { s := true, u := false, g := 7, n := false } { dst := 1, sa := 2, sb := 0, sc := 0, mod := 0x0 }),
    (0x81FE010200000000, .brev { s := true, u := false, g := 7, n := false } { dst := 1, sa := 2, sb := 0, sc := 0, mod := 0x0 }),
    (0x820E0102030F0000, .sel { s := true, u := false, g := 7, n := false } { dst := 1, sa := 2, sb := 3, sc := 15, mod := 0x0 }),
    (0xA21E01100E000024, .icmp { s := true, u := true, g := 7, n := false } { dst := 1, sa := 16, sb := 14, sc := 0, mod := 0x24 }),
    (0x822E410100000064, .icmpi { s := true, u := false, g := 7, n := false } { dst := 65, sa := 1, imm := 0x64 }),
    (0x823E010203000128, .plog { s := true, u := false, g := 7, n := false } { dst := 1, sa := 2, sb := 3, sc := 0, mod := 0x128 }),
    (0x024E0A0406010020, .lea { s := false, u := false, g := 7, n := false } { dst := 10, base := 4, idx := 0x6, off := 0x10, scope := 0, ord := 0, wid := 2, cpol := 0, xsc := 0 }),
    (0x825E0100000000F0, .idx { s := true, u := false, g := 7, n := false } { dst := 1, sa := 0, sb := 0, sc := 0, mod := 0xF0 }),
    (0x026E090200000020, .vote { s := false, u := false, g := 7, n := false } { dst := 9, sa := 2, sb := 0, sc := 0, mod := 0x20 }),
    (0x827E020101004030, .shfl { s := true, u := false, g := 7, n := false } { dst := 2, sa := 1, sb := 1, sc := 0, mod := 0x4030 }),
    (0x828E040100000000, .vred { s := true, u := false, g := 7, n := false } { dst := 4, sa := 1, sb := 0, sc := 0, mod := 0x0 })] : List (W64 × Instr)), decode x.1 = .ok x.2 := by decide

theorem test_decode_float : ∀ x ∈ ([
    (0x8402050304000000, .fadd { s := true, u := false, g := 1, n := false } { dst := 5, sa := 3, sb := 4, sc := 0, mod := 0x0 }),
    (0x841E010203000C1B, .fsub { s := true, u := false, g := 7, n := false } { dst := 1, sa := 2, sb := 3, sc := 0, mod := 0xC1B }),
    (0x842E010203000200, .fmul { s := true, u := false, g := 7, n := false } { dst := 1, sa := 2, sb := 3, sc := 0, mod := 0x200 }),
    (0x043E040506070002, .ffma { s := false, u := false, g := 7, n := false } { dst := 4, sa := 5, sb := 6, sc := 7, mod := 0x2 }),
    (0x844E010203000100, .fmin { s := true, u := false, g := 7, n := false } { dst := 1, sa := 2, sb := 3, sc := 0, mod := 0x100 }),
    (0x845E010203000011, .fmax { s := true, u := false, g := 7, n := false } { dst := 1, sa := 2, sb := 3, sc := 0, mod := 0x11 }),
    (0x846E120103000000, .fcmp { s := true, u := false, g := 7, n := false } { dst := 18, sa := 1, sb := 3, sc := 0, mod := 0x0 }),
    (0x047E05023F800000, .fmuli { s := false, u := false, g := 7, n := false } { dst := 5, sa := 2, imm := 0x3F800000 }),
    (0x848E0102BF800000, .faddi { s := true, u := false, g := 7, n := false } { dst := 1, sa := 2, imm := 0xBF800000 }),
    (0x849E010203040924, .fdot2 { s := true, u := false, g := 7, n := false } { dst := 1, sa := 2, sb := 3, sc := 4, mod := 0x924 }),
    (0x84AE010203000140, .fclass { s := true, u := false, g := 7, n := false } { dst := 1, sa := 2, sb := 3, sc := 0, mod := 0x140 }),
    (0x84BE010200000C00, .frnd { s := true, u := false, g := 7, n := false } { dst := 1, sa := 2, sb := 0, sc := 0, mod := 0xC00 })] : List (W64 × Instr)), decode x.1 = .ok x.2 := by decide

theorem test_decode_transcendental : ∀ x ∈ ([
    (0x850E010200000000, .frcp { s := true, u := false, g := 7, n := false } { dst := 1, sa := 2, sb := 0, sc := 0, mod := 0x0 }),
    (0x851E010200000001, .frsq { s := true, u := false, g := 7, n := false } { dst := 1, sa := 2, sb := 0, sc := 0, mod := 0x1 }),
    (0x852E010200000800, .fsqrt { s := true, u := false, g := 7, n := false } { dst := 1, sa := 2, sb := 0, sc := 0, mod := 0x800 }),
    (0x853E010200000008, .fex2 { s := true, u := false, g := 7, n := false } { dst := 1, sa := 2, sb := 0, sc := 0, mod := 0x8 }),
    (0x854E010200000100, .flg2 { s := true, u := false, g := 7, n := false } { dst := 1, sa := 2, sb := 0, sc := 0, mod := 0x100 }),
    (0x855E010200000000, .fsin { s := true, u := false, g := 7, n := false } { dst := 1, sa := 2, sb := 0, sc := 0, mod := 0x0 }),
    (0x856E010200000200, .fcos { s := true, u := false, g := 7, n := false } { dst := 1, sa := 2, sb := 0, sc := 0, mod := 0x200 }),
    (0x857E010200000000, .fsig { s := true, u := false, g := 7, n := false } { dst := 1, sa := 2, sb := 0, sc := 0, mod := 0x0 }),
    (0xA58E010200000000, .ftanh { s := true, u := true, g := 7, n := false } { dst := 1, sa := 2, sb := 0, sc := 0, mod := 0x0 })] : List (W64 × Instr)), decode x.1 = .ok x.2 := by decide

theorem test_decode_conversion : ∀ x ∈ ([
    (0x080E020001000045, .cvt { s := false, u := false, g := 7, n := false } { dst := 2, sa := 0, sb := 1, sc := 0, mod := 0x45 }),
    (0x881E292400000000, .npk { s := true, u := false, g := 7, n := false } { dst := 41, sa := 36, sb := 0, sc := 0, mod := 0x0 }),
    (0x882E040203070000, .nunpk { s := true, u := false, g := 7, n := false } { dst := 4, sa := 2, sb := 3, sc := 7, mod := 0x0 }),
    (0x883E010203001101, .scl { s := true, u := false, g := 7, n := false } { dst := 1, sa := 2, sb := 3, sc := 0, mod := 0x1101 }),
    (0x884E100C00000020, .sclx { s := true, u := false, g := 7, n := false } { dst := 16, sa := 12, sb := 0, sc := 0, mod := 0x20 }),
    (0x085E030300000001, .tag { s := false, u := false, g := 7, n := false } { dst := 3, sa := 3, sb := 0, sc := 0, mod := 0x1 }),
    (0x886E010203006000, .tagr { s := true, u := false, g := 7, n := false } { dst := 1, sa := 2, sb := 3, sc := 0, mod := 0x6000 }),
    (0x287E00000F95075C, .fmset { s := false, u := true, g := 7, n := false } { dst := 0, sa := 0, imm := 0xF95075C })] : List (W64 × Instr)), decode x.1 = .ok x.2 := by decide

theorem test_decode_control : ∀ x ∈ ([
    (0xAC0E01FFFFF80000, .bra { s := true, u := true, g := 7, n := false } { cond := 1, tgt := 0xFFFFF8, rcv := 0 }),
    (0x8C1E000400000001, .brx { s := true, u := false, g := 7, n := false } { dst := 0, sa := 4, sb := 0, sc := 0, mod := 0x1 }),
    (0xAC2E1EFFFFFF0000, .call { s := true, u := true, g := 7, n := false } { cond := 30, tgt := 0xFFFFFF, rcv := 0 }),
    (0xAC3E001E00000000, .ret { s := true, u := true, g := 7, n := false } { dst := 0, sa := 30, sb := 0, sc := 0, mod := 0x0 }),
    (0x8C46000000000000, .exit { s := true, u := false, g := 3, n := false } { dst := 0, sa := 0, sb := 0, sc := 0, mod := 0x0 }),
    (0xAC5E000000000000, .bar { s := true, u := true, g := 7, n := false } { dst := 0, sa := 0, sb := 0, sc := 0, mod := 0x0 }),
    (0x2C6E000000000083, .bara { s := false, u := true, g := 7, n := false } { dst := 0, sa := 0, imm := 0x83 }),
    (0xAC7E00000000010F, .barw { s := true, u := true, g := 7, n := false } { dst := 0, sa := 0, imm := 0x10F }),
    (0xAC8E000000000000, .yld { s := true, u := true, g := 7, n := false } { dst := 0, sa := 0, sb := 0, sc := 0, mod := 0x0 }),
    (0xAC9E000000000100, .gcall { s := true, u := true, g := 7, n := false } { dst := 0, sa := 0, imm := 0x100 })] : List (W64 × Instr)), decode x.1 = .ok x.2 := by decide

theorem test_decode_handlers : ∀ x ∈ ([
    (0xACAE000000000000, .gret { s := true, u := true, g := 7, n := false } { dst := 0, sa := 0, sb := 0, sc := 0, mod := 0x0 }),
    (0xACBE0000000000FF, .trap { s := true, u := true, g := 7, n := false } { dst := 0, sa := 0, imm := 0xFF }),
    (0xACCE000000000000, .rte { s := true, u := true, g := 7, n := false } { dst := 0, sa := 0, sb := 0, sc := 0, mod := 0x0 }),
    (0xACDE000300000000, .step { s := true, u := true, g := 7, n := false } { dst := 0, sa := 3, sb := 0, sc := 0, mod := 0x0 }),
    (0xACEE0C00FF000000, .qput { s := true, u := true, g := 7, n := false } { dst := 12, base := 0, idx := 0xFF, off := 0x0, scope := 0, ord := 0, wid := 0, cpol := 0, xsc := 0 }),
    (0xACFE0604FF000000, .qget { s := true, u := true, g := 7, n := false } { dst := 6, base := 4, idx := 0xFF, off := 0x0, scope := 0, ord := 0, wid := 0, cpol := 0, xsc := 0 }),
    (0xAD0E070406000000, .qctlDone { s := true, u := true, g := 7, n := false } { dst := 7, sa := 4, sb := 6, sc := 0, mod := 0x0 }),
    (0xAD0E1B0009000001, .qctlErr { s := true, u := true, g := 7, n := false } { dst := 27, sa := 0, sb := 9, sc := 0, mod := 0x1 }),
    (0xAD0E1B0000000002, .qctlRun { s := true, u := true, g := 7, n := false } { dst := 27, sa := 0, sb := 0, sc := 0, mod := 0x2 }),
    (0xAD0E1B0019000003, .qctlSetr { s := true, u := true, g := 7, n := false } { dst := 27, sa := 0, sb := 25, sc := 0, mod := 0x3 }),
    (0xAD0E1A0000000004, .qctlStat { s := true, u := true, g := 7, n := false } { dst := 26, sa := 0, sb := 0, sc := 0, mod := 0x4 })] : List (W64 × Instr)), decode x.1 = .ok x.2 := by decide

theorem test_decode_memory : ∀ x ∈ ([
    (0xB00E0802FF000050, .ld { s := true, u := true, g := 7, n := false } { dst := 8, base := 2, idx := 0xFF, off := 0x0, scope := 0, ord := 0, wid := 5, cpol := 0, xsc := 0 }),
    (0x121E0804FF010020, .ldTyped { s := false, u := false, g := 7, n := false } 1 { dst := 8, base := 4, idx := 0xFF, off := 0x10, scope := 0, ord := 0, wid := 2, cpol := 0, xsc := 0 }),
    (0x1012050A02000020, .st { s := false, u := false, g := 1, n := false } { dst := 5, base := 10, idx := 0x2, off := 0x0, scope := 0, ord := 0, wid := 2, cpol := 0, xsc := 0 }),
    (0x902E0402FFFFF2C3, .lds { s := true, u := false, g := 7, n := false } { dst := 4, base := 2, idx := 0xFF, off := 0xFFF, scope := 1, ord := 1, wid := 4, cpol := 0, xsc := 3 }),
    (0x131E0502FF004020, .ldsTyped { s := false, u := false, g := 7, n := false } 1 { dst := 5, base := 2, idx := 0xFF, off := 0x4, scope := 0, ord := 0, wid := 2, cpol := 0, xsc := 0 }),
    (0x103E282CFF000030, .sts { s := false, u := false, g := 7, n := false } { dst := 40, base := 44, idx := 0xFF, off := 0x0, scope := 0, ord := 0, wid := 3, cpol := 0, xsc := 0 }),
    (0x904E080209000052, .ldc { s := true, u := false, g := 7, n := false } { dst := 8, base := 2, idx := 0x9, off := 0x0, scope := 0, ord := 0, wid := 5, cpol := 0, xsc := 2 }),
    (0xB05E2804010009A0, .atom { s := true, u := true, g := 7, n := false } { dst := 40, base := 4, idx := 0x1, off := 0x0, scope := 4, ord := 3, wid := 2, cpol := 0, xsc := 0 }),
    (0x906E040281000020, .atoms { s := true, u := false, g := 7, n := false } { dst := 4, base := 2, idx := 0x81, off := 0x0, scope := 0, ord := 0, wid := 2, cpol := 0, xsc := 0 }),
    (0x107E090403000920, .red { s := false, u := false, g := 7, n := false } { dst := 9, base := 4, idx := 0x3, off := 0x0, scope := 4, ord := 2, wid := 2, cpol := 0, xsc := 0 })] : List (W64 × Instr)), decode x.1 = .ok x.2 := by decide

theorem test_decode_memory_system : ∀ x ∈ ([
    (0xB08E0000FF000980, .fence { s := true, u := true, g := 7, n := false } { dst := 0, base := 0, idx := 0xFF, off := 0x0, scope := 4, ord := 3, wid := 0, cpol := 0, xsc := 0 }),
    (0x909E0002FF001000, .cbinv { s := true, u := false, g := 7, n := false } { dst := 0, base := 2, idx := 0xFF, off := 0x1, scope := 0, ord := 0, wid := 0, cpol := 0, xsc := 0 }),
    (0x90AE0304FF000000, .tlook { s := true, u := false, g := 7, n := false } { dst := 3, base := 4, idx := 0xFF, off := 0x0, scope := 0, ord := 0, wid := 0, cpol := 0, xsc := 0 }),
    (0x90BE0102FF000000, .tset { s := true, u := false, g := 7, n := false } { dst := 1, base := 2, idx := 0xFF, off := 0x0, scope := 0, ord := 0, wid := 0, cpol := 0, xsc := 0 }),
    (0x90CE000000000001, .tclr { s := true, u := false, g := 7, n := false } { dst := 0, sa := 0, sb := 0, sc := 0, mod := 0x1 }),
    (0x90DE00020300000D, .prf { s := true, u := false, g := 7, n := false } { dst := 0, base := 2, idx := 0x3, off := 0x0, scope := 0, ord := 0, wid := 0, cpol := 3, xsc := 1 }),
    (0xB0EE0C0000000000, .fget { s := true, u := true, g := 7, n := false } { dst := 12, sa := 0, sb := 0, sc := 0, mod := 0x0 }),
    (0x90FE000500000000, .fput { s := true, u := false, g := 7, n := false } { dst := 0, sa := 5, sb := 0, sc := 0, mod := 0x0 }),
    (0xB10E000406000000, .tinv { s := true, u := true, g := 7, n := false } { dst := 0, sa := 4, sb := 6, sc := 0, mod := 0x0 })] : List (W64 × Instr)), decode x.1 = .ok x.2 := by decide

theorem test_decode_engine : ∀ x ∈ ([
    (0x140E000812004040, .mma { s := false, u := false, g := 7, n := false } { dst := 0, sa := 8, sb := 18, sc := 0, mod := 0x4040 }),
    (0x141E000806024001, .mmam { s := false, u := false, g := 7, n := false } { dst := 0, sa := 8, sb := 6, sc := 2, mod := 0x4001 }),
    (0x942E010804004000, .mmt { s := true, u := false, g := 7, n := false } { dst := 1, sa := 8, sb := 4, sc := 0, mod := 0x4000 }),
    (0x343E010200000000, .aalloc { s := false, u := true, g := 7, n := false } { dst := 1, sa := 2, sb := 0, sc := 0, mod := 0x0 }),
    (0xB44E070000000000, .afree { s := true, u := true, g := 7, n := false } { dst := 7, sa := 0, sb := 0, sc := 0, mod := 0x0 }),
    (0xB45E030000000000, .azero { s := true, u := true, g := 7, n := false } { dst := 3, sa := 0, sb := 0, sc := 0, mod := 0x0 }),
    (0x1462100004000068, .ald { s := false, u := false, g := 1, n := false } { dst := 16, sa := 0, sb := 4, sc := 0, mod := 0x68 })] : List (W64 × Instr)), decode x.1 = .ok x.2 := by decide

theorem test_decode_transfers : ∀ x ∈ ([
    (0x1474011804000070, .aput { s := false, u := false, g := 2, n := false } { dst := 1, sa := 24, sb := 4, sc := 0, mod := 0x70 }),
    (0x348E000603000000, .tmld { s := false, u := true, g := 7, n := false } { dst := 0, sa := 6, sb := 3, sc := 0, mod := 0x0 }),
    (0x349E000400000000, .cpy { s := false, u := true, g := 7, n := false } { dst := 0, sa := 4, sb := 0, sc := 0, mod := 0x0 }),
    (0xB4AE000600000000, .gth { s := true, u := true, g := 7, n := false } { dst := 0, sa := 6, sb := 0, sc := 0, mod := 0x0 }),
    (0xB4BE003E00000000, .sct { s := true, u := true, g := 7, n := false } { dst := 0, sa := 62, sb := 0, sc := 0, mod := 0x0 }),
    (0xB4CE000800000000, .coll { s := true, u := true, g := 7, n := false } { dst := 0, sa := 8, sb := 0, sc := 0, mod := 0x0 }),
    (0xB4DE000000000000, .waitc { s := true, u := true, g := 7, n := false } { dst := 0, sa := 0, imm := 0x0 }),
    (0xB4EE090000000000, .cntr { s := true, u := true, g := 7, n := false } { dst := 9, sa := 0, sb := 0, sc := 0, mod := 0x0 })] : List (W64 × Instr)), decode x.1 = .ok x.2 := by decide

theorem test_decode_system : ∀ x ∈ ([
    (0xB80E0A0230100001, .srd { s := true, u := true, g := 7, n := false } { dst := 10, sa := 2, reg := 0x3010, mod := 1 }),
    (0xB81E080000160000, .swr { s := true, u := true, g := 7, n := false } { dst := 8, sa := 0, reg := 0x16, mod := 0 }),
    (0x982E020000000000, .gtm { s := true, u := false, g := 7, n := false } { dst := 2, sa := 0, sb := 0, sc := 0, mod := 0x0 }),
    (0xB83E040000000000, .ccnt { s := true, u := true, g := 7, n := false } { dst := 4, sa := 0, sb := 0, sc := 0, mod := 0x0 }),
    (0xB84E080000000000, .calq { s := true, u := true, g := 7, n := false } { dst := 8, sa := 0, sb := 0, sc := 0, mod := 0x0 }),
    (0x3855000000000002, .bst { s := false, u := true, g := 2, n := true } { dst := 0, sa := 0, imm := 0x2 }),
    (0xB86E001629000000, .place { s := true, u := true, g := 7, n := false } { dst := 0, sa := 22, sb := 41, sc := 0, mod := 0x0 }),
    (0xB87E14161B000000, .seal { s := true, u := true, g := 7, n := false } { dst := 20, sa := 22, sb := 27, sc := 0, mod := 0x0 }),
    (0xB88E010204000001, .pmpt { s := true, u := true, g := 7, n := false } { dst := 1, sa := 2, sb := 4, sc := 0, mod := 0x1 })] : List (W64 × Instr)), decode x.1 = .ok x.2 := by decide


theorem test_decode_pair : ∀ x ∈ ([
    (0xC070081000E06070, .pairWord true { hop := 0, g := 7, n := false, dst := 1, src := 2, m4 := 0 } { hop := 0, g := 7, n := false, dst := 6, src := 7, m4 := 0 }),
    (0xE4F0182821E04062, .pairWord true { hop := 0x49, g := 7, n := false, dst := 3, src := 5, m4 := 0 } { hop := 0x21, g := 7, n := false, dst := 4, src := 6, m4 := 2 }),
    (0x4C28081210E02059, .pairWord false { hop := 0x18, g := 2, n := true, dst := 1, src := 2, m4 := 4 } { hop := 0x10, g := 7, n := false, dst := 2, src := 5, m4 := 9 }),
    (0xC607D7D8D0D3F002, .pairWord true { hop := 0x0C, g := 0, n := false, dst := 250, src := 251, m4 := 1 } { hop := 0x50, g := 6, n := true, dst := 63, src := 0, m4 := 2 })] : List (W64 × Instr)), decode x.1 = .ok x.2 := by decide

theorem test_ill_formed_integer : ∀ i ∈ ([
    .nop { s := true, u := false, g := 7, n := false } { dst := 1, sa := 0, sb := 0, sc := 0, mod := 0x0 },
    .mov { s := true, u := false, g := 7, n := false } { dst := 1, sa := 2, sb := 0, sc := 0, mod := 0x4 },
    .mov { s := true, u := false, g := 7, n := false } { dst := 5, sa := 2, sb := 0, sc := 0, mod := 0x1 },
    .movi { s := true, u := false, g := 7, n := false } { dst := 1, sa := 1, imm := 0x0 },
    .iadd { s := true, u := false, g := 7, n := false } { dst := 1, sa := 2, sb := 3, sc := 0, mod := 0x4 },
    .iaddi { s := true, u := false, g := 7, n := false } { dst := 255, sa := 1, imm := 0x0 },
    .isub { s := true, u := false, g := 7, n := false } { dst := 1, sa := 2, sb := 3, sc := 4, mod := 0x0 },
    .imul { s := true, u := false, g := 7, n := false } { dst := 1, sa := 2, sb := 3, sc := 0, mod := 0x1 },
    .imulhi { s := true, u := false, g := 7, n := false } { dst := 1, sa := 2, sb := 3, sc := 0, mod := 0x2 },
    .imad { s := true, u := true, g := 7, n := false } { dst := 1, sa := 2, sb := 3, sc := 4, mod := 0x8000 },
    .imin { s := true, u := false, g := 7, n := false } { dst := 1, sa := 2, sb := 3, sc := 0, mod := 0x2 },
    .imax { s := true, u := false, g := 7, n := false } { dst := 2, sa := 4, sb := 5, sc := 0, mod := 0x1 },
    .iabs { s := true, u := false, g := 7, n := false } { dst := 1, sa := 2, sb := 0, sc := 0, mod := 0x4 },
    .ineg { s := true, u := false, g := 7, n := false } { dst := 1, sa := 2, sb := 1, sc := 0, mod := 0x0 },
    .and { s := true, u := false, g := 7, n := false } { dst := 1, sa := 2, sb := 64, sc := 0, mod := 0x4000 },
    .or { s := true, u := true, g := 7, n := false } { dst := 64, sa := 1, sb := 1, sc := 0, mod := 0x0 },
    .xor { s := true, u := false, g := 7, n := false } { dst := 1, sa := 2, sb := 3, sc := 0, mod := 0x1 },
    .not { s := true, u := false, g := 7, n := false } { dst := 1, sa := 2, sb := 0, sc := 0, mod := 0x4000 },
    .andi { s := true, u := false, g := 7, n := false } { dst := 1, sa := 255, imm := 0x0 },
    .ori { s := true, u := true, g := 7, n := false } { dst := 64, sa := 1, imm := 0x0 },
    .xori { s := true, u := true, g := 7, n := false } { dst := 1, sa := 64, imm := 0x0 },
    .shl { s := true, u := false, g := 7, n := false } { dst := 1, sa := 2, sb := 3, sc := 0, mod := 0x2 },
    .shr { s := true, u := false, g := 7, n := false } { dst := 1, sa := 2, sb := 3, sc := 1, mod := 0x0 },
    .sar { s := true, u := false, g := 7, n := false } { dst := 1, sa := 255, sb := 3, sc := 0, mod := 0x0 },
    .shli { s := true, u := false, g := 7, n := false } { dst := 1, sa := 2, imm := 0x20 },
    .shri { s := true, u := false, g := 7, n := false } { dst := 1, sa := 2, imm := 0x20 },
    .sari { s := true, u := false, g := 7, n := false } { dst := 1, sa := 2, imm := 0xFFFFFFFF },
    .rot { s := true, u := false, g := 7, n := false } { dst := 1, sa := 2, sb := 3, sc := 0, mod := 0x10 },
    .bfx { s := true, u := false, g := 7, n := false } { dst := 1, sa := 2, sb := 3, sc := 0, mod := 0x1 },
    .bfi { s := true, u := false, g := 7, n := false } { dst := 1, sa := 2, sb := 3, sc := 255, mod := 0x0 },
    .popc { s := true, u := false, g := 7, n := false } { dst := 1, sa := 2, sb := 1, sc := 0, mod := 0x0 },
    .clz { s := true, u := false, g := 7, n := false } { dst := 1, sa := 2, sb := 0, sc := 1, mod := 0x0 },
    .brev { s := true, u := false, g := 7, n := false } { dst := 1, sa := 2, sb := 0, sc := 0, mod := 0x8000 },
    .sel { s := true, u := false, g := 7, n := false } { dst := 1, sa := 2, sb := 3, sc := 16, mod := 0x0 },
    .icmp { s := true, u := false, g := 7, n := false } { dst := 1, sa := 2, sb := 3, sc := 0, mod := 0x60 },
    .icmp { s := true, u := false, g := 7, n := false } { dst := 1, sa := 2, sb := 3, sc := 0, mod := 0x300 },
    .icmp { s := true, u := false, g := 7, n := false } { dst := 8, sa := 2, sb := 3, sc := 0, mod := 0x0 },
    .icmp { s := true, u := false, g := 7, n := false } { dst := 1, sa := 2, sb := 3, sc := 1, mod := 0x0 },
    .icmpi { s := true, u := false, g := 7, n := false } { dst := 128, sa := 1, imm := 0x0 },
    .icmpi { s := true, u := false, g := 7, n := false } { dst := 96, sa := 1, imm := 0x0 },
    .plog { s := true, u := false, g := 7, n := false } { dst := 1, sa := 2, sb := 3, sc := 0, mod := 0x40 },
    .plog { s := true, u := false, g := 7, n := false } { dst := 1, sa := 2, sb := 0, sc := 0, mod := 0x130 },
    .plog { s := true, u := false, g := 7, n := false } { dst := 1, sa := 8, sb := 1, sc := 0, mod := 0x0 },
    .lea { s := true, u := false, g := 7, n := false } { dst := 2, base := 4, idx := 0xFF, off := 0x0, scope := 0, ord := 0, wid := 6, cpol := 0, xsc := 0 },
    .lea { s := true, u := false, g := 7, n := false } { dst := 2, base := 4, idx := 0xFF, off := 0x0, scope := 0, ord := 0, wid := 0, cpol := 0, xsc := 2 },
    .lea { s := true, u := false, g := 7, n := false } { dst := 2, base := 5, idx := 0xFF, off := 0x0, scope := 0, ord := 0, wid := 0, cpol := 0, xsc := 0 },
    .lea { s := true, u := false, g := 7, n := false } { dst := 2, base := 4, idx := 0xFF, off := 0x0, scope := 1, ord := 0, wid := 0, cpol := 0, xsc := 0 },
    .idx { s := true, u := true, g := 7, n := false } { dst := 1, sa := 0, sb := 0, sc := 0, mod := 0x0 },
    .vote { s := true, u := false, g := 7, n := false } { dst := 1, sa := 2, sb := 0, sc := 0, mod := 0x30 },
    .vote { s := true, u := true, g := 7, n := false } { dst := 1, sa := 2, sb := 0, sc := 0, mod := 0x0 },
    .shfl { s := true, u := false, g := 7, n := false } { dst := 1, sa := 2, sb := 3, sc := 0, mod := 0x40 },
    .vred { s := true, u := false, g := 7, n := false } { dst := 64, sa := 1, sb := 0, sc := 0, mod := 0x0 }] : List Instr), WellFormed i = false := by decide

theorem test_ill_formed_float : ∀ i ∈ ([
    .fadd { s := true, u := false, g := 7, n := false } { dst := 1, sa := 2, sb := 3, sc := 0, mod := 0x300 },
    .fsub { s := true, u := false, g := 7, n := false } { dst := 1, sa := 2, sb := 3, sc := 0, mod := 0x1000 },
    .fmul { s := true, u := false, g := 7, n := false } { dst := 1, sa := 2, sb := 3, sc := 0, mod := 0x4 },
    .ffma { s := true, u := false, g := 7, n := false } { dst := 1, sa := 2, sb := 3, sc := 255, mod := 0x0 },
    .fmin { s := true, u := false, g := 7, n := false } { dst := 1, sa := 2, sb := 3, sc := 0, mod := 0x400 },
    .fmax { s := true, u := false, g := 7, n := false } { dst := 1, sa := 2, sb := 3, sc := 0, mod := 0x300 },
    .fcmp { s := true, u := false, g := 7, n := false } { dst := 48, sa := 2, sb := 3, sc := 0, mod := 0x0 },
    .fcmp { s := true, u := false, g := 7, n := false } { dst := 128, sa := 2, sb := 3, sc := 0, mod := 0x0 },
    .fcmp { s := true, u := false, g := 7, n := false } { dst := 1, sa := 2, sb := 3, sc := 0, mod := 0x40 },
    .fmuli { s := true, u := false, g := 7, n := false } { dst := 255, sa := 1, imm := 0x0 },
    .faddi { s := true, u := false, g := 7, n := false } { dst := 1, sa := 255, imm := 0x0 },
    .fdot2 { s := true, u := false, g := 7, n := false } { dst := 1, sa := 2, sb := 3, sc := 4, mod := 0x0 },
    .fclass { s := true, u := false, g := 7, n := false } { dst := 1, sa := 2, sb := 3, sc := 0, mod := 0x40 },
    .frnd { s := true, u := false, g := 7, n := false } { dst := 1, sa := 2, sb := 0, sc := 0, mod := 0x1000 },
    .frcp { s := true, u := false, g := 7, n := false } { dst := 1, sa := 2, sb := 0, sc := 0, mod := 0x400 },
    .frsq { s := true, u := false, g := 7, n := false } { dst := 1, sa := 2, sb := 0, sc := 0, mod := 0x400 },
    .fex2 { s := true, u := false, g := 7, n := false } { dst := 1, sa := 2, sb := 0, sc := 0, mod := 0x400 },
    .flg2 { s := true, u := false, g := 7, n := false } { dst := 1, sa := 2, sb := 0, sc := 0, mod := 0x400 },
    .fsin { s := true, u := false, g := 7, n := false } { dst := 1, sa := 2, sb := 0, sc := 0, mod := 0x400 },
    .fcos { s := true, u := false, g := 7, n := false } { dst := 1, sa := 2, sb := 0, sc := 0, mod := 0x400 },
    .fsig { s := true, u := false, g := 7, n := false } { dst := 1, sa := 2, sb := 0, sc := 0, mod := 0x400 },
    .ftanh { s := true, u := false, g := 7, n := false } { dst := 1, sa := 2, sb := 0, sc := 0, mod := 0x400 },
    .fsqrt { s := true, u := false, g := 7, n := false } { dst := 1, sa := 2, sb := 0, sc := 0, mod := 0x1000 },
    .cvt { s := true, u := false, g := 7, n := false } { dst := 2, sa := 1, sb := 0, sc := 0, mod := 0x44 },
    .cvt { s := true, u := false, g := 7, n := false } { dst := 3, sa := 1, sb := 0, sc := 0, mod := 0x42 },
    .cvt { s := true, u := false, g := 7, n := false } { dst := 1, sa := 2, sb := 1, sc := 0, mod := 0x4 },
    .npk { s := true, u := false, g := 7, n := false } { dst := 1, sa := 2, sb := 0, sc := 8, mod := 0x0 },
    .npk { s := true, u := false, g := 7, n := false } { dst := 1, sa := 2, sb := 0, sc := 0, mod := 0x800 },
    .nunpk { s := true, u := false, g := 7, n := false } { dst := 1, sa := 2, sb := 0, sc := 0, mod := 0x400 },
    .scl { s := true, u := false, g := 7, n := false } { dst := 1, sa := 2, sb := 3, sc := 0, mod := 0x1000 },
    .sclx { s := true, u := false, g := 7, n := false } { dst := 1, sa := 2, sb := 0, sc := 0, mod := 0x30 },
    .sclx { s := true, u := true, g := 7, n := false } { dst := 1, sa := 2, sb := 0, sc := 0, mod := 0x0 },
    .tag { s := true, u := false, g := 7, n := false } { dst := 1, sa := 2, sb := 0, sc := 0, mod := 0xE },
    .tagr { s := true, u := false, g := 7, n := false } { dst := 1, sa := 2, sb := 3, sc := 0, mod := 0x1 },
    .fmset { s := true, u := true, g := 7, n := false } { dst := 0, sa := 0, imm := 0x80 },
    .fmset { s := true, u := true, g := 7, n := false } { dst := 0, sa := 0, imm := 0x10000000 },
    .fmset { s := true, u := true, g := 7, n := false } { dst := 8, sa := 0, imm := 0x0 },
    .fmset { s := true, u := false, g := 7, n := false } { dst := 0, sa := 0, imm := 0x0 }] : List Instr), WellFormed i = false := by decide

theorem test_ill_formed_control : ∀ i ∈ ([
    .bra { s := false, u := false, g := 7, n := false } { cond := 1, tgt := 0x1, rcv := 1 },
    .bra { s := true, u := false, g := 7, n := false } { cond := 1, tgt := 0x1, rcv := 0 },
    .bra { s := true, u := false, g := 7, n := false } { cond := 32, tgt := 0x0, rcv := 1 },
    .bra { s := true, u := true, g := 7, n := false } { cond := 16, tgt := 0x0, rcv := 0 },
    .bra { s := true, u := true, g := 7, n := false } { cond := 1, tgt := 0x0, rcv := 1 },
    .brx { s := true, u := false, g := 7, n := false } { dst := 0, sa := 4, sb := 0, sc := 0, mod := 0x0 },
    .brx { s := true, u := true, g := 7, n := false } { dst := 0, sa := 5, sb := 0, sc := 0, mod := 0x0 },
    .call { s := true, u := true, g := 7, n := false } { cond := 31, tgt := 0x0, rcv := 0 },
    .call { s := true, u := true, g := 7, n := false } { cond := 30, tgt := 0x0, rcv := 1 },
    .ret { s := false, u := false, g := 7, n := false } { dst := 0, sa := 4, sb := 0, sc := 0, mod := 0x0 },
    .exit { s := true, u := false, g := 7, n := false } { dst := 1, sa := 0, sb := 0, sc := 0, mod := 0x0 },
    .bar { s := true, u := false, g := 7, n := false } { dst := 0, sa := 0, sb := 0, sc := 0, mod := 0x0 },
    .bar { s := false, u := true, g := 7, n := false } { dst := 0, sa := 0, sb := 0, sc := 0, mod := 0x0 },
    .bara { s := true, u := true, g := 7, n := false } { dst := 0, sa := 0, imm := 0x3 },
    .bara { s := true, u := true, g := 7, n := false } { dst := 0, sa := 0, imm := 0x120 },
    .barw { s := true, u := true, g := 7, n := false } { dst := 0, sa := 0, imm := 0x203 },
    .yld { s := false, u := true, g := 7, n := false } { dst := 0, sa := 0, sb := 0, sc := 0, mod := 0x0 },
    .gcall { s := true, u := true, g := 7, n := false } { dst := 0, sa := 0, imm := 0x200 },
    .gret { s := true, u := false, g := 7, n := false } { dst := 0, sa := 0, sb := 0, sc := 0, mod := 0x0 },
    .trap { s := true, u := true, g := 7, n := false } { dst := 0, sa := 0, imm := 0x100 },
    .rte { s := true, u := true, g := 7, n := false } { dst := 0, sa := 1, sb := 0, sc := 0, mod := 0x0 },
    .step { s := true, u := true, g := 7, n := false } { dst := 0, sa := 64, sb := 0, sc := 0, mod := 0x0 },
    .qput { s := true, u := true, g := 7, n := false } { dst := 1, base := 4, idx := 0xFF, off := 0x1, scope := 0, ord := 0, wid := 0, cpol := 0, xsc := 0 },
    .qget { s := true, u := true, g := 7, n := false } { dst := 1, base := 4, idx := 0xFF, off := 0x0, scope := 0, ord := 0, wid := 0, cpol := 0, xsc := 2 },
    .qctlDone { s := true, u := true, g := 7, n := false } { dst := 1, sa := 5, sb := 2, sc := 0, mod := 0x0 },
    .qctlErr { s := true, u := true, g := 7, n := false } { dst := 1, sa := 5, sb := 2, sc := 0, mod := 0x1 },
    .qctlRun { s := true, u := true, g := 7, n := false } { dst := 1, sa := 5, sb := 2, sc := 0, mod := 0x2 },
    .qctlSetr { s := true, u := true, g := 7, n := false } { dst := 1, sa := 5, sb := 2, sc := 0, mod := 0x3 },
    .qctlStat { s := true, u := true, g := 7, n := false } { dst := 1, sa := 5, sb := 2, sc := 0, mod := 0x4 }] : List Instr), WellFormed i = false := by decide

theorem test_ill_formed_memory : ∀ i ∈ ([
    .ld { s := true, u := false, g := 7, n := false } { dst := 1, base := 4, idx := 0xFF, off := 0x0, scope := 0, ord := 0, wid := 6, cpol := 0, xsc := 0 },
    .ld { s := true, u := false, g := 7, n := false } { dst := 1, base := 4, idx := 0xFF, off := 0x0, scope := 0, ord := 0, wid := 3, cpol := 0, xsc := 0 },
    .ld { s := true, u := false, g := 7, n := false } { dst := 1, base := 4, idx := 0xFF, off := 0x0, scope := 0, ord := 2, wid := 0, cpol := 0, xsc := 0 },
    .ld { s := true, u := false, g := 7, n := false } { dst := 1, base := 4, idx := 0xFF, off := 0x0, scope := 6, ord := 0, wid := 0, cpol := 0, xsc := 0 },
    .ldTyped { s := true, u := true, g := 7, n := false } 1 { dst := 1, base := 4, idx := 0xFF, off := 0x0, scope := 0, ord := 0, wid := 0, cpol := 0, xsc := 0 },
    .st { s := true, u := false, g := 7, n := false } { dst := 1, base := 4, idx := 0xFF, off := 0x0, scope := 0, ord := 1, wid := 0, cpol := 0, xsc := 0 },
    .lds { s := true, u := false, g := 7, n := false } { dst := 1, base := 4, idx := 0xFF, off := 0x0, scope := 2, ord := 0, wid := 0, cpol := 0, xsc := 0 },
    .ldsTyped { s := true, u := false, g := 7, n := false } 1 { dst := 1, base := 4, idx := 0xFF, off := 0x0, scope := 0, ord := 0, wid := 0, cpol := 1, xsc := 0 },
    .sts { s := true, u := false, g := 7, n := false } { dst := 1, base := 4, idx := 0xFF, off := 0x0, scope := 0, ord := 3, wid := 0, cpol := 0, xsc := 0 },
    .ldc { s := true, u := false, g := 7, n := false } { dst := 1, base := 4, idx := 0xFF, off := 0x0, scope := 0, ord := 0, wid := 1, cpol := 0, xsc := 0 },
    .atom { s := true, u := false, g := 7, n := false } { dst := 1, base := 4, idx := 0x90, off := 0x0, scope := 0, ord := 0, wid := 2, cpol := 0, xsc := 0 },
    .atom { s := true, u := false, g := 7, n := false } { dst := 1, base := 4, idx := 0x80, off := 0x0, scope := 0, ord := 0, wid := 2, cpol := 0, xsc := 0 },
    .atom { s := true, u := false, g := 7, n := false } { dst := 1, base := 4, idx := 0x1, off := 0x0, scope := 0, ord := 0, wid := 3, cpol := 0, xsc := 0 },
    .atoms { s := true, u := false, g := 7, n := false } { dst := 1, base := 4, idx := 0x0, off := 0x0, scope := 0, ord := 0, wid := 2, cpol := 1, xsc := 0 },
    .red { s := true, u := false, g := 7, n := false } { dst := 1, base := 4, idx := 0x60, off := 0x0, scope := 0, ord := 0, wid := 2, cpol := 0, xsc := 0 },
    .fence { s := true, u := true, g := 7, n := false } { dst := 0, base := 0, idx := 0xFF, off := 0x0, scope := 0, ord := 0, wid := 0, cpol := 0, xsc := 0 },
    .fence { s := true, u := false, g := 7, n := false } { dst := 0, base := 0, idx := 0xFF, off := 0x0, scope := 0, ord := 3, wid := 0, cpol := 0, xsc := 0 },
    .cbinv { s := true, u := false, g := 7, n := false } { dst := 1, base := 4, idx := 0xFF, off := 0x0, scope := 0, ord := 0, wid := 0, cpol := 0, xsc := 0 },
    .tlook { s := true, u := false, g := 7, n := false } { dst := 1, base := 4, idx := 0xFF, off := 0x0, scope := 0, ord := 0, wid := 1, cpol := 0, xsc := 0 },
    .tset { s := true, u := false, g := 7, n := false } { dst := 1, base := 4, idx := 0x1, off := 0x0, scope := 0, ord := 0, wid := 0, cpol := 0, xsc := 0 },
    .tclr { s := true, u := false, g := 7, n := false } { dst := 0, sa := 1, sb := 0, sc := 0, mod := 0x1 },
    .prf { s := true, u := false, g := 7, n := false } { dst := 0, base := 4, idx := 0xFF, off := 0x0, scope := 1, ord := 0, wid := 0, cpol := 0, xsc := 0 },
    .fget { s := true, u := false, g := 7, n := false } { dst := 1, sa := 1, sb := 0, sc := 0, mod := 0x0 },
    .fput { s := true, u := false, g := 7, n := false } { dst := 1, sa := 0, sb := 0, sc := 0, mod := 0x0 },
    .tinv { s := true, u := false, g := 7, n := false } { dst := 0, sa := 3, sb := 1, sc := 0, mod := 0x0 }] : List Instr), WellFormed i = false := by decide

theorem test_ill_formed_system : ∀ i ∈ ([
    .mma { s := true, u := false, g := 7, n := false } { dst := 8, sa := 8, sb := 4, sc := 0, mod := 0x4000 },
    .mma { s := true, u := false, g := 7, n := false } { dst := 0, sa := 8, sb := 4, sc := 0, mod := 0x0 },
    .mma { s := true, u := false, g := 7, n := false } { dst := 0, sa := 8, sb := 4, sc := 0, mod := 0x4300 },
    .mma { s := true, u := false, g := 7, n := false } { dst := 0, sa := 248, sb := 4, sc := 0, mod := 0x4000 },
    .mmam { s := true, u := false, g := 7, n := false } { dst := 0, sa := 8, sb := 5, sc := 0, mod := 0x4000 },
    .mmt { s := true, u := false, g := 7, n := false } { dst := 0, sa := 8, sb := 4, sc := 1, mod := 0x4100 },
    .aalloc { s := true, u := true, g := 7, n := false } { dst := 8, sa := 1, sb := 0, sc := 0, mod := 0x0 },
    .afree { s := true, u := false, g := 7, n := false } { dst := 1, sa := 0, sb := 0, sc := 0, mod := 0x0 },
    .azero { s := true, u := true, g := 7, n := false } { dst := 1, sa := 1, sb := 0, sc := 0, mod := 0x0 },
    .ald { s := true, u := false, g := 7, n := false } { dst := 16, sa := 0, sb := 1, sc := 0, mod := 0x64 },
    .ald { s := true, u := false, g := 7, n := false } { dst := 16, sa := 0, sb := 1, sc := 0, mod := 0xA0 },
    .aput { s := true, u := false, g := 7, n := false } { dst := 0, sa := 16, sb := 1, sc := 0, mod := 0x180 },
    .tmld { s := true, u := true, g := 7, n := false } { dst := 0, sa := 5, sb := 1, sc := 0, mod := 0x0 },
    .cpy { s := true, u := false, g := 7, n := false } { dst := 0, sa := 6, sb := 0, sc := 0, mod := 0x0 },
    .gth { s := true, u := true, g := 7, n := false } { dst := 0, sa := 6, sb := 1, sc := 0, mod := 0x0 },
    .sct { s := true, u := true, g := 7, n := false } { dst := 0, sa := 63, sb := 0, sc := 0, mod := 0x0 },
    .coll { s := true, u := true, g := 7, n := false } { dst := 0, sa := 8, sb := 0, sc := 0, mod := 0x1 },
    .waitc { s := true, u := true, g := 7, n := false } { dst := 0, sa := 0, imm := 0x40 },
    .cntr { s := true, u := true, g := 7, n := false } { dst := 64, sa := 0, sb := 0, sc := 0, mod := 0x0 },
    .srd { s := true, u := false, g := 7, n := false } { dst := 8, sa := 1, reg := 0x5000, mod := 0 },
    .srd { s := true, u := false, g := 7, n := false } { dst := 8, sa := 0, reg := 0x5000, mod := 2 },
    .swr { s := true, u := false, g := 7, n := false } { dst := 8, sa := 0, reg := 0x5000, mod := 0 },
    .gtm { s := true, u := false, g := 7, n := false } { dst := 3, sa := 0, sb := 0, sc := 0, mod := 0x0 },
    .ccnt { s := true, u := false, g := 7, n := false } { dst := 2, sa := 1, sb := 0, sc := 0, mod := 0x0 },
    .calq { s := true, u := true, g := 7, n := false } { dst := 62, sa := 0, sb := 0, sc := 0, mod := 0x0 },
    .bst { s := true, u := true, g := 7, n := false } { dst := 0, sa := 0, imm := 0x3 },
    .place { s := true, u := true, g := 7, n := false } { dst := 1, sa := 3, sb := 4, sc := 0, mod := 0x0 },
    .seal { s := true, u := false, g := 7, n := false } { dst := 1, sa := 2, sb := 4, sc := 0, mod := 0x0 },
    .pmpt { s := true, u := true, g := 7, n := false } { dst := 1, sa := 2, sb := 4, sc := 0, mod := 0x2 }] : List Instr), WellFormed i = false := by decide

theorem test_ill_formed_pair : ∀ x ∈ ([
    ({ hop := 0x0E, g := 7, n := false, dst := 1, src := 2, m4 := 0 }, { hop := 0, g := 7, n := false, dst := 6, src := 7, m4 := 0 }),
    ({ hop := 0x00, g := 7, n := false, dst := 1, src := 2, m4 := 1 }, { hop := 0, g := 7, n := false, dst := 6, src := 7, m4 := 0 }),
    ({ hop := 0x0C, g := 7, n := false, dst := 1, src := 2, m4 := 2 }, { hop := 0, g := 7, n := false, dst := 6, src := 7, m4 := 0 }),
    ({ hop := 0x10, g := 7, n := false, dst := 1, src := 2, m4 := 3 }, { hop := 0, g := 7, n := false, dst := 6, src := 7, m4 := 0 }),
    ({ hop := 0x18, g := 7, n := false, dst := 1, src := 2, m4 := 6 }, { hop := 0, g := 7, n := false, dst := 6, src := 7, m4 := 0 }),
    ({ hop := 0x20, g := 7, n := false, dst := 1, src := 2, m4 := 3 }, { hop := 0, g := 7, n := false, dst := 6, src := 7, m4 := 0 }),
    ({ hop := 0x09, g := 7, n := false, dst := 1, src := 32, m4 := 0 }, { hop := 0, g := 7, n := false, dst := 6, src := 7, m4 := 0 }),
    ({ hop := 0x09, g := 7, n := false, dst := 1, src := 31, m4 := 8 }, { hop := 0, g := 7, n := false, dst := 6, src := 7, m4 := 0 }),
    ({ hop := 0x40, g := 7, n := false, dst := 1, src := 2, m4 := 8 }, { hop := 0, g := 7, n := false, dst := 6, src := 7, m4 := 0 }),
    ({ hop := 0x40, g := 7, n := false, dst := 64, src := 2, m4 := 0 }, { hop := 0, g := 7, n := false, dst := 6, src := 7, m4 := 0 }),
    ({ hop := 0x00, g := 7, n := false, dst := 1, src := 64, m4 := 8 }, { hop := 0, g := 7, n := false, dst := 6, src := 7, m4 := 0 }),
    ({ hop := 0x00, g := 7, n := false, dst := 1, src := 2, m4 := 0 }, { hop := 0, g := 7, n := false, dst := 5, src := 7, m4 := 0 }),
    ({ hop := 0x00, g := 7, n := false, dst := 1, src := 2, m4 := 0 }, { hop := 0, g := 7, n := false, dst := 6, src := 6, m4 := 0 }),
    ({ hop := 0x40, g := 7, n := false, dst := 1, src := 2, m4 := 0 }, { hop := 0x41, g := 7, n := false, dst := 1, src := 7, m4 := 0 }),
    ({ hop := 0x20, g := 7, n := false, dst := 1, src := 2, m4 := 2 }, { hop := 0x61, g := 7, n := false, dst := 6, src := 7, m4 := 2 })] : List (Half × Half)),
    WellFormed (.pairWord true x.1 x.2) = false := by decide

theorem test_ill_formed_events : ∀ i ∈ ([.grant 768 0 0 0, .arm 64, .tohbm 768, .tierMoveComplete Config.frames, .ckproll 64 0, .cxlRetrain 8, .hqskip 1040 0, .energyCapture 4 false,
    .droopStretch 192, .waitSatisfied 0 16, .matrixPass 192, .scrubLine Config.frames, .linkRetryFail 128, .cxlPortLoss 8, .turnForcedSealing 64] : List Instr), WellFormed i = false := by
  decide +kernel

/-! ### Small states -/

/-- A word that always executes, in vector form. -/
def hv : Head := { s := true, u := false, g := 7, n := false }
/-- A word that always executes, in uniform form. -/
def hu : Head := { s := true, u := true, g := 7, n := false }
/-- A word that never executes, in uniform form. -/
def hn : Head := { s := true, u := true, g := 7, n := true }
/-- Fields of an F3 word. -/
def f3 (d a b c : BitVec 8) (mod : BitVec 16) : F3 := { dst := d, sa := a, sb := b, sc := c, mod }
/-- Fields of an FI word. -/
def fi (d a : BitVec 8) (imm : W32) : FI := { dst := d, sa := a, imm }
/-- Fields of an FM word of a width, with no index and default classes. -/
def fm (d base : BitVec 8) (off : BitVec 12) (wid : BitVec 3) : FM :=
  { dst := d, base, idx := 0xFF, off, scope := 0, ord := 0, wid, cpol := 0, xsc := 0 }

/-- After reset, with one group of authority `auth` whose first word is about to issue, changed as said. -/
def at_ (auth : BitVec 2) (f : Group → Group) (t : State → State) : State :=
  t ((placeWord State.reset 0).modGroup 0 0 (fun g => f { g with auth }))

/-- A group with uniform registers. -/
def uni (rs : List (Nat × W32)) (g : Group) : Group :=
  let R := rs.foldl (fun R x => Regs.setUni R x.1 x.2) g.live
  { g with base := R, live := R }

/-- A group with vector registers in lane 31. -/
def vecs (rs : List (Nat × VReg)) (g : Group) : Group :=
  let R := rs.foldl (fun R x => Regs.setVec R x.1 31 x.2) g.live
  { g with base := R, live := R }

/-- The premises of `Issues`, and one more of the views, computed. -/
def meets (i : Instr) (r : Rights) (s : State) (P : View → View → Bool) : Bool :=
  match issuing s with
  | none => false
  | some v0 =>
    match viewOf (startRun s v0) v0.handle v0.gi with
    | none => false
    | some v => (v.g.pend.find? (fun f => decide (v.g.level ≤ f.level))).isNone && decide (v.sl.cnt < 31) && encOk v.regs v.accs i &&
        r.allow v.g.auth.toNat && P v0 v

/-- What `meets` computes. -/
theorem meets_issues {i : Instr} {e : Bool} {r : Rights} {s : State} {P : View → View → Bool} (h : meets i r s P = true) :
    ∃ v0 v, Issues i e r s v0 v ∧ P v0 v = true := by
  unfold meets at h
  split at h
  · cases h
  · rename_i v0 hv0
    split at h
    · cases h
    · rename_i v hv
      simp only [Bool.and_eq_true, decide_eq_true_eq, Option.isNone_iff_eq_none] at h
      exact ⟨v0, v, ⟨hv0, hv, h.1.1.1.1, .inl h.1.1.1.2, h.1.1.2, h.1.2⟩, h.2⟩

/-- Every instruction of a list meets the premises of `Issues`, in one state. -/
def allMeet (r : Rights) (s : State) (is : List Instr) : Bool := is.all (fun i => meets i r s (fun _ _ => true))

/-- The state after a word. -/
def after (i : Instr) (s : State) : State := match exec i s with | .next t => t | _ => s
/-- The group after a word. -/
def grp (i : Instr) (s : State) : Group := ((after i s).group? 0 0).getD {}
/-- A uniform register of the group after a word. -/
def uniOf (i : Instr) (s : State) (r : Nat) : W32 := (grp i s).live.uni r
/-- A vector register of lane 31 of the group after a word. -/
def vecOf (i : Instr) (s : State) (r : Nat) : VReg := (grp i s).live.vec r 31

/-- A group of which only lane 31 executes. -/
def last (g : Group) : Group := { g with slot0 := { g.slot0 with mask := 0x80000000 } }
/-- Tagged values in registers of lane 31. -/
def tagged (t : BitVec 4) (rs : List Nat) : Group → Group := vecs (rs.map (fun r => (r, { bits := 0x3F800000, tag := t })))
/-- Every executing lane of a word passes a test. -/
def everyLane (h : Head) (p : View → Nat → Bool) (v : View) : Bool := (v.units h).all (p v)

/-- The premise `Drained`, computed. -/
def drained (s : State) (v0 v : View) : Bool :=
  v.g.held.isEmpty && v.g.remFail.isEmpty && ((startRun s v0).remotesOf v.handle v.gi).isEmpty
/-- A line of bytes in the control-block cache of core 0, at a virtual address of an ASID. -/
def line (asid va : Nat) (bs : List Byte) (s : State) : State :=
  s.setCore 0 { s.core 0 with cbc := { asid, line := va / 64, bytes := bs ++ List.replicate (64 - bs.length) 0 } :: (s.core 0).cbc }
/-- The bytes a capture finds. -/
def capturedBytes (s : State) (core a : Nat) (va : W64) (n : Nat) : List Byte := match (capture s core a va n).2 with | .ok bs => bs | _ => []
/-- A capture finds its bytes. -/
def capturesOk (s : State) (core a : Nat) (va : W64) (n : Nat) : Bool := match (capture s core a va n).2 with | .ok _ => true | _ => false
/-- A page table entry that names table `slot` of a frame. -/
def tablePte (frame slot : Nat) : List Byte := toBytes (1 + 2 ^ 13 * slot + 2 ^ 16 * frame) 8
/-- A leaf with flags for a frame. -/
def leafPte (frame flags : Nat) : List Byte := toBytes (1 + flags + 2 ^ 16 * frame) 8
/-- Page tables of ASID 0 in a frame: page 1 is frame 2, with flags, page 2 frame 3 for control data, page 3 a host page, page 4 frame 4. -/
def mappedIn (t flags : Nat) (s : State) : State :=
  let e : W64 := ftMake 1 0 false false false false false 0 false false false
  let s := (((s.setFt t e).setFt 2 e).setFt 3 (ftMake 1 0 true false false false false 0 false false false)).setFt 4 e
  let s := (s.setReg 0 0x6060 (BitVec.ofNat 32 (2 ^ 16 * t + 1))).setReg 0 0x6061 (BitVec.ofNat 32 (2 ^ 16 * t / 2 ^ 32))
  let a := 65536 * t
  let m := memPut (memPut (memPut s.mem a (tablePte t 1)) (a + 8192) (tablePte t 2)) (a + 2 * 8192) (tablePte t 3)
  { s with mem := memPut m (a + 3 * 8192) (leafPte 0 0x30 ++ leafPte 2 flags ++ leafPte 3 0x50 ++ leafPte 5 0x90 ++ leafPte 4 0x10) }
/-- The same in frame 1. -/
def mapped : State → State := mappedIn 1 0x10
/-- Partition 0 in its turn on clusters 0 and 191, with one launch. -/
def turnOfPart0 (l : Launch) (bs : AMap Block) : State :=
  let s := State.reset.setTurnState 0 1
  { s with rots := [(0, { cl := [0, 191], members := [0], holder := some 0 })], launches := [(5, l)], blocks := bs, nextHandle := 9 }
/-- The operator's tables in frame 5: page 1 is frame 6, and 64 MiB of host pages lie at 0x4000000. -/
def opMapped (s : State) : State :=
  let e (slot : Nat) : List Byte := toBytes (1 + 2 ^ 13 * slot + 5 * 2 ^ 16) 8
  let s := (s.setFt 5 (ftMake 2 0 false false false false false 0 false false false)).setFt 6 (ftMake 2 0 false false false false false 0 false false false)
  let s := s.setReg 0 0x5300 0x50001
  let m := memPut (memPut (memPut s.mem (5 * 65536) (e 1)) (5 * 65536 + 8192) (e 2)) (5 * 65536 + 2 * 8192) (e 3 ++ toBytes (0x93 + 1024 * 65536) 8)
  { s with mem := memPut m (5 * 65536 + 3 * 8192 + 8) (leafPte 6 0x10) }
/-- Frame 2 is mapped at 0x10000, frame 3 for control data at 0x20000, frame 4 at 0x40000, outside a maintenance slot, with a group of context 0. -/
def engState (c : Counters) (o : Option EngOp) (b : Block → Block) : State :=
  let s := mapped (at_ 0 (fun g => { g with counters := c }) (fun s => s.modBlock 0 b))
  { s with clock := { s.clock with phase := .open_ }, ops := match o with | some o => [(7, o)] | none => [], nextOp := 8 }
/-- A copy of 64 bytes from 0x10000 to 0x40000 of group 0 of context 0. -/
def copyOp : EngOp :=
  { owner := .group 0 0 0, cls := 0, kind := .copy, asid := 0, auth := 0, part := some 0, cluster := 0, iaddr := 8, va := 0x8000, mask := 1
    block := toBytes 0x10000 8 ++ toBytes 0x40000 8 ++ toBytes 64 4 ++ toBytes 1 4 ++ toBytes 0 8 ++ List.replicate 32 0 }

/-! ### Single words, with the results the spec's examples give or its rules give by hand -/

/-- R194, the example of `iadd.64.sat`. -/
theorem test_iadd_sat :
    let s := at_ 0 (uni [(6, 0xFFFFFFF0), (7, 0x7FFFFFFF), (8, 0x20)]) id
    uniOf (.iadd hu (f3 4 6 8 0 3)) s 4 = 0xFFFFFFFF ∧ uniOf (.iadd hu (f3 4 6 8 0 3)) s 5 = 0x7FFFFFFF ∧
    uniOf (.iadd hu (f3 4 6 8 0 1)) s 4 = 0x10 ∧ uniOf (.iadd hu (f3 4 6 8 0 1)) s 5 = 0x80000000 := by decide

/-- R194: under `.usat` a negative difference gives 0, and a 32-bit difference wraps. -/
theorem test_isub_borrow :
    let s := at_ 0 (uni [(6, 1), (8, 2)]) id
    uniOf (.isub hu (f3 4 6 8 0 6)) s 4 = 0 ∧ uniOf (.isub hu (f3 4 6 8 0 0)) s 4 = 0xFFFFFFFF := by decide

/-- R194: words of a product with a negative factor; `imad` in its 64-bit form. -/
theorem test_products :
    let s := at_ 0 (uni [(1, 0xFFFFFFFF), (2, 2), (6, 3), (7, 0)]) id
    uniOf (.imul hu (f3 4 1 2 0 0)) s 4 = 0xFFFFFFFE ∧ uniOf (.imulhi hu (f3 4 1 2 0 0)) s 4 = 0xFFFFFFFF ∧
    uniOf (.imulhi hu (f3 4 1 2 0 4)) s 4 = 1 ∧ uniOf (.imad hu (f3 4 1 2 6 1)) s 4 = 1 ∧ uniOf (.imad hu (f3 4 1 2 6 1)) s 5 = 0 := by decide

/-- R194: extremes, magnitude and negative of the most negative number. -/
theorem test_extremes :
    let s := at_ 0 (uni [(1, 0x80000000), (2, 1)]) id
    uniOf (.imin hu (f3 4 1 2 0 0)) s 4 = 0x80000000 ∧ uniOf (.imax hu (f3 4 1 2 0 4)) s 4 = 0x80000000 ∧
    uniOf (.iabs hu (f3 4 1 0 0 0)) s 4 = 0x80000000 ∧ uniOf (.iabs hu (f3 4 1 0 0 2)) s 4 = 0x7FFFFFFF ∧
    uniOf (.ineg hu (f3 4 1 0 0 2)) s 4 = 0x7FFFFFFF ∧ uniOf (.ineg hu (f3 4 2 0 0 0)) s 4 = 0xFFFFFFFF := by decide

/-- R195: shifts by 32 and more, and a rotation. -/
theorem test_shifts :
    let s := at_ 0 (uni [(1, 0x80000001), (2, 32), (3, 4)]) id
    uniOf (.shl hu (f3 4 1 2 0 0)) s 4 = 0 ∧ uniOf (.shr hu (f3 4 1 2 0 0)) s 4 = 0 ∧ uniOf (.sar hu (f3 4 1 2 0 0)) s 4 = 0xFFFFFFFF ∧
    uniOf (.shli hu (fi 4 1 31)) s 4 = 0x80000000 ∧ uniOf (.shri hu (fi 4 1 31)) s 4 = 1 ∧ uniOf (.sari hu (fi 4 1 31)) s 4 = 0xFFFFFFFF ∧
    uniOf (.rot hu (f3 4 1 3 0 0)) s 4 = 0x18 := by decide

/-- R195: logic on two patterns. -/
theorem test_logic :
    let s := at_ 0 (uni [(1, 0xC), (2, 0xA)]) id
    uniOf (.and hu (f3 4 1 2 0 0)) s 4 = 8 ∧ uniOf (.or hu (f3 4 1 2 0 0)) s 4 = 0xE ∧ uniOf (.xor hu (f3 4 1 2 0 0)) s 4 = 6 ∧
    uniOf (.not hu (f3 4 1 0 0 0)) s 4 = 0xFFFFFFF3 ∧ uniOf (.andi hu (fi 4 1 0xA)) s 4 = 8 ∧ uniOf (.ori hu (fi 4 1 0xA)) s 4 = 0xE ∧
    uniOf (.xori hu (fi 4 1 0xA)) s 4 = 6 := by decide

/-- R195: counts and the reversal. -/
theorem test_counts :
    let s := at_ 0 (uni [(1, 0x00010003), (2, 0)]) id
    uniOf (.popc hu (f3 4 1 0 0 0)) s 4 = 3 ∧ uniOf (.clz hu (f3 4 1 0 0 0)) s 4 = 15 ∧ uniOf (.clz hu (f3 4 2 0 0 0)) s 4 = 32 ∧
    uniOf (.brev hu (f3 4 1 0 0 0)) s 4 = 0xC0008000 := by decide

/-- R196, its example. -/
theorem test_fields :
    let s := at_ 0 (uni [(1, 0xDEADBEEF), (2, 0x0804), (3, 0x55)]) id
    uniOf (.bfx hu (f3 4 1 2 0 4)) s 4 = 0xEE ∧ uniOf (.bfx hu (f3 4 1 2 0 0)) s 4 = 0xFFFFFFEE ∧
    uniOf (.bfi hu (f3 4 1 3 2 0)) s 4 = 0xDEADB55F := by decide

/-- R197, R198: a signed and an unsigned comparison of -1 with 1, a combined one, and a selection by the result. -/
theorem test_compare_select :
    let s := at_ 0 (uni [(1, 0xFFFFFFFF), (2, 1)]) id
    (grp (.icmp hu (f3 3 1 2 0 0x20)) s).live.upred 3 = true ∧ (grp (.icmp hu (f3 3 1 2 0 0x24)) s).live.upred 3 = false ∧
    (grp (.icmp hu (f3 3 1 2 0xF 0x120)) s).live.upred 3 = false ∧ (grp (.icmpi hu (fi 0x13 1 0)) s).live.upred 3 = true ∧
    uniOf (.sel hu (f3 4 1 2 7 0)) s 4 = 0xFFFFFFFF ∧ uniOf (.sel hu (f3 4 1 2 0xF 0)) s 4 = 1 := by decide

/-- R200: the four combinations of true and false. -/
theorem test_plog :
    let s := at_ 0 id id
    let p (sel : BitVec 16) : Bool := (grp (.plog hu (f3 1 7 0 0 sel)) s).live.upred 1
    p 0 = false ∧ p 0x10 = true ∧ p 0x20 = true ∧ p 0x30 = false ∧ p 0x100 = true := by decide

/-- R201, its example. -/
theorem test_lea :
    let s := at_ 0 (uni [(4, 0), (5, 0xA12), (6, 0xFFFFFFFF)]) id
    let i := Instr.lea hu { dst := 10, base := 4, idx := 6, off := 16, scope := 0, ord := 0, wid := 2, cpol := 0, xsc := 0 }
    uniOf i s 10 = 0x3C ∧ uniOf i s 11 = 0xA12 := by decide

/-- R51, its example: launch index 17 of 4 × 2 × 1 with 3 stages. -/
theorem test_idx :
    let s := at_ 0 id (fun s => { s with launches := [(5, { gx := 4, gy := 2, gz := 1, stages := 3 })] }.modBlock 0
      (fun b => { b with launch := some 5, lidx := 17 }))
    let x (sel : BitVec 16) : W32 := uniOf (.idx hu (f3 4 0 0 0 sel)) s 4
    x 0x20 = 1 ∧ x 0x30 = 1 ∧ x 0x40 = 0 ∧ x 0x80 = 2 ∧ x 0xF0 = 17 ∧ x 0xE0 = 0xFFFFFFFF := by decide

/-- R18, its example: core 413 belongs to cluster 103 and die 4. -/
theorem test_idx_place :
    let s := at_ 0 id (fun s => s.modBlock 0 (fun b => { b with place := .core 413 }))
    uniOf (.idx hu (f3 4 0 0 0 0xC0)) s 4 = 103 ∧ uniOf (.idx hu (f3 4 0 0 0 0xB0)) s 4 = 4 := by decide

/-- R204–R206: a ballot of the lanes, an exchange, and sums and extremes over them. -/
theorem test_lanes :
    let s := at_ 0 (vecs [(1, { bits := 5 })] ∘ uni [(1, 16)]) id
    uniOf (.vote hv (f3 9 7 0 0 0x20)) s 9 = 0xFFFFFFFF ∧ uniOf (.vote hv (f3 9 7 0 0 0x28)) s 9 = 0 ∧
    vecOf (.shfl hv (f3 2 1 1 0 0x4030)) s 2 = { bits := 0, tag := 0 } ∧
    ((grp (.shfl hv (f3 2 1 1 0 0x4030)) s).live.vec 2 15).bits = 5 ∧
    uniOf (.vred hv (f3 4 1 0 0 0)) s 4 = 5 ∧ uniOf (.vred hv (f3 4 1 0 0 0x10)) s 4 = 0 ∧ uniOf (.vred hv (f3 4 1 0 0 0x20)) s 4 = 5 := by
  decide +kernel

/-- R94, R211: 1.0 and 2.0 of F32, a product, and one rounding of a product and sum. -/
theorem test_float :
    let s := at_ 0 (uni [(1, 0x3F800000), (2, 0x40000000), (3, 0x3F800001)]) id
    uniOf (.fadd hu (f3 4 1 2 0 0)) s 4 = 0x40400000 ∧ uniOf (.fsub hu (f3 4 1 2 0 0)) s 4 = 0xBF800000 ∧
    uniOf (.fmul hu (f3 4 2 2 0 0)) s 4 = 0x40800000 ∧ uniOf (.ffma hu (f3 4 3 3 1 4)) s 4 = 0x34800000 ∧
    uniOf (.fmuli hu (fi 4 1 0x40000000)) s 4 = 0x40000000 ∧ uniOf (.faddi hu (fi 4 1 0x3F800000)) s 4 = 0x40000000 := by decide

/-- R212, R215, R216: -0 lies below +0; a NaN compares unordered; the class of minus infinity. -/
theorem test_float_tests :
    let s := at_ 0 (uni [(1, 0), (2, 0x80000000), (3, 0x7F800001), (5, 0xFF800000), (6, 1)]) id
    uniOf (.fmin hu (f3 4 1 2 0 0)) s 4 = 0x80000000 ∧ uniOf (.fmax hu (f3 4 2 1 0 0)) s 4 = 0 ∧ uniOf (.fmin hu (f3 4 3 1 0 0)) s 4 = 0 ∧
    (grp (.fcmp hu (f3 0x42 3 1 0 0)) s).live.upred 2 = true ∧ (grp (.fcmp hu (f3 0x02 1 2 0 0)) s).live.upred 2 = true ∧
    (grp (.fclass hu (f3 2 5 6 0 0)) s).live.upred 2 = true := by decide

/-- R214, R213: `frnd.rn` of 2.5 and `frnd.rd` of -0.5; infinities of both signs give NaN in `fdot2`. -/
theorem test_frnd_fdot2 :
    let s := at_ 0 (uni [(1, 0x40200000), (2, 0xBF000000), (3, 0xFC007C00), (5, 0x3C003C00)]) id
    uniOf (.frnd hu (f3 4 1 0 0 0)) s 4 = 0x40000000 ∧ uniOf (.frnd hu (f3 4 2 0 0 0x800)) s 4 = 0xBF800000 ∧
    uniOf (.fdot2 hu (f3 4 3 5 1 0x100)) s 4 = 0x7FC00000 ∧ uniOf (.fdot2 hu (f3 4 5 5 1 0x100)) s 4 = 0x40900000 := by decide

/-- R217: special values of the transcendentals. -/
theorem test_transcendentals :
    let s := at_ 0 (uni [(1, 0), (2, 0x7F800000), (3, 0x3F800000), (5, 0x40800000)]) id
    uniOf (.frcp hu (f3 4 1 0 0 0)) s 4 = 0x7F800000 ∧ uniOf (.frsq hu (f3 4 2 0 0 0)) s 4 = 0 ∧ uniOf (.fsqrt hu (f3 4 5 0 0 0)) s 4 = 0x40000000 ∧
    uniOf (.fex2 hu (f3 4 2 0 0 0)) s 4 = 0x7F800000 ∧ uniOf (.flg2 hu (f3 4 1 0 0 0)) s 4 = 0xFF800000 ∧
    uniOf (.flg2 hu (f3 4 3 0 0 0)) s 4 = 0 ∧ uniOf (.fsin hu (f3 4 2 0 0 0)) s 4 = 0x7FC00000 ∧ uniOf (.fcos hu (f3 4 1 0 0 0)) s 4 = 0x3F800000 ∧
    uniOf (.fsig hu (f3 4 2 0 0 0)) s 4 = 0x3F800000 ∧ uniOf (.ftanh hu (f3 4 2 0 0 0)) s 4 = 0x3F800000 := by decide +kernel

/-- R219, its examples. -/
theorem test_cvt :
    let s := at_ 0 (uni [(0, 0x3F800000), (1, 0xC0000000), (2, 0xC0200000), (3, 0xC0E00000), (5, 0x4F9502F9)]) id
    uniOf (.cvt hu (f3 4 2 0 0 0x840)) s 4 = 0xFFFFFFFD ∧ uniOf (.cvt hu (f3 4 3 0 0 0x41)) s 4 = 0 ∧
    uniOf (.cvt hu (f3 4 5 0 0 0x41)) s 4 = 0xFFFFFFFF ∧ uniOf (.cvt hu (f3 4 0 1 0 0x45)) s 4 = 0xC0003C00 := by decide

/-- R102, R220: E4M3 codes of 1.0 and of the greatest value, saturated; stochastic rounding of 0.3 on both sides of its threshold (R107). -/
theorem test_narrow :
    nfEncode 0x0001075C 0 127 (F32.decode 0x3F800000) 0 = 0x38 ∧ nfDecode 0x0001075C 127 0x7E = .fin false 14 5 ∧
    nfEncode 0x0001075C 4 127 (F32.decode 0x3E99999A) 2576980376 = 0x2A ∧ nfEncode 0x0001075C 4 127 (F32.decode 0x3E99999A) 2600000000 = 0x29 := by
  decide

/-- R224, R226: a tag is set, and a format register is written at the run's end. -/
theorem test_tag_fmset :
    vecOf (.tag hv (f3 3 3 0 0 1)) (at_ 0 (vecs [(3, { bits := 0x3F800000 })]) id) 3 = { bits := 0x3F800000, tag := 1 } ∧
    ((AMap.get? (after (.fmset hu (fi 2 0 0x0001075C)) (at_ 0 id id)).blocks 0).map (fun b => SMap.get (fun _ => 0) b.fm 2)) = some 0x0001075C := by
  decide

/-- R228–R231: a taken branch, a call with its link, a return, and an exit of all lanes. -/
theorem test_jumps :
    let s := at_ 0 (uni [(4, 0x1000), (5, 0)]) id
    (grp (.bra hu { cond := 7, tgt := 5, rcv := 0 }) s).slot0.pc = 40 ∧ (grp (.call hu { cond := 30, tgt := 2, rcv := 0 }) s).slot0.pc = 16 ∧
    uniOf (.call hu { cond := 30, tgt := 2, rcv := 0 }) s 30 = 8 ∧ (grp (.ret hu (f3 0 4 0 0 0)) s).slot0.pc = 0x1000 ∧
    (grp (.exit hu (f3 0 0 0 0 0)) s).exited = 0xFFFFFFFF := by decide

/-- R228: a branch that some lanes take splits the slot, with the taken lanes at the target. -/
theorem test_bra_splits :
    let s := at_ 0 (fun g => let R := Regs.setPred g.live 1 31 true; { g with base := R, live := R }) id
    let g := grp (.bra hv { cond := 1, tgt := 5, rcv := 9 }) s
    g.slot0 = { live := true, pc := 40, mask := 0x80000000 } ∧ g.slot1 = { live := true, pc := 8, mask := 0x7FFFFFFF } ∧
    g.top = some { pc := 72, mask := 0xFFFFFFFF, rpc := none, arr := false } := by decide

/-- R261, R7: a stored word lies little-endian in memory, above the program's page of frame 0, and loads back with a tag. -/
theorem test_store_load :
    let s := at_ 0 (uni [(4, 64), (5, 0), (6, 0x11223344)]) (fun s => s.setCore 0 { s.core 0 with tlb := [{ wordPage with w := true }] })
    let t := after (.st hu (fm 6 4 1 2)) s
    t.bytes 68 4 = [0x44, 0x33, 0x22, 0x11] ∧ t.byte 72 = 0 ∧
    uniOf (.ld hu (fm 8 4 1 1)) (at_ 0 (uni [(4, 64), (5, 0)]) (fun _ => { s with mem := memPut s.mem 66 [0x44, 0x33] })) 8 = 0x3344 := by decide

/-- R265, R179: an atomic sum leaves the sum and returns what it found; IDX holds AOP and ATY and names no register. -/
theorem test_atomics :
    let s := at_ 0 (uni [(1, 0x1000), (4, 64), (5, 0), (6, 3)]) (fun s => { s with mem := memPut s.mem 64 [5] })
    let i := Instr.atom hu { dst := 6, base := 4, idx := 1, off := 0, scope := 0, ord := 0, wid := 2, cpol := 0, xsc := 0 }
    uniOf i s 6 = 5 ∧ (after i s).bytes 64 4 = [8, 0, 0, 0] := by decide

/-- R262: a scratchpad store and load of the block. -/
theorem test_scratchpad :
    let s := at_ 0 (uni [(4, 8), (5, 0), (6, 0xABCD)]) id
    ((AMap.get? (after (.sts hu (fm 6 4 0 1)) s).blocks 0).map (fun b => SMap.get (fun _ => 0) b.scratch 9)) = some 0xAB ∧
    uniOf (.lds hu (fm 8 4 0 2)) (s.modBlock 0 (fun b => { b with scratch := [(8, 7)] })) 8 = 7 := by decide

/-- R270: the lowest slot whose tag names the line, and none. -/
theorem test_tag_table :
    let s := at_ 0 (uni [(4, 0x300), (5, 0), (6, 0)]) (fun s => s.modBlock 0 (fun b => { b with tten := true, tags := [(0, 2), (1, 3)] }))
    uniOf (.tlook hu (fm 8 4 0 0)) s 8 = 1 ∧ uniOf (.tlook hu (fm 8 6 0 0)) s 8 = 0xFFFFFFFF ∧
    ((AMap.get? (after (.tset hu (fm 6 4 0 0)) s).blocks 0).map (fun b => AMap.get? b.tags 0)) = some (some 3) ∧
    ((AMap.get? (after (.tclr hu (f3 0 0 0 0 1)) s).blocks 0).map (fun b => b.tags)) = some [] := by decide

/-- R271, R272: the frame on top of the pool, and a frame pushed back under a fresh scrub. -/
theorem test_pool :
    let s := at_ 0 (uni [(6, 9)]) (fun s => { (s.setFt 7 (ftMake 1 0 false false false false false 0 true false false)).setFt 9
      (ftMake 1 0 true false false false false 0 false false false) with pools := [(0, [7])] })
    uniOf (.fget hu (f3 5 0 0 0 0)) s 5 = 7 ∧ ftPool ((after (.fget hu (f3 5 0 0 0 0)) s).ftEntry 7) = false ∧
    AMap.getD (after (.fput hu (f3 0 6 0 0 0)) s).pools 0 [] = [9, 7] ∧ ftCtl ((after (.fput hu (f3 0 6 0 0 0)) s).ftEntry 9) = false := by decide

/-- R278, R279: a snapshot of the counters; a handle is bound. -/
theorem test_counters_tiles :
    uniOf (.cntr hu (f3 5 0 0 0 0)) (at_ 0 (fun g => { g with counters := { cpy := 1, mma := 2, gth := 3, col := 63 } }) id) 5 = 0x3F030201 ∧
    AMap.get? (grp (.aalloc hu (f3 1 2 0 0 0)) (at_ 0 (uni [(2, 7)]) id)).live.acc 1 = some 7 := by decide

/-- R280, R94: 0.5 of F48 as F32, and 1.0 of F32 put into an element. -/
theorem test_tile_elements :
    let s := at_ 0 (fun g => vecs [(16, { bits := 0x3F800000, tag := 1 })]
      { g with base := { g.base with acc := [(0, 2)] }, live := { g.live with acc := [(0, 2)] } })
      (fun s => s.modBlock 0 (fun b => b.setElem 2 0 3 0x3FC000000000))
    vecOf (.ald hv (f3 20 0 1 0 3)) s 20 = { bits := 0x3F000000, tag := 1 } ∧
    ((AMap.get? (after (.aput hv (f3 0 16 1 0 4)) (s.modGroup 0 0 (fun g => { g with slot0 := { g.slot0 with mask := 0x80000000 } }))).blocks
      0).map (fun b => b.elem 2 0 4)) = some 0x3FE000000000 := by decide

/-- R248–R251: GT, its two words, and the calendar's registers at reset. -/
theorem test_system :
    let s := at_ 0 id (fun s => { s with sys := { s.sys with gt := 0x500000007 } })
    uniOf (.gtm hu (f3 4 0 0 0 0)) s 4 = 7 ∧ uniOf (.gtm hu (f3 4 0 0 0 0)) s 5 = 5 ∧
    uniOf (.srd hu { dst := 8, sa := 0, reg := 0x5000, mod := 0 }) s 8 = 7 ∧ uniOf (.calq hu (f3 4 0 0 0 0)) s 6 = 384 ∧
    uniOf (.calq hu (f3 4 0 0 0 0)) s 7 = 15 := by decide

/-- R89: cluster 103 is selected by bits [15:14] of 0x5026 and resets to regulator 2. -/
theorem test_regmap : fldN (State.reset.reg 0 0x5026) 14 2 = 2 := by decide

/-- R249, R252: a write of `spfmask` takes effect at the run's end, and a claim of step 2 is noted. -/
theorem test_writes :
    (grp (.swr hu { dst := 4, sa := 0, reg := 0x0017, mod := 0 }) (at_ 0 (uni [(4, 2)]) id)).spfmask = 2 ∧
    (after (.bst hu (fi 0 0 2)) (at_ 0 id id)).regF 0 0x3010 2 2 = 2 := by decide

/-- R361, R366: a trap of a group with no vector table kills it: all its lanes have exited. -/
theorem test_trap_without_table : (grp (.trap hu (fi 0 0 3)) (at_ 0 id id)).exited = 0xFFFFFFFF := by decide

/-- R37, the example of a window between a draft partition 3 and a target partition 7. -/
theorem test_window :
    let s := (at_ 1 id id).setReg 0 0x2081 0x00012A40
    let e := (after (.window 0 3 7 false) (after (.take 0 0 0 false) s)).ftEntry 0x00012A40
    ftKind e = 2 ∧ ftWin e = true ∧ ftPart e = 3 ∧ ftPb e = 7 ∧ ftArmA e = false ∧ ftArmB e = false := by decide

/-! ### The premises of the statements are met -/

/-- Every word of R194–R206 issues in vector and in uniform form, where it has one. -/
theorem witness_integer_words :
    (∀ h ∈ [hv, hu, hn], allMeet .all (at_ 0 id id) [.nop h (f3 0 0 0 0 0), .mov h (f3 4 6 0 0 1), .movi h (fi 4 0 5), .iadd h (f3 4 6 8 0 7),
      .isub h (f3 4 6 8 0 0), .iaddi h (fi 4 6 0xFFFFFFFF), .imul h (f3 4 6 8 0 0), .imulhi h (f3 4 6 8 0 4), .imad h (f3 4 6 8 10 1),
      .imin h (f3 4 6 8 0 5), .imax h (f3 4 6 8 0 0), .iabs h (f3 4 6 0 0 2), .ineg h (f3 4 6 0 0 0)] = true) ∧
    (∀ h ∈ [hv, hu, hn], allMeet .all (at_ 0 id id) [.and h (f3 4 6 8 0 0), .or h (f3 4 6 8 0 0), .xor h (f3 4 6 8 0 0), .not h (f3 4 6 0 0 0),
      .andi h (fi 4 6 5), .ori h (fi 4 6 5), .xori h (fi 4 6 5), .shl h (f3 4 6 8 0 0), .shr h (f3 4 6 8 0 0), .sar h (f3 4 6 8 0 0),
      .shli h (fi 4 6 31), .shri h (fi 4 6 0), .sari h (fi 4 6 31), .rot h (f3 4 6 8 0 0), .popc h (f3 4 6 0 0 0), .clz h (f3 4 6 0 0 0),
      .brev h (f3 4 6 0 0 0), .bfx h (f3 4 6 8 0 4), .bfi h (f3 4 6 8 10 0)] = true) ∧
    (∀ h ∈ [hv, hu, hn], allMeet .all (at_ 0 id id) [.sel h (f3 4 6 8 15 1), .icmp h (f3 7 6 8 15 0x255), .icmp h (f3 0 6 8 0 0), .icmpi h (fi 0x57 6 5),
      .plog h (f3 7 7 7 0 0x128), .plog h (f3 0 1 0 0 0x38), .lea h { fm 4 6 0x800 5 with xsc := 1, idx := 8 }, .lea h (fm 4 6 0 0),
      .idx h (f3 4 0 0 0 0xB0), .idx h (f3 4 0 0 0 0xC0), .idx h (f3 4 0 0 0 0xD0), .idx h (f3 4 0 0 0 0xE0), .idx h (f3 4 0 0 0 0x10),
      .idx h (f3 4 0 0 0 0xA0), .idx h (f3 4 0 0 0 0xF0)] = true) := by decide

/-- The well-formed instructions of which `LogicAndShifts` and `PredicatesAndSelection` say the limits. -/
theorem witness_integer_limits :
    ([Instr.and hv (f3 4 6 8 0 0x6000), .shli hv (fi 4 6 31), .sari hv (fi 4 6 0), .sel hv (f3 4 6 8 15 1), .icmp hv (f3 7 6 8 15 0x255),
      .icmp hv (f3 0 6 8 0 0), .plog hv (f3 7 7 7 0 0x128), .plog hv (f3 0 1 0 0 0x38), .icmpi hv (fi 0x57 6 5)].all WellFormed) = true := by decide

/-- A group of a launch of 4 × 2 × 1 with 3 stages, of launch index 23. -/
def launchState : State :=
  at_ 0 id (fun s => { s with launches := [(5, { gx := 4, gy := 2, gz := 1, stages := 3 })] }.modBlock 0
    (fun b => { b with launch := some 5, lidx := 23 }))

/-- `idx` of a group of a launch. -/
theorem witness_placement :
    ([0x10, 0x20, 0x30, 0x40, 0x50, 0x60, 0x70, 0x80, 0x90, 0xA0, 0xF0] : List (BitVec 16)).all (fun sel =>
      meets (.idx hv (f3 4 0 0 0 sel)) .all launchState (fun v0 v => decide (v.b.launch = some 5) &&
        decide ((AMap.get? (startRun launchState v0).launches 5).map (fun l => (l.stages, l.gx, l.gy)) = some (3, 4, 2)))) = true := by
  decide +kernel

/-- Lanes that cross, with and without contributors. -/
theorem witness_lanes :
    [false, true].all (fun n => allMeet .all (at_ 0 id id) [.idx { hv with n } (f3 4 0 0 0 0), .vote { hv with n } (f3 7 7 0 0 0),
      .vote { hv with n } (f3 0 0 0 0 0x18), .vote { hv with n } (f3 63 0 0 0 0x20), .shfl { hv with n } (f3 4 6 8 0 0),
      .shfl { hv with n } (f3 4 6 8 0 0x4010), .shfl { hv with n } (f3 4 6 8 0 0x4020), .shfl { hv with n } (f3 4 6 8 0 0x30),
      .vred { hv with n } (f3 4 6 0 0 0), .vred { hv with n } (f3 4 6 0 0 0x14), .vred { hv with n } (f3 4 6 0 0 0x20),
      .vred { hv with n } (f3 4 6 0 0 0x30), .vred { hv with n } (f3 4 6 0 0 0x40)]) = true := by decide +kernel

/-- Finite values of each sign round in every mode, to a finite value and to an infinity (R94, R95). -/
theorem witness_rounding :
    [0, 1, 2, 3].all (fun mode => decide (F32.decode (F32.round mode (.fin true 1 0) 0) = .fin true 0x800000 (-23)) &&
      decide (F16.decode (F16.round mode (.fin false 2049 0) 0) = .fin false (if mode = 3 then 1025 else 1024) 1)) = true ∧
    F32.decode (F32.round 0 (.fin false 1 128) 0) = .inf false ∧ F32.decode (F32.round 1 (.fin false 1 128) 0) = .fin false 0xFFFFFF 104 ∧
    BF16.decode (BF16.round 3 (.fin false 1 (-200)) 0) = .fin false 1 (-133) := by decide

/-- Values of F32 in lane 31, which executes. -/
def floatState : State := at_ 0 (last ∘ tagged 1 [6, 7, 8]) id
/-- The sources of a word carry its type's tag in every executing lane. -/
def tagsOk (n : Nat) (o : F3) (v : View) : Bool := everyLane hv (fun v => srcTags n v hv o) v
/-- Some source of an executing lane lacks its tag. -/
def tagsBad (n : Nat) (o : F3) (v : View) : Bool := (v.units hv).any (fun l => !srcTags n v hv o l)

/-- Every floating-point word issues with the tags its sources need, in the lane that executes. -/
theorem witness_float_words :
    ([(2, .fadd hv, f3 4 6 7 0 0xC1B), (2, .fsub hv, f3 4 6 7 0 0), (2, .fmul hv, f3 4 6 7 0 0x400), (3, .ffma hv, f3 4 6 7 8 0),
      (2, .fmin hv, f3 4 6 7 0 0), (2, .fmax hv, f3 4 6 7 0 0), (2, .fcmp hv, f3 0x6F 6 7 0 0), (1, .fclass hv, f3 7 6 9 0 0),
      (1, .frnd hv, f3 4 6 0 0 0xC00)] : List (Nat × (F3 → Instr) × F3)).all (fun x =>
      meets (x.2.1 x.2.2) .all floatState (fun _ v => tagsOk x.1 x.2.2 v)) = true := by decide +kernel

/-- Every transcendental and immediate form issues so. -/
theorem witness_transcendental_words :
    ([.frcp hv, .frsq hv, .fsqrt hv, .fex2 hv, .flg2 hv, .fsin hv, .fcos hv, .fsig hv, .ftanh hv] : List (F3 → Instr)).all (fun x =>
      meets (x (f3 4 6 0 0 0)) .all floatState (fun _ v => tagsOk 1 (f3 4 6 0 0 0) v)) = true ∧
    [Instr.fmuli hv (fi 4 6 0x3F800000), .faddi hv (fi 4 6 0x7FC00000)].all (fun i =>
      meets i .all floatState (fun _ v => everyLane hv (fun v => v.tagOk hv false 6 1) v)) = true := by decide +kernel

/-- Stochastic rounding keeps a value and rounds one up, to a finite value and to an infinity, by its random word. -/
theorem witness_stochastic :
    ([(0x1FFFFFF, 103, 0, true), (0x1FFFFFF, 103, 0xFFFFFFFF, false), (1, 128, 7, true), (3, -1, 0x7FFFFFFF, false)] : List (Nat × Int × Nat × Bool)).all (fun x =>
      decide (F32.round 4 (.fin false x.1 x.2.1) x.2.2.1 = F32.infBits false) == x.2.2.2) = true ∧
    F16.round 4 (.fin true 4097 0) 0 ≠ F16.round 4 (.fin true 4097 0) 0xFFFFFFFF := by decide

/-- A value of F32, or two of F16, in v6 of lane 31. -/
def operandState (t : BitVec 4) (a : W32) : State := at_ 0 (last ∘ vecs [(6, { bits := a, tag := t })]) id

/-- Operands of the transcendentals that are no special cases: an integer, one beyond the representable powers, a fraction, a negative one, one
of a large magnitude, powers of two, and subnormals; in F32, and one element of F16. -/
theorem witness_operands :
    ([0x40400000, 0xC3160000, 0x3FC00000, 0xBF000000, 0x43960000, 0x3E800000, 1, 0x7F7FFFFF] : List W32).all (fun a =>
      ([.frcp hv, .frsq hv, .fsqrt hv, .fex2 hv, .flg2 hv, .fsin hv, .fcos hv, .fsig hv, .ftanh hv] : List (F3 → Instr)).all (fun i =>
        meets (i (f3 4 6 0 0 0)) .all (operandState 1 a) (fun _ v => tagsOk 1 (f3 4 6 0 0 0) v &&
          (match fval v hv (f3 4 6 0 0 0) 0 31 0 with | .fin sg m _ => decide (sg = bit a 31 ∧ m ≠ 0) | _ => false)))) = true ∧
    ([0x400, 0x800, 0xC00] : List (BitVec 16)).all (fun m =>
      meets (.fsqrt hv (f3 4 6 0 0 (m + 0x100))) .all (operandState 2 0x00014000) (fun _ v => decide (rnd (f3 4 6 0 0 (m + 0x100)) = m.toNat / 1024) &&
        tagsOk 1 (f3 4 6 0 0 (m + 0x100)) v &&
        (List.range 2).all (fun e => match fval v hv (f3 4 6 0 0 (m + 0x100)) 0 31 e with | .fin false m _ => decide (m ≠ 0) | _ => false))) = true := by
  decide +kernel

/-- A dot product issues with its tags. -/
theorem witness_dot :
    meets (.fdot2 hv (f3 4 6 7 8 0xD00)) .all (at_ 0 (last ∘ tagged 2 [6, 7] ∘ tagged 1 [8]) id) (fun _ v =>
      everyLane hv (fun v l => srcTags 2 v hv (f3 4 6 7 8 0xD00) l && v.tagOk hv false 8 1 l) v) = true := by decide +kernel

/-- Words whose sources lack their tags issue. -/
theorem witness_tag_faults :
    ([(2, .fadd hv, f3 4 6 9 0 0), (2, .fmul hv, f3 4 6 9 0 0), (3, .ffma hv, f3 4 6 7 9 0), (2, .fmin hv, f3 4 9 7 0 0),
      (2, .fcmp hv, f3 1 6 9 0 0), (1, .fsqrt hv, f3 4 9 0 0 0), (1, .frnd hv, f3 4 9 0 0 0)] : List (Nat × (F3 → Instr) × F3)).all (fun x =>
      meets (x.2.1 x.2.2) .all floatState (fun _ v => tagsBad x.1 x.2.2 v)) = true := by decide +kernel

/-- Sources of a conversion in lane 31. -/
def cvtState (t : BitVec 4) : State := at_ 0 (last ∘ tagged t [6, 8]) id

/-- A conversion into every destination type issues, under each rounding code at an end of its range. -/
theorem witness_conversions :
    [hv, hu].all (fun h => ([(1, 0x0C40), (1, 0x0441), (1, 0x0842), (1, 0x0C43), (0, 0x0C04), (1, 0x1045), (1, 0x1046), (1, 0x47)] :
      List (BitVec 4 × BitVec 16)).all (fun m =>
      let o := f3 4 6 (if fldN m.2 0 4 = 5 ∨ fldN m.2 0 4 = 6 then 8 else 0) 0 m.2
      meets (.cvt h o) .all (cvtState m.1) (fun _ v => everyLane h (fun v l => cvtTag v h (sty o) false 6 l && cvtTag v h (sty o) false 8 l) v))) =
    true := by decide +kernel

/-- Tagged values in lane 31, and format register 7. -/
def narrowState (t : BitVec 4) (f : W32) : State :=
  at_ 0 (last ∘ tagged t [6, 8, 9, 10, 11, 12, 13, 14, 15]) (fun s => s.modBlock 0 (fun b => { b with fm := [(7, f)] }))

/-- Narrow formats with four and eight elements, and the tags they ask for. -/
theorem witness_narrow :
    nfValid 0x0001075C = true ∧ nfCount 0x0001075C = 4 ∧ nfValid 0x0008014A = true ∧ nfCount 0x0008014A = 8 ∧
    ([0x0001075C, 0x0008014A] : List W32).all (fun f => [hv, hu].all (fun h =>
      meets (.npk h (f3 4 8 6 7 0x1000)) .all (narrowState 1 f) (fun _ v => decide (v.fm 7 = f) && everyLane h (fun v l =>
        (List.range (nfCount f)).all (fun i => v.tagOk h false (8 + i) 1 l)) v) &&
      meets (.nunpk h (f3 8 6 4 7 0)) .all (narrowState 11 f) (fun _ v => decide (v.fm 7 = f) && everyLane h (fun v => v.tagOk h false 6 11) v))) =
    true := by decide +kernel

/-- Scales in every span, and tags set from an immediate, from a register and with a format register. -/
theorem witness_scales_tags :
    [hv, hu].all (fun h => meets (.scl h (f3 4 6 8 0 1)) .all (narrowState 1 0) (fun _ v => everyLane h (fun v => v.tagOk h false 6 1) v)) = true ∧
    ([0, 0x10, 0x20] : List (BitVec 16)).all (fun m => meets (.sclx hv (f3 4 6 0 7 m)) .all (narrowState 1 0x0001075C) (fun _ v =>
      decide (v.fm 7 = 0x0001075C) && everyLane hv (fun v => v.tagOk hv false 6 1) v)) = true ∧
    allMeet .all (narrowState 0 0) [.tag hv (f3 4 6 0 0 13), .fmset hu (fi 7 0 0x0001075C), .fmset hn (fi 0 0 0)] = true ∧
    meets (.tagr hv (f3 4 6 9 0 0)) .all (at_ 0 (last ∘ vecs [(9, { bits := 13 })]) id) (fun _ v =>
      everyLane hv (fun v l => decide ((v.src hv false 9 l).toNat % 16 ≤ 13)) v) = true := by decide +kernel

/-- A word inside a run and a run that ends, with and without a reconvergence address. -/
theorem witness_runs :
    ([(none, 0), (some { pc := 72, mask := 0xFFFFFFFF, rpc := none, arr := false }, 72)] : List (Option DivEntry × W64)).all (fun x =>
      match (at_ 0 (fun g => { g with top := x.1 }) id).group? 0 0 with
      | some g => !(g.slot false).arr && decide ((g.top.map DivEntry.pc).getD 0 = x.2) && !g.longRun && g.remFail.isEmpty && g.forced.isNone &&
          decide (g.exited = 0) && g.slot0.live && !g.gathered
      | none => false) = true := by decide +kernel

/-- Words whose guard fails issue. -/
theorem witness_failed_guards :
    [Instr.bar hn (f3 0 0 0 0 0), .bara hn (fi 0 0 0x10F), .barw hn (fi 0 0 0x010), .yld hn (f3 0 0 0 0 0), .gret hn (f3 0 0 0 0 0),
      .trap hn (fi 0 0 255), .rte hn (f3 0 0 0 0 0), .step hn (f3 0 4 0 0 0), .qput hn (fm 8 4 0 0), .qget hn (fm 8 4 0 0), .qctlDone hn (f3 8 4 6 0 0),
      .qctlErr hn (f3 8 4 6 0 1), .qctlRun hn (f3 8 4 6 0 2), .qctlSetr hn (f3 8 4 6 0 3), .qctlStat hn (f3 8 4 6 0 4)].all (fun i =>
        meets i .notAud (at_ 0 id id) (fun _ v => !v.go hn)) = true ∧
    [0, 511].all (fun n => meets (.gcall hn (fi 0 0 n)) .owner (at_ 0 id id) (fun _ v => !v.go hn)) = true := by decide +kernel

/-- A group whose predicate `p1` holds in lane 31 only. -/
def halfState : State := at_ 0 (fun g => let R := Regs.setPred g.live 1 31 true; { g with base := R, live := R }) id
/-- The lanes that take a branch. -/
def takenOf (o : FB) (v : View) (i : Nat) : Bool :=
  bit v.mask i && (v.g.base.pred 7 i != false) && (v.g.base.pred (fldN o.cond 0 3) i != bit o.cond 3)

/-- A branch is taken by the group, or not; by all lanes, by none, and by one, with and without `.uni`. -/
theorem witness_branches :
    meets (.bra hu { cond := 7, tgt := 0x800000, rcv := 0 }) .all halfState (fun _ v => v.go hu && v.g.base.upred 7) = true ∧
    meets (.bra hu { cond := 15, tgt := 0x7FFFFF, rcv := 0 }) .all halfState (fun _ v => v.g.base.upred 7) = true ∧
    ([({ cond := 7, tgt := 5, rcv := 9 }, 0xFFFFFFFF), ({ cond := 15, tgt := 5, rcv := 9 }, 0), ({ cond := 1, tgt := 5, rcv := 9 }, 0x80000000),
      ({ cond := 0x19, tgt := 5, rcv := 0 }, 0x7FFFFFFF)] : List (FB × W32)).all (fun x =>
      meets (.bra hv x.1) .all halfState (fun _ v => (List.range 32).all (fun i => bit x.2 i == takenOf x.1 v i) && v.g.top.isNone &&
        decide (v.g.depth ≤ v.g.divLimit))) = true := by decide +kernel

/-- The same group, of which lanes 16 to 31 issue below a divergence top, beside a slot that waits or none, with an area of 4 entries at most. -/
def splitState (other : Bool) (limit depth : Nat) : State :=
  mapped (halfState.modGroup 0 0 (fun g => { g with
    slot0 := { g.slot0 with mask := 0xFFFF0000 }, slot1 := if other then { live := true, pc := 0x500, mask := 0xFFFF, wait := .bar } else {}
    top := some { pc := 0x900, mask := 0xFFFFFFFF, rpc := none, arr := false }, divBase := 0x10000, divLimit := limit, depth }))
/-- The pushes of a split below a top succeed. -/
def pushesFit (s : State) (v : View) : Bool :=
  let o := v.g.slot (!v.d)
  match v.g.top with
  | none => false
  | some t =>
    match pushEntry s v t .none with
    | (s2, none) => !o.live || (pushEntry s2 v { pc := o.pc, mask := o.mask, rpc := some t.pc, arr := o.arr } o.wait).2.isNone
    | _ => false

/-- A split below a top with one and with two entries to push, where they fit exactly and where one place is missing. -/
theorem witness_splits_below :
    ([(false, 1, 0), (true, 2, 0), (true, 4, 2), (false, 1, 1), (true, 2, 1)] : List (Bool × Nat × Nat)).all (fun x =>
      let s := splitState x.1 x.2.1 x.2.2
      meets (.bra hv { cond := 1, tgt := 5, rcv := 9 }) .all s (fun v0 v => v.g.top.isSome && decide ((v.g.slot (!v.d)).live = x.1) &&
        decide (v.mask = 0xFFFF0000) && takenOf { cond := 1, tgt := 5, rcv := 9 } v 31 && !takenOf { cond := 1, tgt := 5, rcv := 9 } v 30 &&
        (decide (v.g.divLimit < v.g.depth + (if x.1 then 2 else 1)) || pushesFit (startRun s v0) v))) = true := by decide +kernel

/-- A path of lanes 8 to 15. -/
def pathEntry (pc : W64) (rpc : Option W64) : DivEntry := { pc, mask := 0x0000FF00, rpc, arr := true }

/-- Entries whose RPC is none, behind PC and ahead of it reach an area in device memory. -/
theorem witness_pushes :
    ([pathEntry 0x10 none, pathEntry 0x10 (some 8), pathEntry 0 (some 0xFFFFFFFF8)] : List DivEntry).all (fun e =>
      let s := splitState false 2 1
      match issuing s, s.group? 0 0 with
      | some v, some g =>
        let image : Nat := (if e.arr then 3 else 1) + e.pc.toNat + 2 ^ 64 * e.mask.toNat + 2 ^ 96 * (match e.rpc with
          | none => 0x80000000
          | some r => (((r.toNat : Int) - e.pc.toNat) / 8 % 2 ^ 32).toNat)
        decide (v.handle = 0 ∧ v.gi = 0) && g.gates.isEmpty && decide (g.depth < g.divLimit) && decide (e.pc.toNat % 8 = 0) &&
        (match vpost s g.asid.toNat .post (g.divBase + BitVec.ofNat 64 (16 * g.depth)) (toBytes image 16) with
          | (s2, none) => !s2.isAway g.asid.toNat (g.divBase + BitVec.ofNat 64 (16 * g.depth)) && decide (s2.group? 0 0 = some g)
          | _ => false)
      | _, _ => false) = true := by decide +kernel

/-- The group with entries pushed, all of its slots arrived, at a top, its level's entries above some. -/
def mergeState (es : List DivEntry) (floor : Nat) (top : DivEntry) : State :=
  let s := splitState false 4 0
  let s := match issuing s with | some v => es.foldl (fun s e => (pushEntry s v e .none).1) s | none => s
  s.modGroup 0 0 (fun g => { g with
    top := some top, slot0 := { g.slot0 with arr := true }, level := if floor = 0 then 0 else 1, hsv1 := { g.hsv1 with depth := floor } })
/-- Which of the clauses of a merge applies. -/
def mergeCase (s : State) : Nat :=
  match s.group? 0 0 with
  | none => 0
  | some g =>
    match g.top with
    | none => 0
    | some t =>
      if g.depth ≤ g.floor then 1
      else match newestEntry s { g with slot0 := {}, slot1 := {}, top := none } with
        | (s1, .ok e) =>
          if e.rpc ≠ t.rpc then 2 else if g.depth - 1 ≤ g.floor then 3
          else match newestEntry s1 { g with slot0 := {}, slot1 := {}, top := none, depth := g.depth - 1 } with | (_, .ok _) => 4 | _ => 0
        | _ => 0

/-- A merge with no entry, at the end of a level's entries, with an entry of another path, with the last one, and with two. -/
theorem witness_merges :
    ([([], 0, 1), ([pathEntry 0x40 none, pathEntry 0x40 (some 0x940)], 2, 1), ([pathEntry 0x40 (some 0x950)], 0, 2), ([pathEntry 0x40 (some 0x940)], 0, 3),
      ([pathEntry 0x40 none, pathEntry 0x40 (some 0x940)], 1, 3), ([pathEntry 0x40 none, pathEntry 0x40 (some 0x940)], 0, 4)] :
      List (List DivEntry × Nat × Nat)).all (fun x =>
      let s := mergeState x.1 x.2.1 (pathEntry 0x900 (some 0x940))
      decide (mergeCase s = x.2.2) && (match s.group? 0 0 with
        | some g => g.forced.isNone && decide (g.exited = 0) && g.area.isEmpty && g.gates.isEmpty && g.slot0.arr && !g.slot1.live &&
            decide (AMap.get? g.away (g.depth - 1) = none)
        | none => false)) = true := by decide +kernel

/-- Registers that hold a target of a jump. -/
def pairState : State := at_ 0 (uni [(4, 0x1000), (6, 0x1004)] ∘ vecs [(4, { bits := 0x1000 })]) id
/-- The same, where lane 31 alone executes. -/
def lastState : State := at_ 0 (uni [(4, 0x1000), (6, 0x1004)] ∘ last ∘ vecs [(4, { bits := 0x1000 })]) id

/-- Jumps with no executing lane, a common target, lanes that disagree or stay out, and a target that is no multiple of 8. -/
theorem witness_pair_jumps :
    ([(.brx, 1, 0), (.ret, 0, 0)] : List ((Head → F3 → Instr) × BitVec 16 × Nat)).all (fun x =>
      meets (x.1 { hv with n := true } (f3 0 4 0 0 x.2.1)) .all pairState (fun _ v => (v.units { hv with n := true }).isEmpty) &&
      meets (x.1 hu (f3 0 4 0 0 0)) .all pairState (fun _ v => decide (v.src64 hu false 4 0 = 0x1000)) &&
      meets (x.1 hv (f3 0 4 0 0 x.2.1)) .all lastState (fun _ v => decide (v.lanes hv = v.mask) && everyLane hv (fun v l =>
        decide (v.src64 hv false 4 l = 0x1000)) v) &&
      meets (x.1 hv (f3 0 4 0 0 x.2.1)) .all pairState (fun _ v => decide (v.src64 hv false 4 31 ≠ v.src64 hv false 4 0) &&
        everyLane hv (fun v l => decide ((v.src64 hv false 4 l).toNat % 8 = 0)) v) &&
      meets (x.1 { hv with g := 1 } (f3 0 4 0 0 x.2.1)) .all halfState (fun _ v => decide (v.lanes { hv with g := 1 } ≠ v.mask)) &&
      meets (x.1 hu (f3 0 6 0 0 0)) .all pairState (fun _ v => decide ((v.src64 hu false 6 0).toNat % 8 ≠ 0))) = true := by decide +kernel

/-- Calls and exits of all lanes, of some and of none. -/
theorem witness_calls_exits :
    meets (.call { hv with n := true } { cond := 2, tgt := 1, rcv := 0 }) .all halfState (fun _ v => (v.units { hv with n := true }).isEmpty) = true ∧
    meets (.call { hv with g := 1 } { cond := 2, tgt := 1, rcv := 0 }) .all halfState (fun _ v => decide (v.lanes { hv with g := 1 } ≠ v.mask) &&
      !(v.units { hv with g := 1 }).isEmpty) = true ∧
    meets (.call hu { cond := 62, tgt := 0x800000, rcv := 0 }) .all halfState (fun _ v => !(v.units hu).isEmpty) = true ∧
    meets (.call hv { cond := 252, tgt := 0x7FFFFF, rcv := 0 }) .all halfState (fun _ v => decide (v.lanes hv = v.mask)) = true ∧
    meets (.exit hu (f3 0 0 0 0 0)) .all halfState (fun _ v => v.go hu) = true ∧ meets (.exit hn (f3 0 0 0 0 0)) .all halfState (fun _ v => !v.go hn) = true ∧
    meets (.exit hv (f3 0 0 0 0 0)) .all halfState (fun _ v => decide (v.lanes hv = v.mask)) = true ∧
    meets (.exit { hv with g := 1 } (f3 0 0 0 0 0)) .all halfState (fun _ v => decide (v.lanes { hv with g := 1 } ≠ v.mask)) = true := by decide +kernel

/-- Lanes 0 to 7 of a group in a handler of a level, whose save area holds slots of lanes 0 to 15 and 16 to 31. -/
def handlerState (level : Nat) (dslot : Bool) : State :=
  let sv (top : Option DivEntry) : Hsv := { slot0 := { live := true, pc := 0x40, mask := 0xFFFF }, slot1 := { live := true, pc := 0x50, mask := 0xFFFF0000 }
                                            top, depth := 3, rpc := 0x60, dslot }
  at_ 0 (fun g => { g with
    level, slot0 := { g.slot0 with mask := 0xFF }, depth := 5, hsv1 := sv none
    hsv2 := sv (some { pc := 0x900, mask := 0xFFFFFFFF, rpc := none, arr := false }) }) id
/-- The same lanes in a gate call. -/
def calleeState (d : Bool) : State :=
  at_ 0 (fun g => { g with
    slot0 := { g.slot0 with mask := 0xFF }
    gates := [{ slot0 := { live := true, pc := 0x40, mask := 0xFFFF }, slot1 := { live := true, pc := 0x50, mask := 0xFFFF0000 }, d, iaddr := 0x48, args := 2, rets := 1
                argv := 1, mask := 0xFFFF, top := some { pc := 0x900, mask := 0xFFFFFFFF, rpc := none, arr := false } }] }) id
/-- The premises of an exit of the last lanes of a handler or of a call, computed. -/
def lastExit (s : State) (P : View → Bool) : Bool :=
  meets (.exit hv (f3 0 0 0 0 0)) .all s (fun v0 v => decide (v.lanes hv = v.mask) && !(v.g.slot (!v.d)).live && v.g.top.isNone && v.g.forced.isNone && !v.g.longRun &&
    drained s v0 v && v.g.swrs.isEmpty && decide (v.g.exited ||| v.mask ≠ 0xFFFFFFFF) && P v)

/-- An exit that ends a handler of each level, entered from each slot, and one that ends a gate call. -/
theorem witness_last_exits :
    ([1, 2].all (fun l => [true, false].all (fun d => lastExit (handlerState l d) (fun v => decide (v.g.level = l) &&
      (let sv := if l = 1 then v.g.hsv1 else v.g.hsv2
       decide (sv.slot0.mask &&& ~~~ v.mask ≠ 0) && sv.slot0.live && !sv.slot0.arr && decide (sv.dslot = d)))))) = true ∧
    ([true, false].all (fun d => lastExit (calleeState d) (fun v => decide (v.g.level = 0 ∧ v.g.counters = {}) && v.g.failures.isEmpty && v.g.pend.isEmpty &&
      (match v.g.gates with
        | [f] => decide (f.slot0.mask &&& ~~~ v.mask ≠ 0) && f.slot0.live && !f.slot0.arr && decide (f.d = d) &&
            f.top.all (fun t => decide (t.pc ≠ f.slot0.pc ∧ t.pc ≠ f.slot1.pc ∧ t.pc ≠ f.iaddr + 8))
        | _ => false)))) = true := by decide +kernel

/-- A group of a stepped launch at step 4, one arrival at named barrier 15 of two. -/
def barState : State :=
  at_ 0 (uni [(4, 5)]) (fun s => { s with launches := [(5, { stepped := true, stepno := 4 })] }.modBlock 0
    (fun b => { b with launch := some 5, named := [(15, { count := 2, arrived := 1 })] }))
/-- The same in a handler. -/
def barHandler : State := at_ 0 (fun g => { g with level := 1 }) id

/-- Barriers with nothing outstanding, a first and a last arrival, another COUNT, and in a handler; a step. -/
theorem witness_barriers :
    [Instr.bar hu (f3 0 0 0 0 0), .yld hu (f3 0 0 0 0 0)].all (fun i => meets i .notAud barState (fun v0 v => v.go hu && decide (v.g.level = 0) &&
      drained barState v0 v)) = true ∧
    [Instr.bar hu (f3 0 0 0 0 0), .barw hu (fi 0 0 0x10)].all (fun i => meets i .notAud barHandler (fun _ v => v.go hu && decide (v.g.level ≠ 0))) = true ∧
    ([0x2F, 0x10, 0x100] : List W32).all (fun imm => [Instr.bara hu (fi 0 0 imm), .barw hu (fi 0 0 imm)].all (fun i =>
      meets i .notAud barState (fun v0 v => v.go hu && decide (v.g.level = 0) && drained barState v0 v &&
        decide ((v.b.phase (fldN imm 0 4) (fldN imm 4 5)).count = fldN imm 4 5)))) = true ∧
    meets (.bara hu (fi 0 0 0x3F)) .notAud barState (fun _ v => v.go hu && decide ((v.b.phase 15 3).count ≠ 3)) = true ∧
    meets (.step hu (f3 0 4 0 0 0)) .notAud barState (fun v0 v => v.go hu && decide (v.g.level = 0) && drained barState v0 v &&
      decide (((startRun barState v0).launchOf v.b).map (fun l => (l.stepped, l.stepno)) = some (true, 4)) && v.g.gates.isEmpty &&
      decide (v.g.base.uni 4 = 5) && !(v.g.slot (!v.d)).live) = true := by decide +kernel

/-- A group whose partition has gate tables and spill images on a host page, with gate 0 and gate 256 in the control-block cache. -/
def gateState : State :=
  at_ 0 id (fun s =>
    let e : List Byte := toBytes 0x1000 8 ++ [0, 2, 2, 1, 1, 1, 0, 0, 1]
    line 0x400 0x8000 e (line 0 0x8000 e ((((mapped s).setReg 0 0x6040 0x8000).setReg 0 0x6044 0x30000).setReg 0 0x5400 0x8000 |>.setReg 0 0x5300 1)))
/-- The premises of a gate call. -/
def gatePremises (n : Nat) (v0 v : View) : Bool :=
  let s1 := startRun gateState v0
  let asid := if n < 256 then 0 else 0x400
  let bs := capturedBytes s1 v.core asid 0x8000 32
  let s2 := (capture s1 v.core asid 0x8000 32).1
  v.go hu && decide (v.g.level = 0) && drained gateState v0 v && capturesOk s1 v.core asid 0x8000 32 && (GateEntry.ofBytes bs).ok s2 0 n v.regs v.g.gates.length &&
  (vpost s2 0 .post (s2.reg64 0 0x6044 + BitVec.ofNat 64 (65536 * (4 * (31 * v.core + v.gslot) + v.g.gates.length))) (spillBytes s2 0 v.handle (v.g.gates.length + 1) s2.fresh)).2.isNone

/-- An owner's and an operator's gate are called. -/
theorem witness_gate_calls : [0, 256].all (fun n => meets (.gcall hu (fi 0 0 (BitVec.ofNat 32 n))) .owner gateState (gatePremises n)) = true := by
  decide +kernel

/-- A callee with nothing outstanding returns, and a group that no gate has been called by. -/
theorem witness_gate_return :
    let s := at_ 0 (fun g => { g with gates := [{ slot0 := { live := true, mask := 0xFFFFFFFF }, args := 2, rets := 1 }] }) id
    meets (.gret hu (f3 0 0 0 0 0)) .notAud s (fun v0 v => v.go hu && drained s v0 v && decide (v.g.gates.length = 1) && decide (v.g.counters = {}) &&
      v.g.failures.isEmpty) = true ∧
    meets (.gret hu (f3 0 0 0 0 0)) .notAud (at_ 0 id id) (fun _ v => v.go hu && v.g.gates.isEmpty) = true := by decide +kernel

/-- A group with a vector table whose entries for traps and for ALN lie in the control-block cache, in a run and in a handler. -/
def trapState (level : Nat) : State :=
  at_ 0 (fun g => { g with tvt := 0x8000, level }) (line 0 0x8000 (toBytes 0x2000 8 ++ (List.range 7).flatMap (fun _ => toBytes 0x3000 8)))
/-- The state of a trap or a fault before its handler is sought. -/
def beforeHandler (s : State) (v : View) : State :=
  (s.modBlock v.handle (fun b => commitBlock b v.gi)).modGroup v.handle v.gi (fun g => g.setSlot v.d { g.slot v.d with cnt := 0, wait := .none })

/-- A trap and a fault find their handlers, at level 0 and at level 1; a handler of each level is left. -/
theorem witness_handlers :
    [0, 1].all (fun level => ([0, 255] : List W32).all (fun n =>
      meets (.trap hu (fi 0 0 n)) .notAud (trapState level) (fun v0 v =>
        let s1 := startRun (trapState level) v0
        v.go hu && !s1.lateOut v.handle v.gi && (match vecLine s1 v { cls := 0, lanes := v.mask, trap := some n.toNat } with | .there => true | _ => false) &&
        match s1.group? v.handle v.gi with
        | some g0 => decide (g0.level < 2) && decide ((findHandler (beforeHandler s1 v) v.core g0 0).2 = some 0x2000)
        | none => false)) &&
      (match issuing (trapState level), (trapState level).group? 0 0 with
        | some v, some g0 => decide (g0.level < 2) && decide ((findHandler (beforeHandler (trapState level) v) v.core g0 1).2 = some 0x3000)
        | _, _ => false)) = true ∧
    [0, 1, 2].all (fun level => meets (.rte hu (f3 0 0 0 0 0)) .notAud (trapState level) (fun _ v => v.go hu && decide (v.g.level = level))) = true := by
  decide +kernel

/-- The premises of a kill at a fault, computed: at level 2 or of class HDL, or where no handler is found. -/
def killed (level cls : Nat) (s : State) : Bool :=
  match issuing s, s.group? 0 0 with
  | some v, some g0 =>
    let s2 := beforeHandler s v
    decide (v.handle = 0 ∧ v.gi = 0 ∧ g0.level = level) && g0.gates.isEmpty && decide ((s2.group? 0 0).map Group.gates = some []) &&
    (decide (level = 2 ∨ cls = clsHDL) ||
     (match findHandler s2 v.core g0 cls with | (s3, none) => decide ((s3.group? 0 0).map Group.gates = some []) | _ => false))
  | _, _ => false

/-- Faults that kill: at level 2, of HDL below it, and with no vector table at levels 0 and 1; a group killed while a barrier waits for it,
which is the last to arrive or not. -/
theorem witness_kills_at_faults :
    ([(2, 6, trapState 2), (0, clsHDL, trapState 0), (1, clsHDL, trapState 1), (0, 6, at_ 0 id id), (1, 6, at_ 0 (fun g => { g with level := 1 }) id)] :
      List (Nat × Nat × State)).all (fun x => killed x.1 x.2.1 x.2.2) = true ∧
    (match AMap.get? (trapState 2).blocks 0 with
      | some b => (match b.owner with | .launch _ => true | _ => false) && (b.groups[0]?).isSome
      | none => false) = true ∧
    ([2, 3].all (fun n => let b : Block := { named := [(3, { count := n, arrived := 1, who := [0] })] }
      match b.named with | [(_, p)] => !p.who.contains 1 && decide (p.count ≤ p.arrived + 1) == decide (n = 2) | _ => false)) = true := by decide +kernel

/-! ### Queues and memory -/

/-- A group at a queue of two slots on page 2 with indices, a state and an operand. -/
def queueState (resv taken ridx state x : Nat) : State :=
  at_ 0 (uni [(4, 0x20000), (6, BitVec.ofNat 32 x)]) (fun s =>
    let s := mapped s
    { s with mem := memPut s.mem (3 * 65536) (toBytes resv 4 ++ toBytes taken 4 ++ toBytes ridx 4 ++ toBytes 2 2 ++ toBytes state 1) })

/-- The premises of `QueueAt`, computed, with more of the descriptor and of what a write of new bytes leaves. -/
def queueAt (s : State) (v : View) (P : Queue → Bool) (new : Queue → Queue) (err : Option W32) : Bool :=
  let va := v.src64 hu false 4 0
  match judge s (some v.core) v.g.asid.toNat .block va 64 with
  | (s2, .mem pa true _ true _ _) =>
    match s2.physRead pa 64, capture s2 v.core v.g.asid.toNat va 64 with
    | .ok home, (s3, .ok line) =>
      let q := Queue.ofBytes home line
      let bs := (new q).bytes home (err.map (fun c => (c, s3.gt)))
      q.ok && P q && (match s3.physWrite pa bs with | .ok _ => true | .error _ => false) && decide (bs ≠ home.take 32)
    | _, _ => false
  | _ => false

/-- `qput` and `qget` find room and an entry, at the wrap of an index and at a whole ring; else they answer that they did not. -/
theorem witness_queues :
    ([(0, 0, 0), (1, 0, 0), (0, 2 ^ 31 - 1, 2 ^ 31 - 1)] : List (Nat × Nat × Nat)).all (fun x => let s := queueState x.1 x.2.1 x.2.2 0 0
      meets (.qput hu (fm 8 4 0 0)) .notAud s (fun v0 v => v.go hu && queueAt (startRun s v0) v (fun q => decide (q.state = 0) &&
        decide ((q.resv + 2 ^ 31 - q.ridx) % 2 ^ 31 < q.slots) && decide (asidPart v.g.asid.toNat = some q.pprod)) (fun q => { q with resv := q.resv + 1 }) none)) &&
    ([(2, 0, 0, 0), (0, 0, 0, 1), (0, 0, 0, 2)] : List (Nat × Nat × Nat × Nat)).all (fun x => let s := queueState x.1 x.2.1 x.2.2.1 x.2.2.2 0
      meets (.qput hu { fm 8 4 0 0 with xsc := 1 }) .notAud s (fun v0 v => v.go hu && queueAt (startRun s v0) v (fun q => decide (q.state ≠ 0) ||
        decide (q.slots ≤ (q.resv + 2 ^ 31 - q.ridx) % 2 ^ 31)) (fun q => { q with taken := q.taken + 1 }) none)) &&
    ([(1, 0, 0), (2, 1, 1), (0, 2 ^ 31 - 1, 2 ^ 31 - 1)] : List (Nat × Nat × Nat)).all (fun x => let s := queueState x.1 x.2.1 x.2.2 0 0
      meets (.qget hu (fm 8 4 0 0)) .notAud s (fun v0 v => v.go hu && queueAt (startRun s v0) v (fun q => decide (q.state = 0) &&
        decide (q.taken ≠ q.resv) && decide (asidPart v.g.asid.toNat = some q.pcons)) (fun q => { q with taken := q.taken + 1 }) none)) &&
    ([(0, 0, 0, 0), (1, 0, 0, 1)] : List (Nat × Nat × Nat × Nat)).all (fun x => let s := queueState x.1 x.2.1 x.2.2.1 x.2.2.2 0
      meets (.qget hu { fm 8 4 0 0 with xsc := 1 }) .notAud s (fun v0 v => v.go hu && queueAt (startRun s v0) v (fun q => decide (q.state ≠ 0) ||
        decide (q.taken = q.resv)) (fun q => { q with taken := q.taken + 1 }) none)) = true := by decide +kernel

/-- The queue's frame is marked for a checkpoint's copy. -/
theorem witness_queue_copies :
    let s : State := { queueState 1 0 0 0 0 with cow := [3] }
    [Instr.qput hu (fm 8 4 0 0), .qget hu (fm 8 4 0 0), .qctlErr hu (f3 8 4 6 0 1)].all (fun i => meets i .notAud s (fun v0 v => v.go hu && drained s v0 v &&
      queueAt (startRun s v0) v (fun q => decide (q.state = 0 ∧ q.taken ≠ q.resv ∧ q.resv < q.ridx + q.slots ∧ asidPart v.g.asid.toNat = some q.pcons)) (fun q => { q with state := 1 }) (some 0) &&
      decide ((startRun s v0).cow = [3]))) = true := by decide +kernel

/-- The operations of `qctl`: done, err, run, setr at both ends of its range, and stat. -/
theorem witness_queue_control :
    (let s := queueState 2 1 0 0 0
     let ok (i : Instr) (P : Queue → Bool) (new : Queue → Queue) (err : Option W32) : Bool :=
       meets i .notAud s (fun v0 v => v.go hu && drained s v0 v && queueAt (startRun s v0) v P new err)
     ok (.qctlDone hu (f3 8 4 6 0 0)) (fun q => decide (q.ridx = 0) && decide (q.pcons = 0)) (fun q => { q with ridx := 1 }) none &&
     ok (.qctlErr hu (f3 8 4 6 0 1)) (fun _ => true) (fun q => { q with state := 1 }) (some 0) &&
     meets (.qctlStat hu (f3 8 4 6 0 4)) .notAud s (fun v0 v => v.go hu && drained s v0 v && queueAt (startRun s v0) v (fun q => decide (q.state = 0))
       (fun q => { q with ridx := 1 }) none)) &&
    ([1, 2] : List Nat).all (fun x => let s := queueState 2 1 0 1 x
      meets (.qctlRun hu (f3 8 4 6 0 2)) .notAud s (fun v0 v => v.go hu && drained s v0 v && queueAt (startRun s v0) v (fun q => decide (q.state = 1))
        (fun q => { q with state := 0 }) none) &&
      meets (.qctlSetr hu (f3 8 4 6 0 3)) .notAud s (fun v0 v => v.go hu && drained s v0 v && queueAt (startRun s v0) v (fun q => decide (q.state = 1) &&
        decide ((v.src hu false 6 0).toNat = x ∧ x ≤ (q.resv + 2 ^ 31 - q.ridx) % 2 ^ 31)) (fun q => { q with ridx := x, taken := x }) none)) = true := by
  decide +kernel

/-- A group that may reach page 1 (frame 2), whose leaf is walked to, in lane 31 and as a whole. -/
def memState (a : W32) (m : W32) : State :=
  at_ 0 (fun g => let g := vecs [(4, { bits := a }), (8, { bits := m, tag := 1 }), (9, { bits := 3 })] (uni [(4, a), (8, m)] g)
    { g with slot0 := { g.slot0 with mask := 0x80000000 } }) mapped

/-- The premises of `Lands`, computed. -/
def lands (s1 : State) (v : View) (k : Acc) (w : Nat) (us : List (Nat × W64)) : Bool :=
  match judgeAll s1 v k w us with
  | (s2, js) => js.all (fun j => match j.2.2 with | .mem pa _ _ _ _ _ => (s2.eccUnit pa w false).isNone | _ => false) && v.g.held.isEmpty &&
      v.g.remFail.isEmpty && (s1.remotesOf v.handle v.gi).isEmpty

/-- Loads and stores land at the first and the last place of a page, in both forms, of every width. -/
theorem witness_accesses :
    ([hv, hu] : List Head).all (fun h => ([0, 1, 2, 3, 4, 5] : List (BitVec 3)).all (fun w =>
      ([0x10000, 0x20000 - BitVec.ofNat 32 (2 ^ w.toNat)] : List W32).all (fun a => let s := memState a 5
        let o := fm 8 4 0 w
        let at_ (k : Acc) (v0 v : View) : Bool := lands (startRun s v0) v k (2 ^ w.toNat) ((v.units h).map (fun l => (l, effAddr v h o l)))
        meets (.ld h o) .notAud s (at_ .load) && (h.u || meets (.ldTyped h 1 o) .notAud s (at_ .load)) && meets (.st h o) .all s (at_ .store)))) = true := by
  decide +kernel

/-- The lanes for which a word acts that keeps its place in INDEX. -/
def longLanes (h : Head) (v : View) : List Nat :=
  if h.u then v.units h else (v.units h).filter (fun l => decide (v.g.prog.toNat ≤ l ∧ v.sl.upto ≤ l ∧ l < v.g.stopAt))

/-- Atomics of each type land, at the last place of a page, with and without a lane below INDEX, stopped at a lane or not. -/
theorem witness_atomics :
    ([hv, hu] : List Head).all (fun h => ([(2, 0x00), (3, 0x02), (2, 0x81)] : List (BitVec 3 × BitVec 8)).all (fun x =>
      ([(0, 32), (31, 32), (0, 31), (31, 0)] : List (BitVec 16 × Nat)).all (fun n =>
      let s := (memState (0x20000 - BitVec.ofNat 32 (2 ^ x.1.toNat)) 5).modGroup 0 0 (fun g => { g with prog := n.1, stopAt := n.2 })
      let o := { fm 8 4 0 x.1 with idx := x.2 }
      [Instr.atom h o, .red h o].all (fun i => meets i .notAud s (fun v0 v => lands (startRun s v0) v (.atomic (x.2 != 0x81)) (2 ^ x.1.toNat)
        ((longLanes h v).map (fun l => (l, effAddr v h { o with idx := 0xFF#8 } l))) && decide (v.g.stopAt = n.2)))))) = true ∧
    meets (.atom hv { fm 8 4 0 2 with idx := 0x03 }) .notAud (memState 0x10000 5) (fun v0 v => lands (startRun (memState 0x10000 5) v0) v (.atomic false) 4
      ((v.units hv).map (fun l => (l, effAddr v hv (fm 8 4 0 2) l))) && decide ((v.g.base.vec 8 31).tag = tagF32)) = true := by decide +kernel

/-- The premises of `SpLands`, computed. -/
def spLands (s1 : State) (v : View) (w : Nat) (us : List (Nat × W64)) : Bool :=
  us.all (fun u => match spJudge v w u.2 with | .at_ off => !s1.spBroken v.core v.b off | _ => false) && v.g.held.isEmpty && v.g.remFail.isEmpty &&
    (s1.remotesOf v.handle v.gi).isEmpty

/-- Scratchpad words land at the first and the last place of the allocation; an atomic, on F32 too. -/
theorem witness_scratchpad :
    ([hv, hu] : List Head).all (fun h => ([0, 1, 2, 3, 4, 5] : List (BitVec 3)).all (fun w =>
      ([0, 0x100 - BitVec.ofNat 32 (2 ^ w.toNat)] : List W32).all (fun a => let s := memState a 5
        let o := fm 8 4 0 w
        [Instr.lds h o, .sts h o, .ldsTyped hv 1 o].all (fun i => meets i .notAud s (fun v0 v => spLands (startRun s v0) v (2 ^ w.toNat)
          ((v.units h).map (fun l => (l, effAddr v h o l)))))))) = true ∧
    ([(hv, 2, 0x00), (hu, 3, 0x72), (hv, 2, 0x03)] : List (Head × BitVec 3 × BitVec 8)).all (fun x => let s := memState 0xF8 5
      let o := { fm 8 4 0 x.2.1 with idx := x.2.2 }
      meets (.atoms x.1 o) .notAud s (fun v0 v => spLands (startRun s v0) v (2 ^ x.2.1.toNat)
        ((v.units x.1).map (fun l => (l, effAddr v x.1 { o with idx := 0xFF#8 } l))) && (x.1.u || decide ((v.g.base.vec 8 31).tag = tagF32)))) = true := by
  decide +kernel

/-- A captured line of ASID 0 at 0x10000. -/
def lineState : State := line 0 0x10000 (toBytes 0x1122 8) (memState 0x10000 0)

/-- The premises of `ldc`, computed. -/
def capturesAll (core a w : Nat) : List (Nat × W64) → State → Bool
  | [], _ => true
  | (_, va) :: us, s => decide (va.toNat % w = 0 ∧ va.toNat < 2 ^ 56) &&
      match capture s core a va w with
      | (s', .ok bs) => decide (bs.length = w) && capturesAll core a w us s'
      | _ => false

/-- `ldc` of a line that is there and of one captured now, a fence of a group with nothing outstanding, and without effect, `cbinv` and
`prf`. -/
theorem witness_caches :
    ([hv, hu] : List Head).all (fun h => [lineState, memState 0x10000 0].all (fun s =>
      ([(2, 15), (5, 1), (3, 0)] : List (BitVec 3 × BitVec 12)).all (fun x =>
      meets (.ldc h (fm 8 4 x.2 x.1)) .notAud s (fun v0 v => drained s v0 v && !(v.units h).isEmpty &&
        capturesAll v.core v.g.asid.toNat (2 ^ x.1.toNat) ((v.units h).map (fun l => (l, effAddr v h (fm 8 4 x.2 x.1) l))) (startRun s v0))))) = true ∧
    ([1, 2, 3] : List (BitVec 2)).all (fun ord => meets (.fence hu { fm 0 0 0 0 with ord, idx := 0xFF }) .notAud lineState (fun v0 v => v.go hu && drained lineState v0 v) &&
      meets (.fence hn { fm 0 0 0 0 with ord, idx := 0xFF }) .notAud lineState (fun _ v => !v.go hn)) = true ∧
    [Instr.cbinv hu (fm 0 4 0 0), .cbinv hv (fm 0 4 0 0), .prf hv (fm 0 4 0 0), .prf hu (fm 0 4 0 0)].all (fun i => meets i .notAud lineState (fun _ v =>
      !(v.units hu).isEmpty)) = true := by decide +kernel

/-- A group whose tag table is on and holds two lines, with slot numbers at both ends in lanes 30 and 31. -/
def tagState : State :=
  let s := (at_ 0 (uni [(4, 0x10000), (6, 3)] ∘ vecs [(4, { bits := 0x10100 }), (6, { bits := 1 })] ∘ fun g =>
    { g with slot0 := { g.slot0 with mask := 0xC0000000 } }) id)
  let s := s.modBlock 0 (fun b => { b with tten := true, scratchN := 4, tags := [(0, 0x101), (3, 0x100)] })
  s.modGroup 0 0 (fun g => let R := Regs.setVec (Regs.setVec g.live 4 30 { bits := 0x10000 }) 6 30 { bits := 0 }; { g with base := R, live := R })

/-- Lane l of a group addresses byte 4·l of its scratchpad, of which lines hold errors. -/
def badScratch (bad : List Nat) : State :=
  let s := (memState 0 0xFFFFFFFF).modGroup 0 0 (fun g =>
    let R := (List.range 32).foldl (fun R l => Regs.setVec R 4 l { bits := BitVec.ofNat 32 (4 * l) }) g.live
    { g with base := R, live := R, slot0 := { g.slot0 with mask := 0xFFFFFFFF } })
  s.setCore 0 { s.core 0 with spBad := bad }

/-- A store that writes a broken line of the scratchpad whole, one beside another broken line, and one of no broken line. -/
theorem witness_scratch_errors : ([[0], [0, 3], [3], []] : List (List Nat)).all (fun bad => let s := badScratch bad
    meets (.sts hv (fm 8 4 0 2)) .notAud s (fun v0 v => drained s v0 v && decide (v.b.spOff = 0) &&
      decide (((startRun s v0).core v.core).spBad = bad) && decide ((v.units hv).length = 32) &&
      (v.units hv).all (fun l => match spJudge v 4 (effAddr v hv (fm 8 4 0 2) l) with | .at_ off => decide (off = 4 * l) | _ => false))) = true := by
  decide +kernel

/-- Tag-table words with the table on: of lanes and of the group, of one slot, the last slot and all; and with no executing lane. -/
theorem witness_tag_table :
    ([hv, hu] : List Head).all (fun h =>
      [Instr.tlook h (fm 8 4 0 0), .tset h { fm 6 4 0 0 with idx := 0xFF }, .tclr h (f3 0 6 0 0 0), .tclr h (f3 0 0 0 0 1)].all (fun i =>
        meets i .notAud tagState (fun _ v => v.g.rs.tten && !v.g.inOperGate && !(v.units h).isEmpty && decide (v.g.rs.tags.length = 2) &&
          (v.units h).all (fun l => decide ((v.src h false 6 l).toNat < v.scratchN))))) = true ∧
    [Instr.tlook hn (fm 8 4 0 0), .tset hn { fm 6 4 0 0 with idx := 0xFF }, .tclr hn (f3 0 6 0 0 0)].all (fun i =>
      meets i .notAud tagState (fun _ v => (v.units hn).isEmpty)) = true := by decide +kernel

/-- The run's copy of the tag table in that state is in the order of its slots. -/
theorem witness_tag_order :
    (match (issuing tagState).bind (fun v0 => viewOf (startRun tagState v0) v0.handle v0.gi) with
      | some v => decide (v.g.rs.tags.Pairwise (fun a b => a.1 < b.1)) | none => false) = true := by decide +kernel

/-- A group with a pool of two frames and two of its frames to give back, frame 4 and the last of HBM, in lanes 30 and 31. -/
def poolState : State :=
  let s := at_ 0 (uni [(4, 4)] ∘ vecs [(4, { bits := 0xFFFFFF }), (6, { bits := 0x20000 })] ∘ fun g => { g with slot0 := { g.slot0 with mask := 0xC0000000 } }) mapped
  let s := s.modGroup 0 0 (fun g => let R := Regs.setVec (Regs.setVec g.live 4 30 { bits := 4 }) 6 30 { bits := 0x10000 }; { g with base := R, live := R })
  let s := s.setFt 0xFFFFFF (ftMake 1 0 false false false false false 0 false false false)
  { s with pools := [(0, [9, 8])] }

/-- `fget`, `fput` of distinct unpinned frames, and `tinv` of pages and of all of an ASID. -/
theorem witness_frames :
    ([hv, hu] : List Head).all (fun h => meets (.fget h (f3 8 0 0 0 0)) .owner poolState (fun _ v => !(v.units h).isEmpty) &&
      meets (.fput h (f3 0 4 0 0 0)) .owner poolState (fun v0 v => let s1 := startRun poolState v0
        let fr (l : Nat) : Nat := (v.src h false 4 l).toNat
        decide ((v.units h).map fr).Nodup && decide (s1.frontiers.length + (v.units h).length ≤ 4096) && (v.units h).all (fun l =>
          decide (fr l < Config.frames ∧ ftKind (s1.ftEntry (fr l)) = 1 ∧ ftPart (s1.ftEntry (fr l)) = v.part ∧
            ftPool (s1.ftEntry (fr l)) = false ∧ s1.pinned (fr l) = false ∧ fr l ∉ s1.cow))) &&
      ([0, 1] : List (BitVec 16)).all (fun m => meets (.tinv h (f3 0 6 8 0 m)) .notAud poolState (fun v0 v => let s1 := startRun poolState v0
        drained poolState v0 v && (v.units h).all (fun l => let a := (v.src h false 8 l).toNat % 2 ^ 11
          decide (v.g.auth = 0 ∧ a < 0x400 ∧ asidPart v.g.asid.toNat = some (a / 16)) && !s1.inUse a (v.src64 h false 6 l) (decide (m = 1)))))) = true ∧
    ([(0, 31), (31, 31), (0, 0)] : List (BitVec 16 × Nat)).all (fun n =>
      let s := poolState.modGroup 0 0 (fun g => { g with prog := n.1, stopAt := n.2 })
      [Instr.fget hv (f3 8 0 0 0 0), .fput hv (f3 0 4 0 0 0)].all (fun i => meets i .owner s (fun _ v => !(v.units hv).all (fun l => decide (l < v.g.stopAt)))) &&
      meets (.tinv hv (f3 0 6 8 0 0)) .notAud s (fun v0 v => drained s v0 v && !(v.units hv).all (fun l => decide (l < v.g.stopAt)))) = true ∧
    [0x400, 0x440].all (fun a => let s := (poolState.modGroup 0 0 (fun g => uni [(8, a)] { g with auth := 1 }))
      meets (.tinv hu (f3 0 6 8 0 0)) .notAud s (fun v0 v => drained s v0 v && decide (v.g.auth = 1) && decide ((v.src hu false 8 0).toNat % 2 ^ 11 = a.toNat) &&
        !(startRun s v0).inUse a.toNat (v.src64 hu false 6 0) false)) = true := by decide +kernel

/-! ### Engines and tiles -/

/-- A latch of quarter 3 for one k-block of F16. -/
def latch3 : Latch := { sa := 16, n := 1, rows := List.replicate 8 (List.replicate 32 0x3C), scales := [], atag := 2, afmt := 0 }

/-- A group of which lane 31 executes, with tile 2 at handle 0, A in v16 to v23 with a tag, s4 to s7, format 1 narrow with scales, and
outstanding matrix operations. -/
def matState (tag : BitVec 4) (ls : AMap Latch) (a b : W32) (mma : Nat) : State :=
  at_ 0 (fun g => let g := tagged tag (List.range' 16 9) (uni [(4, a), (5, b)] g)
      { g with base := { g.base with acc := [(0, 2)] }, live := { g.live with acc := [(0, 2)] }, slot0 := { g.slot0 with mask := 0x80000000 }
               latches := ls, counters := { mma := mma } })
    (fun s => line 0 0x8000 (toBytes 0x10000 8 ++ toBytes 64 4 ++ toBytes 32 4 ++ toBytes (if tag = 5 then 0x18000 else 0) 8 ++ [3])
      (({ s with launches := [(5, { restart := true })] } : State).modBlock 0 (fun b => { b with launch := some 5, scratchN := 256, fm := [(1, 0x0008075C)] })))

/-- The premises common to the matrix words, computed. -/
def matReady (o : F3) (s : State) (v0 v : View) : Bool :=
  let m := v.lanes hv
  let c := (startRun s v0).cluster v.cluster
  decide (m ≠ 0) && decide (AMap.get? v.g.base.acc o.dst.toNat = some 2) && !latchBad v o m && !scaleRegsBad v o m && !matrixTagBad v o m &&
    drained s v0 v && decide (v.g.counters.mma < 63) && c.placing.isEmpty && decide (c.reqs.length + 1 ≤ 32)

/-- Matrix words from registers and from a latch, with and without REUSE, narrow with scales, at the last counter value. -/
theorem witness_matrix :
    ([(2, [], 0x4100, 0), (2, [(3, latch3)], 0x4140, 62), (0, [(3, latch3)], 0x4100, 0), (5, [], 0x4000, 0)] :
      List (BitVec 4 × AMap Latch × BitVec 16 × Nat)).all (fun x =>
      let o := f3 0 16 4 1 x.2.2.1
      let o := if x.1 = 5 then o else { o with sc := 0 }
      let s := matState x.1 x.2.1 0x400 0xFFFF x.2.2.2
      let t := matState x.1 x.2.1 0x8000 0 x.2.2.2
      [Instr.mma hv o, .mmt hv o].all (fun i => meets i .notAud s (fun v0 v => matReady o s v0 v && decide ((v.g.base.uni 4).toNat % 1024 = 0) &&
        scratchIn o (startRun s v0) v (scratchB v o) && decide ((v.g.base.uni 5).toNat < 2 ^ 16))) &&
      meets (.mmam hv o) .notAud t (fun v0 v =>
        let bs := capturedBytes (startRun t v0) v.core v.g.asid.toNat 0x8000 32
        matReady o t v0 v && decide (((startRun t v0).launchOf v.b).map Launch.restart = some true) && capturesOk (startRun t v0) v.core v.g.asid.toNat 0x8000 32 &&
          decide (fieldS bs 8 % 32 = 0 ∧ fieldS bs 12 % 32 = 0 ∧ fieldOf bs 24 1 ≤ 3) && zeroFrom bs 25 &&
          decide (fieldA bs 16 = 0 ↔ ¬(fldN o.mod 8 2 = 0 ∧ nfScm (v.fm o.sc.toNat) = 2)))) = true := by decide +kernel

/-- A matrix word with no executing lane, and one whose handle is not bound. -/
theorem witness_matrix_idle :
    meets (.mma { hv with n := true } (f3 0 16 4 0 0x4100)) .notAud (matState 2 [] 0 0 0) (fun _ v => decide (v.lanes { hv with n := true } = 0)) = true ∧
    meets (.mma hv (f3 1 16 4 0 0x4100)) .notAud (matState 2 [] 0 0 0) (fun _ v => decide (v.lanes hv ≠ 0) &&
      (AMap.get? v.g.base.acc 1).isNone) = true := by decide +kernel

/-- A group whose pair s4 names bytes in the control-block cache, whose member array, for rank 0 of two members, is at 0x9000. -/
def descState (bs : List Byte) (n : W32) (c : Counters) : State :=
  at_ 0 (fun g => uni [(4, 0x8000), (6, n), (8, 0x8004)] { g with counters := c }) (fun s =>
    let s := line 0 0x9000 (toBytes 7 4 ++ [0, 0, 0, 0] ++ toBytes 8 4 ++ [63, 0, 0, 0]) (line 0 0x8000 bs s)
    { s with sys := { s.sys with regs := [(0x5080, 7)] } })
/-- A copy of 2^24 bytes, 65,535 times, and one of a byte. -/
def copyBlock (n r : Nat) : List Byte := toBytes 0x10000 8 ++ toBytes 0x20000 8 ++ toBytes n 4 ++ toBytes r 4 ++ toBytes 0 8 ++ [0, 3, 3]
/-- A gather of elements of 2^w bytes. -/
def gatherBlock (n w : Nat) : List Byte :=
  toBytes 0x10000 8 ++ toBytes 0x20000 8 ++ toBytes 0x30000 8 ++ toBytes n 4 ++ toBytes 4 4 ++ [BitVec.ofNat 8 w, 0, 3, 0]
/-- A job of two members at the device scope of the module. -/
def jobBlock : List Byte :=
  [0, 0, 4, 0] ++ toBytes 9 4 ++ toBytes 0x10000 8 ++ toBytes 0x20000 8 ++ toBytes 64 4 ++ toBytes 32 4 ++ toBytes 2 2 ++ toBytes 0 2 ++ toBytes 0 4 ++
    toBytes 0x9000 8 ++ toBytes 0x30000 8

/-- The premises of a captured descriptor, computed. -/
def captures (s : State) (P : List Byte → Bool) (v0 v : View) : Bool :=
  v.go hu && drained s v0 v && capturesOk (startRun s v0) v.core v.g.asid.toNat 0x8000 64 && P (capturedBytes (startRun s v0) v.core v.g.asid.toNat 0x8000 64)

/-- Copies, gathers and scatters at both ends of their fields, with 62 outstanding. -/
theorem witness_descriptors :
    ([copyBlock (2 ^ 24) 65535, copyBlock 1 1] : List (List Byte)).all (fun bs => let s := descState bs 0 { cpy := 62 }
      meets (.cpy hu (f3 0 4 0 0 0)) .notAud s (captures s copyOk)) = true ∧
    ([gatherBlock 1 2, gatherBlock (2 ^ 24) 12] : List (List Byte)).all (fun bs => let s := descState bs 0 { gth := 62 }
      [Instr.gth hu (f3 0 4 0 0 0), .sct hu (f3 0 4 0 0 0)].all (fun i => meets i .notAud s (captures s gatherOk))) = true := by decide +kernel

/-- A collective job, and tables of 1 and of 256 bytes in the control-block cache. -/
theorem witness_jobs :
    (let s := descState jobBlock 0 { col := 62 }
     meets (.coll hu (f3 0 4 0 0 0)) .notAud s (fun v0 v => captures s jobOk v0 v &&
       (let s2 := (capture (startRun s v0) v.core v.g.asid.toNat 0x8000 64).1
        let bs := capturedBytes (startRun s v0) v.core v.g.asid.toNat 0x8000 64
        match linesFrom v.core v.g.asid.toNat 514 s2 (fieldA bs 40) (8 * fieldOf bs 32 2) with
        | some (s3, ms) => (List.range (fieldOf bs 32 2)).all (fun i => decide (fieldOf ms (8 * i + 4) 1 < 64 ∧ fieldOf ms (8 * i + 5) 3 = 0)) &&
            decide (fieldOf ms (8 * fieldOf bs 34 2) 4 = (s3.reg 0 0x5080).toNat)
        | none => false))) = true ∧
    ([1, 256] : List W32).all (fun n =>
      let s := [0, 1, 2, 3].foldl (fun s k => line 0 (0x8000 + 64 * k) [] s) (descState [] n { mma := 62 })
      meets (.tmld hu (f3 0 4 6 0 0)) .notAud s (fun v0 v => v.go hu && drained s v0 v && decide (1 ≤ (v.g.base.uni 6).toNat ∧ (v.g.base.uni 6).toNat ≤ 256) &&
        (linesFrom v.core v.g.asid.toNat 6 (startRun s v0) (pair (v.g.base.uni 4) (v.g.base.uni 5)) (v.g.base.uni 6).toNat).isSome)) = true := by decide +kernel

/-- Descriptors off their alignment and out of range, and words without effect. -/
theorem witness_descriptor_faults :
    meets (.cpy hu (f3 0 8 0 0 0)) .notAud (descState [] 0 {}) (fun _ v => v.go hu && decide ((pair (v.g.base.uni 8) (v.g.base.uni 9)).toNat % 64 ≠ 0)) = true ∧
    (let s := descState (copyBlock 0 1) 0 {}
     meets (.cpy hu (f3 0 4 0 0 0)) .notAud s (captures s (fun bs => !copyOk bs))) = true ∧
    [Instr.cpy hn (f3 0 4 0 0 0), .gth hn (f3 0 4 0 0 0), .sct hn (f3 0 4 0 0 0), .coll hn (f3 0 4 0 0 0), .tmld hn (f3 0 4 6 0 0)].all (fun i =>
      meets i .notAud (descState [] 0 {}) (fun _ v => !v.go hn)) = true := by decide +kernel

/-- A group with a failure of class 1, at its fifth submission of it, and outstanding operations. -/
def countState (c : Counters) (subs : Nat) : State :=
  at_ 0 (fun g => { g with counters := c, subs := { mma := subs }
                           failures := [{ opcls := 1, seq := 4, depth := 0, cls := 6, iaddr := 8, vaddr := 16, mask := 1, frame := 0, tier := 0 }] }) id

/-- `waitc` on each class at its limit and above it, where a failure is not due yet and where it is. -/
theorem witness_counters :
    ([0, 1, 2, 3] : List (BitVec 32)).all (fun k => let c : Counters := { cpy := 5, mma := 5, gth := 5, col := 5 }
      let get (v : View) : Nat := v.g.counters.get k.toNat
      meets (.waitc hu (fi 0 0 (256 * k + 4))) .notAud (countState c 9) (fun _ v => v.go hu && decide (get v = 5)) &&
      ([5, 63] : List (BitVec 32)).all (fun n => meets (.waitc hu (fi 0 0 (256 * k + n))) .notAud (countState c 9) (fun _ v => v.go hu && decide (get v ≤ n.toNat) &&
        v.g.failures.all (fun f => !decide (f.opcls = k.toNat ∧ f.depth = v.g.gates.length ∧ f.seq + 1 + n.toNat ≤ v.g.subs.get k.toNat))))) = true ∧
    meets (.waitc hu (fi 0 0 0x105)) .notAud (countState { mma := 5 } 10) (fun _ v => v.go hu && decide (v.g.counters.mma ≤ 5) &&
      (v.g.failures.find? (fun f => decide (f.opcls = 1 ∧ f.depth = v.g.gates.length ∧ f.seq + 1 + 5 ≤ v.g.subs.get 1))).isSome) = true ∧
    meets (.cntr hu (f3 5 0 0 0 0)) .notAud (countState { mma := 63 } 9) (fun _ v => v.go hu) = true := by decide +kernel

/-- A group with two groups' worth of tiles, tags of raw elements in v16 to v19 and F32 in v20, row 31 in v24. -/
def tileState : State :=
  at_ 0 (fun g => let g := vecs [(16, { tag := 12 }), (17, { tag := 13 }), (20, { tag := 1 }), (24, { bits := 63 })] (uni [(2, 7)] (last g))
    { g with base := { g.base with acc := [(0, 2)] }, live := { g.live with acc := [(0, 2)] } }) id

/-- Tile words: the last tile is bound, and elements at both ends of a row are read and written, raw and not. -/
theorem witness_tiles :
    [Instr.aalloc hu (f3 1 2 0 0 0), .afree hu (f3 0 0 0 0 0), .azero hu (f3 0 0 0 0 0)].all (fun i => meets i .notAud tileState (fun v0 v => v.go hu &&
      decide ((v.g.base.uni 2).toNat < v.b.groups.length * v.accs ∧ AMap.get? v.g.base.acc 0 = some 2) &&
      !(startRun tileState v0).tileBusy v.handle v.gi 2 v.cluster)) = true ∧
    ([(0, 20), (31, 20), (0x11F, 16), (0x100, 16)] : List (BitVec 16 × BitVec 8)).all (fun x =>
      meets (.ald hv (f3 30 0 24 0 x.1)) .notAud tileState (fun v0 v => decide (v.lanes hv ≠ 0 ∧ AMap.get? v.g.base.acc 0 = some 2) &&
        decide ((v.src hv false 24 31).toNat % 32 = 31) && !(startRun tileState v0).tileBusy v.handle v.gi 2 v.cluster) &&
      meets (.aput hv (f3 0 x.2 24 0 x.1)) .notAud tileState (fun v0 v => decide (v.lanes hv ≠ 0 ∧ AMap.get? v.g.base.acc 0 = some 2) &&
        !(startRun tileState v0).tileBusy v.handle v.gi 2 v.cluster && (v.units hv).all (fun l =>
          (List.range (if bit x.1 8 then 2 else 1)).all (fun k => decide ((v.g.base.vec (x.2.toNat + k) l).tag =
            if !bit x.1 8 then tagF32 else if k % 2 = 0 then tagF48H else tagF48L))))) = true := by decide +kernel

/-! ### System registers, time, boosts, sealing and pair words -/

/-- A system-register word. -/
def fs (d a : BitVec 8) (reg : BitVec 16) (named : Bool) : FS := { dst := d, sa := if named then a else 0, reg, mod := if named then 1 else 0 }
/-- A group of an authority that names instance `k` in s6, with a value in s4 and a word of GT latched. -/
def sysState (auth : BitVec 2) (k x : W32) : State :=
  at_ auth (uni [(4, x), (6, k)] ∘ fun g => { g with shadow := some (0x5000, 9), asid := if auth = 1 then 0x400 else 0 }) id

/-- Reads of each kind, at both ends of the partitions, refused ones, an odd word with and without its pair's latch, an auditor's captures,
and one without effect. -/
theorem witness_reads :
    ([(0, false, 0x10), (1, false, 0x10), (0, false, 0x12), (0, false, 0x20), (0, false, 0x5000), (1, false, 0x5001), (0, false, 0x6010), (0, false, 0x5110)] :
      List (BitVec 2 × Bool × BitVec 16)).all (fun x => meets (.srd hu (fs 8 6 x.2.2 x.2.1)) .all (sysState x.1 0 0) (fun _ v =>
        srdAllowed (fs 8 6 x.2.2 x.2.1) v && !(v.units hu).isEmpty && decide (v.g.auth = x.1) && decide (v.g.shadow = some (0x5000, 9)) &&
          decide (v.b.part? = some 0))) = true ∧
    ([63, 64] : List W32).all (fun k => meets (.srd hu (fs 8 6 0x6030 true)) .all (sysState 1 k 0) (fun _ v => srdAllowed (fs 8 6 0x6030 true) v &&
      decide (v.g.auth = 1) && decide (v.g.base.uni 6 = k))) = true ∧
    meets (.srd hu (fs 8 6 0x6FFF false)) .all (sysState 2 0 0) (fun _ v => !srdAllowed (fs 8 6 0x6FFF false) v) = true ∧
    ([(0, 9), (0x14, 9), (0x14, 0), (0x5000, 9)] : List (Nat × W32)).all (fun x =>
      let s := at_ 0 (fun g => { g with shadow := some x }) id
      meets (.srd hu (fs 8 6 0x15 false)) .all s (fun _ v => srdAllowed (fs 8 6 0x15 false) v && !(v.units hu).isEmpty && isWide 0x14 &&
        decide (v.g.shadow = some x))) = true ∧
    ([(0x7900, 0), (0x7906, 0x80000005), (0x7907, 3)] : List (BitVec 16 × W32)).all (fun x =>
      let s := at_ 2 (fun g => { g with asid := 0x440 }) (fun s => (s.setReg 0 0x5047 x.2).setReg 0 0x5041 x.2)
      meets (.srd hu (fs 8 6 x.1 false)) .all s (fun _ v => srdAllowed (fs 8 6 x.1 false) v && !(v.units hu).isEmpty && decide (v.g.auth = 2) &&
        (instanceOf v none x.1.toNat).isSome)) = true ∧
    meets (.srd hn (fs 8 6 0x5000 false)) .all (sysState 0 0 0) (fun _ v => srdAllowed (fs 8 6 0x5000 false) v && (v.units hn).isEmpty) = true := by
  decide +kernel

/-- Writes: refused, of no instance, out of range, of the generator, of the group, and plain ones of a core and of the last partition. -/
theorem witness_writes :
    meets (.swr hu (fs 4 6 0x5000 false)) .notAud (sysState 0 0 0) (fun _ v => !swrAllowed (fs 4 6 0x5000 false) v) = true ∧
    meets (.swr hu (fs 4 6 0x6030 true)) .notAud (sysState 1 64 1) (fun _ v => swrAllowed (fs 4 6 0x6030 true) v && v.go hu &&
      decide (instanceOf v (some 64) 0x6030 = none)) = true ∧
    meets (.swr hu (fs 4 6 0x6030 true)) .notAud (sysState 1 63 0) (fun v0 v => swrAllowed (fs 4 6 0x6030 true) v && v.go hu &&
      decide (instanceOf v (some 63) 0x6030 = some 63) && badValue (startRun (sysState 1 63 0) v0) 63 0x6030 0) = true ∧
    ([0x18, 0x19, 0x1A, 0x1B, 0x17] : List (BitVec 16)).all (fun n => meets (.swr hu (fs 4 6 n false)) .notAud (sysState 0 0 2) (fun _ v =>
      swrAllowed (fs 4 6 n false) v && v.go hu)) = true ∧
    ([(false, 1), (true, 1), (true, 0)] : List (Bool × W32)).all (fun x => let s := (sysState 0 0 x.2).modBlock 0 (fun b => { b with tten := x.1 })
      meets (.swr hu (fs 4 6 0x1010 false)) .notAud s (fun v0 v => swrAllowed (fs 4 6 0x1010 false) v && v.go hu && decide (v.b.tten = x.1) &&
        !badValue (startRun s v0) 0 0x1010 x.2)) = true ∧
    ([(0x2081, 767), (0x5111, 0)] : List (BitVec 16 × W32)).all (fun x => meets (.swr hu (fs 4 6 x.1 true)) .notAud (sysState 1 x.2 1) (fun _ v =>
      swrAllowed (fs 4 6 x.1 true) v && v.go hu && plainReg x.1.toNat && (instanceOf v (some x.2.toNat) x.1.toNat).isSome)) = true ∧
    meets (.swr hu (fs 4 6 0x6040 false)) .notAud (sysState 0 0 1) (fun _ v => swrAllowed (fs 4 6 0x6040 false) v && v.go hu && plainReg 0x6040 &&
      decide (instanceOf v none 0x6040 = some 0)) = true := by
  decide +kernel

/-- A block whose group has writes pending, its tag table off and on. -/
theorem witness_pending :
    let g : Group := { swrs := [{ num := 0x14, value := 0xFFFFFFFF }, { num := 0x6D, value := 1 }] }
    (({ groups := [g] } : Block).groups[0]? = some g) ∧ g.gates = [] ∧ g.live.fm = [] ∧ ({} : Block).tten = false ∧ ({ tten := true } : Block).tten = true := by
  decide

/-- Words of time and boosts, of cluster 0 and of a droop, and claims of each step, repeated and not, where they execute and where not. -/
theorem witness_time :
    [Instr.gtm hu (f3 8 0 0 0 0), .gtm hv (f3 8 0 0 0 0), .ccnt hu (f3 8 0 0 0 0), .calq hv (f3 8 0 0 0 0)].all (fun i => meets i .all (at_ 2 id id) (fun _ _ => true)) =
      true ∧
    meets (.ccnt hu (f3 8 0 0 0 0)) .all (at_ 0 id (fun s => s.setCluster 0 { droop := true, cycles := 5 })) (fun v0 v =>
      ((startRun (at_ 0 id (fun s => s.setCluster 0 { droop := true, cycles := 5 })) v0).cluster v.cluster).droop) = true ∧
    ([0, 1, 2, 3] : List W32).all (fun k =>
      let s := at_ 0 id (fun s => { (s.setCluster 0 { frac := 19, cycles := 5 }).setReg 0 0x3010 k with sys := { ((s.setReg 0 0x3010 k).sys) with gt := 7 } })
      meets (.ccnt hu (f3 8 0 0 0 0)) .all s (fun v0 v => let x := (startRun s v0).cluster v.cluster
        decide (x.frac = 19 ∧ x.cyclesAt < s.gt ∧ s.regF v.cluster 0x3010 0 2 = k.toNat) && !x.droop)) = true ∧
    ([0, 1, 2] : List W32).all (fun n => meets (.bst hu (fi 0 0 n)) .notAud ((at_ 0 id id).setReg 0 0x3010 4) (fun _ v => v.go hu)) = true ∧
    meets (.bst hn (fi 0 0 1)) .notAud (at_ 0 id id) (fun _ v => !v.go hn) = true := by decide +kernel

/-- An operator's group with an address in s4 and a number in s6, and context 7 out of its core, of partition 3 that holds rotation 0 or not. -/
def operState (va x : W32) (holds : Bool) : State :=
  at_ 1 (uni [(4, va), (6, x)] ∘ fun g => { g with asid := 0x400 }) (fun s =>
    let s := opMapped s
    { s with blocks := AMap.put s.blocks 7 { owner := .launch (some 3), groups := [{}] }, rots := if holds then [(0, { holder := some 3, cl := [1] })] else [] })

/-- `seal` of no context and of one already sealed. -/
theorem witness_seal_none :
    meets (.seal hu (f3 8 4 6 0 0)) .oper (operState 0x4000000 9 false) (fun v0 v => v.go hu && !(startRun (operState 0x4000000 9 false) v0).isContext 9) = true ∧
    (let s : State := { operState 0x4000000 7 false with husks := [{ part := 3, handle := 7, serial := 1, kind := 0, gt := 0, len := 0, gen := 0, placeable := true }] }
     meets (.seal hu (f3 8 4 6 0 0)) .oper s (fun v0 v => v.go hu && (startRun s v0).placeable 7)) = true := by decide +kernel

/-- A load of lane 5 of group 0 of context 0 from a host page, due at 5. -/
def rem0 : Remote :=
  { handle := 0, gi := 0, lane := 5, uniform := false, kind := .load, va := 0x30000, w := 4, data := [], aop := 0, aty := 0, dst := some 3, tag := 1, iaddr := 8
    mask := 32, wid := 2, host := true, addr := 0, frame := 5, tgt := 0, pasid := 9, page := 6, asid := 0, auth := 0, acq := false, xlat := false, fill := none, due := 5 }

/-- Context 7 in a state whose operator seals it: the bytes of its husk have been acknowledged, or are still on their way. -/
def sealing7 (away : Bool) : State :=
  let s := operState 0x4000000 7 false
  let r : Remote := { rem0 with hw := some (.husk 7), handle := noHandle }
  { s with
    blocks := AMap.modify s.blocks 7 (fun b => { b with huskOut := some (3, 0x400, 0x4000000) })
    remotes := if away then [(0, r)] else [] }

/-- What the seal of context 7 needs, computed. -/
theorem seal_needs : [true, false].all (fun away => meets (.seal hu (f3 8 4 6 0 0)) .oper (sealing7 away) (fun v0 v =>
    let s1 := startRun (sealing7 away) v0
    v.go hu && decide (pair (v.g.base.uni 4) (v.g.base.uni 5) = 0x4000000) && decide ((v.g.base.uni 6).toNat = 7) && decide (v.g.asid.toNat = 0x400) &&
    s1.isContext 7 && !s1.placeable 7 && s1.sealable 7 &&
    (match AMap.get? s1.blocks 7 with | some b => decide (b.huskOut = some (3, 0x400, 0x4000000)) && b.huskFail.isNone | none => false) &&
    (s1.huskAway 7 == away))) = true := by decide +kernel

/-- A context that an access of its own keeps from being sealed, and one whose husk the host did not take. -/
theorem witness_seal_waits :
    (let s : State := { sealing7 false with remotes := [(0, { rem0 with handle := 7 })] }
     meets (.seal hu (f3 8 4 6 0 0)) .oper s (fun v0 v => v.go hu && (startRun s v0).isContext 7 && !(startRun s v0).placeable 7 && !(startRun s v0).sealable 7)) = true ∧
    (let e : WriteFail := { cls := 0x11, frame := 6, tier := 2, unit := 0, va := 0x4000000 }
     let s : State := { sealing7 false with blocks := AMap.modify (sealing7 false).blocks 7 (fun b => { b with huskFail := some e }) }
     meets (.seal hu (f3 8 4 6 0 0)) .oper s (fun v0 v => v.go hu && (startRun s v0).isContext 7 && !(startRun s v0).placeable 7 && (startRun s v0).sealable 7 &&
       decide (v.g.asid.toNat = 0x400) && (match (sealAt (startRun s v0) 7 0x400 0x4000000 .sealed).2 with
         | .failed x => decide (x = e) | _ => false))) = true := by decide +kernel

/-- A context whose husk has gone to the host is sealed, and one whose husk is on its way is awaited. -/
theorem witness_seal :
    (∃ v0 v s2 k b, Issues (.seal hu (f3 8 4 6 0 0)) true .oper (sealing7 false) v0 v ∧ v.go hu = true ∧
      pair (v.g.base.uni 4) (v.g.base.uni 5) = 0x4000000 ∧ (v.g.base.uni 6).toNat = 7 ∧
      (startRun (sealing7 false) v0).isContext 7 = true ∧ (startRun (sealing7 false) v0).placeable 7 = false ∧
      (startRun (sealing7 false) v0).sealable 7 = true ∧ AMap.get? (startRun (sealing7 false) v0).blocks 7 = some b ∧
      sealAt (startRun (sealing7 false) v0) 7 v.g.asid.toNat 0x4000000 (sealPlace (startRun (sealing7 false) v0) 7 0x4000000).2 = (s2, .done k)) ∧
    (∃ v0 v s2, Issues (.seal hu (f3 8 4 6 0 0)) true .oper (sealing7 true) v0 v ∧ v.go hu = true ∧
      (startRun (sealing7 true) v0).isContext 7 = true ∧ (startRun (sealing7 true) v0).placeable 7 = false ∧
      (startRun (sealing7 true) v0).sealable 7 = true ∧
      sealAt (startRun (sealing7 true) v0) 7 v.g.asid.toNat 0x4000000 (sealPlace (startRun (sealing7 true) v0) 7 0x4000000).2 = (s2, .away)) := by
  have n := seal_needs
  simp only [List.all_cons, List.all_nil, Bool.and_true, Bool.and_eq_true] at n
  constructor
  · obtain ⟨v0, v, hi, h⟩ := meets_issues (e := true) n.2
    simp only [Bool.and_eq_true, decide_eq_true_eq, Bool.not_eq_true', beq_iff_eq] at h
    obtain ⟨⟨⟨⟨⟨⟨⟨⟨h1, h2⟩, h3⟩, h4⟩, h5⟩, h6⟩, h7⟩, h8⟩, h9⟩ := h
    split at h8
    · rename_i b hb
      simp only [Bool.and_eq_true, decide_eq_true_eq, Option.isNone_iff_eq_none] at h8
      exact ⟨v0, v, _, _, b, hi, h1, h2, h3, h5, h6, h7, hb, by rw [h4]; exact sealAt_arrived hb h8.1 h8.2 h9 _⟩
    · cases h8
  · obtain ⟨v0, v, hi, h⟩ := meets_issues (e := true) n.1
    simp only [Bool.and_eq_true, decide_eq_true_eq, Bool.not_eq_true', beq_iff_eq] at h
    obtain ⟨⟨⟨⟨⟨⟨⟨⟨h1, h2⟩, h3⟩, h4⟩, h5⟩, h6⟩, h7⟩, h8⟩, h9⟩ := h
    split at h8
    · rename_i b hb
      exact ⟨v0, v, startRun (sealing7 true) v0, hi, h1, h5, h6, h7, by simp only [sealAt, hb, h9, if_true]⟩
    · cases h8

/-- A husk of context 7, and a state with its bytes at page 1, the operator placing it on core 4 of a cluster its partition holds. -/
def husk7 : Husk := { part := 3, handle := 7, serial := 1, kind := 0, gt := 0, len := 0, gen := 0, placeable := true }
/-- A state with bytes at page 1 and husk 7 known, where core `c` is named. -/
def placeState (c : W32) (bs : List Byte) : State :=
  let s := operState 0x10000 c true
  { s with husks := [husk7], mem := s.mem ++ (List.range 64).map (fun i => (6 * 65536 + i, bs.getD i 0)) }

/-- The premises of `place`, computed: the header is read, and its status is as said. -/
def placing (s : State) (P : State → Except Fetch (Nat × Nat) → Bool) (v0 v : View) : Bool :=
  v.go hu && decide (pair (v.g.base.uni 4) (v.g.base.uni 5) = 0x10000) &&
  match fetchVia (groupReader v.handle v.gi) v.g.asid.toNat 2 (startRun s v0) 0x10000 64 with
  | (s2, .ok hd) => P s2 (placeStatus s2 (groupReader v.handle v.gi) v.g.asid.toNat 0x10000 (v.g.base.uni 6).toNat hd).2
  | _ => false

/-- No husk is named (status 1), and one whose header differs (2). -/
theorem witness_place_refused :
    meets (.place hu (f3 8 4 6 0 0)) .oper (placeState 4 []) (placing (placeState 4 []) (fun s2 e => match e with
      | .ok (n, _) => decide (n = 1) && s2.husks.all (fun k => !(k.placeable && decide (k.handle = 0))) | _ => false)) = true ∧
    (let s := placeState 4 (husk7.header.set 16 1)
     meets (.place hu (f3 8 4 6 0 0)) .oper s (placing s (fun _ e => match e with | .ok (n, _) => decide (n = 2) | _ => false))) = true := by
  decide +kernel

/-- A matrix request of context 7 that it left unfinished. -/
def cont7 : MReq :=
  { op := 7, handle := 7, gi := 0, q := 0, tile := 0, n := 2, next := 1, rows := 1, a := [], ascales := [], atag := 2, afmt := 0, bty := 1, bfmt := 0, scratch := true
    baddr := 0, kstride := 32, cstride := 32, bscales := 0, asid := 0x30, part := some 3, iaddr := 8, tree := none }
/-- The same husk's bytes have come from the host; the context has a continuation, for which another waits already, or none. -/
def hostHusk (full : Bool) : State :=
  let s := operState 0x4000000 4 true
  let s := if full then (s.modBlock 7 (fun b => { b with conts := [cont7] })).setCluster 1 { placing := [9] } else s
  { s with husks := [husk7], fetched := [(4096, lineKey 0x400 0x4000000, s.huskBytes husk7)] }
/-- The bytes of husk 7 there. -/
def bytes7 (full : Bool) : List Byte := (hostHusk full).huskBytes husk7

/-- What `place` of husk 7 on core 4 needs, but for its bytes. -/
theorem place_needs (full : Bool) : meets (.place hu (f3 8 4 6 0 0)) .oper (hostHusk full) (fun v0 v =>
    let s1 := startRun (hostHusk full) v0
    v.go hu && decide (pair (v.g.base.uni 4) (v.g.base.uni 5) = 0x4000000) && decide (groupReader v.handle v.gi = 4096) && decide ((v.g.base.uni 6).toNat = 4) &&
    decide (v.g.asid.toNat = 0x400) && s1.host.linkUp && (s1.hostLeaf 0x400 0x4000000) &&
    (match AMap.get? s1.blocks 7 with | some b => canPlace s1 b 4 && b.missing.isEmpty | none => false) && (contsFit s1 7 4 == !full)) = true := by cases full <;> decide +kernel

/-- The header that husk 7's bytes begin with names it. -/
theorem husk7_named (t : List Byte) : (fieldOf (husk7.header ++ t) 5 1 = 0 ∧ fieldOf (husk7.header ++ t) 8 4 = 7 ∧
    fieldOf (husk7.header ++ t) 12 4 = 1 ∧ fieldOf (husk7.header ++ t) 28 4 = 0) ∧ (husk7.header ++ t).take 48 = husk7.header :=
  ⟨⟨rfl, rfl, rfl, rfl⟩, rfl⟩

/-- A husk whose bytes are as they were is placed, or waits for room for its continuation: status 0. -/
theorem witness_place (full : Bool) :
    ∃ v0 v s2 s3 b, Issues (.place hu (f3 8 4 6 0 0)) true .oper (hostHusk full) v0 v ∧ v.go hu = true ∧
      fetchVia (groupReader v.handle v.gi) v.g.asid.toNat 2 (startRun (hostHusk full) v0) 0x4000000 64 = (s2, .ok (bytes7 full)) ∧
      placeStatus s2 (groupReader v.handle v.gi) v.g.asid.toNat 0x4000000 4 (bytes7 full) = (s3, .ok (0, 7)) ∧
      AMap.get? s3.blocks 7 = some b ∧ contsFit s3 7 4 = !full := by
  obtain ⟨v0, v, hi, h⟩ := meets_issues (e := true) (place_needs full)
  simp only [Bool.and_eq_true, decide_eq_true_eq, beq_iff_eq] at h
  obtain ⟨⟨⟨⟨⟨⟨⟨⟨h1, _⟩, h3⟩, _⟩, h5⟩, h6⟩, h7⟩, h8⟩, h9⟩ := h
  split at h8
  · rename_i b hb
    simp only [Bool.and_eq_true] at h8
    have hf : (startRun (hostHusk full) v0).fetched = (hostHusk full).fetched := by unfold startRun; split <;> rfl
    have e (n : Nat) : fetchVia 4096 0x400 (n + 2) (startRun (hostHusk full) v0) 0x4000000 64 = (startRun (hostHusk full) v0, .ok (bytes7 full)) :=
      fetchVia_fetched n (by decide) (by decide) h6 h7 (huskBytes_length _ _) (by rw [State.kept, hf]; rfl)
    have hs : placeStatus (startRun (hostHusk full) v0) 4096 0x400 0x4000000 4 (bytes7 full) = (startRun (hostHusk full) v0, .ok (0, 7)) := by
      have hk : (startRun (hostHusk full) v0).husks = [husk7] := by unfold startRun; split <;> rfl
      have hy : (startRun (hostHusk full) v0).keys = (hostHusk full).keys := by unfold startRun; split <;> rfl
      have hb7 : (startRun (hostHusk full) v0).huskBytes husk7 = (bytes7 full) := by simp only [bytes7, State.huskBytes, State.sealKey, State.partKey, hy]
      have ho : (startRun (hostHusk full) v0).huskOpens husk7 (bytes7 full) = true := hb7 ▸ huskOpens_huskBytes _ _
      obtain ⟨⟨n1, n2, n3, n4⟩, n5⟩ := husk7_named ((bytes7 full).drop 48)
      rw [show husk7.header ++ (bytes7 full).drop 48 = (bytes7 full) from huskBytes_header _ _] at n1 n2 n3 n4 n5
      simp only [placeStatus, hk, n1, n2, n3, n4, n5]
      have hc : ([husk7].find? (fun k => k.placeable && decide (k.kind = 0) && decide (k.kind = 0) && decide (k.handle = 7) &&
          decide (k.serial = 1) && decide (k.gen.toNat = 0))) = some husk7 := rfl
      rw [hc]
      have ht : husk7.total = 64 := rfl
      have hh : husk7.handle = 7 := rfl
      have el : fetchVia 4096 0x400 longFuel (startRun (hostHusk full) v0) 67108864#64 64 = (startRun (hostHusk full) v0, .ok (bytes7 full)) := e 65534
      have hm : b.missing = [] := by simpa using h8.2
      simp [ht, el, hh, hb, h8.1, hm, ho]
    exact ⟨v0, v, _, _, b, hi, h1, by rw [h3, h5]; exact e 0, by rw [h3, h5]; exact hs, hb, h9⟩
  · cases h8

/-- `pmpt` of partition 3 that holds no rotation, and of one its own call has emptied or failed on. -/
theorem witness_pmpt :
    (let s := operState 3 0x4000000 false
     meets (.pmpt hu (f3 8 4 6 0 0)) .oper s (fun v0 v => v.go hu && decide ((pair (v.g.base.uni 6) (v.g.base.uni 7)).toNat % 64 = 0) &&
       decide ((v.g.base.uni 4).toNat = 3) && ((startRun s v0).part 3).pmpt.isNone &&
       ((((startRun s v0).setRegF 3 0x6034 4 1 0).refreshRots).rotHeld 3).isNone)) = true ∧
    [true, false].all (fun failed =>
      let m : Pmpt := { handle := 0, gi := 0, asid := 0x400, va := 0x4000000, count := 2, failed }
      let s : State := { operState 3 0x4000000 failed with parts := [(3, { pmpt := some m })] }
      meets (.pmpt hu (f3 8 4 6 0 0)) .oper s (fun v0 v => v.go hu && decide ((v.g.base.uni 4).toNat < 64) &&
        (match ((startRun s v0).part 3).pmpt with | some m => decide (m.handle = v.handle ∧ m.gi = v.gi) && (m.failed || !(startRun s v0).holds 3) | none => false))) =
          true := by decide +kernel

/-- Half of a pair word. -/
def half (u : Bool) (code : BitVec 6) (d a : BitVec 8) (m4 : BitVec 4) : Half := { hop := (if u then 0x40 else 0) ||| code.zeroExtend 7, g := 7, n := false, dst := d, src := a, m4 }

/-- The premises of a pair word, computed: its halves' tags, and its memory half's access. -/
def pairs (a b : Half) (badA badB : Bool) (s : State) : Bool :=
  meets (.pairWord true a b) (if a.isMem || b.isMem then .notAud else .all) s (fun v0 v =>
    decide ((halfBad v a).isEmpty = !badA) && decide ((halfBad v b).isEmpty = !badB) &&
    (let m := if a.isMem then a else b
     !m.isMem || (match spAccess (startRun s v0) v (halfMem v m) (halfAddrs v m) with | .ok _ => true | _ => false)))

/-- Pair words of two results, with a memory half on either side, and with a wrong tag in either half; each kind of integer half. -/
theorem witness_pairs :
    let s := at_ 0 (last ∘ vecs [(4, { bits := 5 }), (5, { bits := 252 }), (6, { bits := 8 }), (8, { tag := 2 }), (9, { tag := 2 })]) id
    (pairs (half false 1 4 6 0) (half true 0 4 6 0) false false s && pairs (half false 0x20 4 5 2) (half false 1 7 6 0) false false s &&
      pairs (half false 1 7 6 0) (half false 0x21 5 4 2) false false s && pairs (half false 0x10 8 6 0) (half true 0 4 6 0) true false s &&
      pairs (half false 1 7 6 0) (half false 0x10 9 9 0) false true s) = true ∧
    (List.range 12).all (fun k => pairs (half false (BitVec.ofNat 6 k) 4 6 0) (half true 0 4 6 0) false false s) = true ∧
    ([0, 1] : List (BitVec 4)).all (fun k => pairs (half false 0x0C 4 6 k) (half false 0x0D 5 7 k) false false s) = true := by decide +kernel

/-- Floating-point halves on each type and conversions of each kind, with the tags they ask for. -/
theorem witness_float_halves :
    ([0, 1, 2] : List (BitVec 4)).all (fun k => let s := at_ 0 (last ∘ tagged (k + 1) [4, 6]) id
      ([0x10, 0x11, 0x12, 0x13] : List (BitVec 6)).all (fun c => pairs (half false c 4 6 k) (half true 0 4 6 0) false false s)) = true ∧
    ([(0, 0), (1, 0), (2, 1), (3, 1), (4, 2), (5, 3)] : List (BitVec 4 × BitVec 4)).all (fun x =>
      pairs (half false 0x18 4 6 x.1) (half true 0 4 6 0) false false (at_ 0 (last ∘ tagged x.2 [6]) id)) = true := by decide +kernel

/-! ### Frames, tiers, control writes and time -/

/-- Core 767's `ftarg` names a frame with an entry, and partition 63's `pfarg` too; the frame has a scrub frontier or none. -/
def ftState (f : Nat) (e : W64) (scrub : Bool) : State :=
  let s := ((State.reset.setReg 767 0x2081 (BitVec.ofNat 32 f)).setReg 63 0x6021 (BitVec.ofNat 32 f)).setFt f e
  { s with frontiers := if scrub then [(f, { next := 511 })] else [] }
/-- The fields of the entry that `ftarg` names. -/
def ftOf (s : State) : FtFields := ftView (s.ftEntry (s.reg 767 0x2081).toNat)

/-- Each requirement of the frame commands, met by the first and the last frame, with and without a scrub under way; no frontier free; a
pinned frame. -/
theorem witness_frame_commands :
    [0, Config.frames - 1].all (fun f =>
      let named (s : State) (P : FtFields → Bool) : Bool := decide (s.regF 767 0x2080 31 1 = 0) && decide ((s.reg 767 0x2081).toNat < Config.frames) &&
        !s.pinned f && P (ftOf s)
      named (ftState f 0 false) (fun x => decide (x.kind = 0)) &&
      named (ftState f 3 true) (fun x => decide (x.kind = 3) && (ftState f 3 true).frontierFor f) &&
      [true, false].all (fun b => named (ftState f (ftMake 1 5 false false false false false 0 true false false) b) (fun x => decide (x.kind = 1) && x.pool)) &&
      named (ftState f (ftMake 2 0 false false false false false 0 false false false) false) (fun x => decide (x.kind = 2) && !x.win && !x.aub) &&
      named (ftState f (ftMake 2 63 false true false true true 63 false false false) false) (fun x => decide (x.kind = 2) && x.win) &&
      named (ftState f (ftMake 2 5 false false false false false 0 false true false) false) (fun x => decide (x.kind = 2) && x.aub) &&
      named (ftState f 1 false) (fun x => decide (x.kind = 1) && !x.pool)) = true ∧
    (let s := ftState 9 3 false
     let full : State := { s with frontiers := List.replicate 4096 (8, {}) }
     (ftOf full).kind = 3 ∧ full.frontierFor 9 = false) ∧
    [true, false].all (fun w => let s := ftState 9 (ftMake 2 5 false w false false false 0 false false false) false
      let s : State := { s with ops := [(7, { copyOp with frames := [9] })] }
      decide ((ftOf s).kind = 2 ∧ (ftOf s).win = w) && s.pinned 9) = true ∧
    Config.frames ≤ ((ftState Config.frames 0 false).reg 767 0x2081).toNat ∧
    ((ftState 0 0 false).setReg 767 0x2080 0x80000000).regF 767 0x2080 31 1 = 1 := by decide +kernel

/-- The requirements of a partition's commands: its window on either side, its popped frame, and frames that are not. -/
theorem witness_partition_commands :
    let x (e : W64) : FtFields := let s := ftState 7 e false; ftView (s.ftEntry (s.reg 63 0x6021).toNat)
    ((x (ftMake 2 63 false true false false false 0 false false false)).part = 63 ∧ (x (ftMake 2 63 false true false false false 0 false false false)).win = true) ∧
    ((x (ftMake 2 0 false true false false false 63 false false false)).part ≠ 63 ∧ (x (ftMake 2 0 false true false false false 63 false false false)).pb = 63) ∧
    ((x (ftMake 1 63 false false false false false 0 false false false)).kind = 1 ∧ (x (ftMake 1 63 false false false false false 0 false false false)).part = 63 ∧
      (x (ftMake 1 63 false false false false false 0 false false false)).pool = false) ∧ (x 0).kind ≠ 2 ∧
    Config.frames ≤ ((ftState Config.frames 0 false).reg 63 0x6021).toNat := by decide +kernel

/-- Core 5's `tierarg` names frame 9, the operator's, which moves to a place, or to none; the CXL ports are up. -/
def tierState (d : Option Loc) (evict : Bool) : State :=
  let s := State.reset.setFt 9 (ftMake 2 1 false true false false false 2 false false false)
  { s with sys := { s.sys with regs := [(0x50B1, 2), (5 * 65536 + 0x2083, 9), (5 * 65536 + 0x2084, 9)] }, moves := match d with | some d => [{ frame := 9, dest := d, core := 5, evict }] | none => [] }

/-- Tier commands of a frame, and moves out of HBM that can complete, of a command and of an eviction. -/
theorem witness_tiers :
    (let s := tierState none false
     decide (s.regF 5 0x2082 31 1 = 0 ∧ (s.reg 5 0x2083).toNat < Config.frames) && tierOk s 9) = true ∧
    [(Loc.cxl 1, false), (.cold 1, true)].all (fun x => let s := tierState (some x.1) x.2
      (s.moves.find? (fun m => decide (m.frame = 9))).isSome && !s.pinned 9 && tierOk s 9 && decide (s.locOf 9 ≠ x.1) && !s.frameBad 9 &&
        s.ftWaits.isEmpty && s.evWaits.isEmpty && s.scrubQ.isEmpty && s.portUp 1 && decide (locPort x.1 = some 1 ∧ locPort (s.locOf 9) = none) &&
        (AMap.get? s.frontiers 9).isNone && s.launches.isEmpty) = true := by decide +kernel

/-- Evictions with a frame of the operator or of partition 0 to take, and with none; a descriptor of 2 and of 4,096 slots; a scrub at the first and
the last line. -/
theorem witness_evictions :
    (let s := (tierState none false).setFt 10 (ftMake 1 0 false false false false false 0 false false false)
     decide (SMap.wf (fun _ => 0) s.fot = true ∧ s.regF 5 0x2087 31 1 = 0) && decide (s.locOf 9 = .hbm ∧ s.moves = [] ∧ ftKind (s.ftEntry 9) = 2) && !s.pinned 9 &&
       decide (ftKind (s.ftEntry 10) = 1 ∧ ftPart (s.ftEntry 10) = 0 ∧ ftPool (s.ftEntry 10) = false ∧ s.locOf 10 = .hbm) && !s.pinned 10) = true ∧
    (∀ k, ftKind (State.reset.ftEntry k) = 0) ∧ SMap.wf (fun _ => 0) State.reset.fot = true ∧ State.reset.regF 5 0x2087 31 1 = 0 ∧
    (let s := tierState none false
     decide ((s.reg 5 0x2084).toNat = 9 ∧ ftKind (s.ftEntry 9) = 2 ∧ ftWin (s.ftEntry 9) = true) &&
       [0, 1023].all (fun off => decide (s.eccUnit (65536 * 9 + 64 * off) 64 true = none))) = true ∧ (2 : Nat) = 2 ^ 1 ∧ (4096 : Nat) = 2 ^ 12 ∧
    [0, 511].all (fun n => let s : State := { State.reset with frontiers := [(9, { next := n })] }
      (match AMap.get? s.frontiers 9 with | some fr => decide (fr.next < 512) | none => false) && s.ftWaits.isEmpty && s.evWaits.isEmpty && s.scrubQ.isEmpty) =
        true := by
  refine ⟨by decide +kernel, fun k => ?_, by decide, by decide, by decide +kernel, by decide, by decide, by decide +kernel⟩
  show ftKind 0 = 0
  decide

/-- Each frame that an eviction may take is pinned. -/
theorem witness_evictions_pinned :
    let s : State := { tierState none false with ops := [(7, { copyOp with frames := [9] })] }
    SMap.wf (fun _ => 0) s.fot = true ∧ s.regF 5 0x2087 31 1 = 0 ∧ (s.locOf 9 = .hbm ∧ s.moving 9 = false ∧ ftKind (s.ftEntry 9) = 2) ∧
    ∀ k, ftKind (s.ftEntry k) = 2 → s.pinned k = true := by
  refine ⟨by decide +kernel, by decide +kernel, by decide +kernel, fun k h => ?_⟩
  have e : (tierState none false).fot = [(9, ftMake 2 1 false true false false false 2 false false false)] := by decide +kernel
  by_cases hk : k = 9
  · subst hk; decide +kernel
  · simp only [State.ftEntry, e, SMap.get, if_neg (Ne.symm hk)] at h
    exact absurd h (by decide)

/-- Contexts on and off a core to kill, of a launch that starts its blocks again and of one that does not, a handle of none; a module that
runs and one that is frozen. -/
theorem witness_kills :
    [true, false].all (fun restart =>
      let s : State := { State.reset with
        blocks := [(3, { owner := .launch (some 0), launch := some 5 }), (4, { owner := .launch none, place := .core 0 }), (6, { owner := .task 0 })]
        launches := [(5, { restart }), (6, {})] }
      s.isContext 3 && s.isContext 4 && !s.isContext 6 && (AMap.get? s.blocks 2).isNone && (match AMap.get? s.blocks 3, AMap.get? s.blocks 4 with
        | some b, some c => b.core?.isNone && c.core?.isSome && decide (b.launch = some 5 ∧ b.redo = .no) && (AMap.get? s.launches 5).isSome
        | _, _ => false)) = true ∧
    State.reset.frozen = false ∧ ({ State.reset with frozen := true } : State).frozen = true := by decide +kernel

/-- A ring's CTL, TAIL, packet to fetch and INDEX. -/
def ringState (r : Nat) (ctl : W32) (tail fetch : Nat) : State :=
  let s := ((State.reset.setRingReg r 2 ctl).setRingReg r 3 (BitVec.ofNat 32 tail))
  { s with rings := [(r, { fetch })] }

/-- Doorbells at both ends of their window and beyond it, of a ring that is out, skips of a failed packet, and writes of CTL at both ends of
LOGN and outside. -/
theorem witness_rings :
    ([0, 16] : List W32).all (fun x => let s := ringState 1024 0x24 0 0
      s.ringIn 1024 && s.ringEn 1024 && decide ((x.toNat % 2 ^ 31 + 2 ^ 31 - s.ringIndex 1024) % 2 ^ 31 ≤ 2 ^ s.ringLogn 1024)) = true ∧
    State.reset.ringIn 5 = false ∧
    ([0x80000003, 0x80000005] : List W32).all (fun x => let s := ringState 1025 0x64 5 3
      s.ringIn 1025 && decide (s.ringState 1025 = 1) && bit x 31 &&
        decide ((x.toNat % 2 ^ 31 + 2 ^ 31 - (s.ring 1025).fetch) % 2 ^ 31 ≤ (s.ringTail 1025 + 2 ^ 31 - (s.ring 1025).fetch) % 2 ^ 31)) = true ∧
    (State.reset.ringState 1024 ≠ 1 ∧ State.reset.ringIn 1024 = true ∧ State.reset.ringEn 1024 = false) ∧
    ([0x24, 0x30] : List W32).all (fun x => decide (4 ≤ fldN x 0 5 ∧ fldN x 0 5 ≤ 16) && bit x 5) = true ∧
    (ringState 1039 0x24 0 0).ringEn 1039 = true ∧
    ([(0x11, 0x24), (0x7FFFFFFF, 0x24), (0x11, 0x04)] : List (W32 × W32)).all (fun y => let s := ringState 1024 y.2 0 0
      let x := y.1
      s.ringIn 1024 && (s.ringEn 1024 == bit y.2 5) && decide (2 ^ s.ringLogn 1024 < (fldN x 0 31 + 2 ^ 31 - s.ringIndex 1024) % 2 ^ 31)) = true ∧
    ([0x23, 0x31, 0] : List W32).all (fun x => decide (fldN x 0 5 < 4 ∨ 16 < fldN x 0 5)) = true ∧
    ([4, 16] : List W32).all (fun x => decide (4 ≤ fldN x 0 5 ∧ fldN x 0 5 ≤ 16) && !bit x 5) = true ∧
    [none, some 9].all (fun k => let s : State := { ringState 1025 0x64 5 3 with rings := [(1025, { fetch := 3, stuck := k })] }
      s.ringIn 1025 && decide (s.ringState 1025 = 1 ∧ (s.ring 1025).stuck = k ∧ (s.ring 1025).packets = [] ∧ (s.ring 1025).fetch < 2 ^ 31)) = true ∧
    ((ringState 1025 0x64 5 3).ringState 1025 = 1 ∧ (2 + 2 ^ 31 - ((ringState 1025 0x64 5 3).ring 1025).fetch) % 2 ^ 31 =
      2 ^ 31 - 1 ∧ ((ringState 1025 0x64 5 3).ringTail 1025 + 2 ^ 31 - ((ringState 1025 0x64 5 3).ring 1025).fetch) % 2 ^ 31 = 2) ∧
    (AMap.get? ({ State.reset with cmds := [(3, { ring := 1024, index := 0, type := 5, serial := false, tag := 0, cbva := 0, block := [], subs := [] })] } : State).cmds 3).isSome = true := by decide +kernel

/-- A configuration of the pass order that is changed and one that is not; captures of energy with a latched word of the group and of another. -/
theorem witness_configuration :
    (let x (n : W32) : W32 := BitVec.ofNat 32 (fldN n 0 16 + 65536 * max 4 (min 16 (fldN n 16 5)))
     x 0x000A0000 = State.reset.reg 63 0x6002 ∧ x 0 ≠ State.reset.reg 63 0x6002) ∧
    AMap.get? ({ State.reset.host with shadows := [(1, (0x7906, 9))] } : HostPort).shadows 1 = some (0x7900 + 2 * 3, 9) ∧
    (∀ w, AMap.get? State.reset.host.shadows 1 ≠ some (0x7900 + 2 * 3, w)) ∧
    (AMap.get? ({ State.reset with blocks := [(3, {})] } : State).blocks 3).isSome ∧ AMap.get? State.reset.blocks 3 = none := by
  refine ⟨by decide, by decide, fun w h => ?_, by decide, by decide⟩
  cases h

/-- Mirrors that name an instance, and none; registers that are written, and none; a shadow that was captured. -/
theorem witness_mirrors :
    (mirrorInst .pf1 0x6000 0 = none ∧ writeMask (Fn.auth .pf0) 0x5000 = 0) ∧
    ([(.pf0, 0x5111, 0, 0), (.pf0, 0x6033, 63, 63), (.vf 64, 0x6051, 0, 63)] : List (Fn × Nat × Nat × Nat)).all (fun x =>
      decide (mirrorInst x.1 x.2.1 x.2.2.1 = some x.2.2.2)) = true ∧
    (mirrorInst (.vf 64) 0x6030 0 = some 63 ∧ isWide 0x6030 = false ∧ Fn.part? .pf0 = none ∧ State.reset.regF 0 0x5609 0 3 = 0) ∧
    (writeMask (Fn.auth .pf0) 0x5111 ≠ 0 ∧ plainReg 0x5111 = true) ∧
    ([(.pf0, 0x5122, 0, 0), (.pf0, 0x5060, 0, 0), (.pf0, 0x5061, 0, 0), (.pf0, 0x5086, 0, 0), (.pf0, 0x5070, 0, 0), (.pf0, 0x5090, 0, 0), (.pf0, 0x50B0, 0, 0),
        (.pf0, 0x50B7, 0, 0), (.pf0, 0x5502, 0, 0), (.pf0, 0x557E, 0, 0), (.pf0, 0x6030, 1, 63), (.pf0, 0x6082, 0, 0), (.pf0, 0x6032, 63, 63),
        (.pf0, 0x6086, 0, 0), (.vf 1, 0x6002, 0, 0), (.vf 1, 0x6020, 1, 0), (.vf 1, 0x6020, 2, 0), (.vf 1, 0x6020, 3, 0), (.pf0, 0x6095, 0, 0),
        (.vf 64, 0x6102, 0, 63), (.vf 64, 0x617B, 0, 63)] : List (Fn × Nat × W32 × Nat)).all (fun x =>
      decide (mirrorInst x.1 x.2.1 x.2.2.2 = some x.2.2.2 ∧ writeMask (Fn.auth x.1) x.2.1 ≠ 0) &&
        !badValue State.reset x.2.2.2 x.2.1 (if 0x5500 ≤ x.2.1 ∧ x.2.1 % 8 = 2 then 0x24 else if x.2.1 = 0x6030 then 1 else x.2.2.1)) = true ∧
    ([(.pf0, 0x5122, 65), (.pf0, 0x6030, 0), (.pf0, 0x6082, 4097), (.vf 1, 0x6020, 4), (.pf0, 0x5502, 0)] : List (Fn × Nat × W32)).all (fun x =>
      decide (mirrorInst x.1 x.2.1 0 = some 0 ∧ writeMask (Fn.auth x.1) x.2.1 ≠ 0) && badValue State.reset 0 x.2.1 x.2.2) = true ∧
    ((State.reset.part 0).roll = none) ∧
    ([(.pf0, 0x3FFC, some (0x5FFF, 0)), (.pf0, 0x4000, some (0x7000, 0)), (.pf0, 0x1FFFFC, some (0x6FFF, 63)), (.pf0, 0x8000, none),
        (.pf1, 0, some (0x7000, 0)), (.pf1, 0x4000, none), (.vf 1, 0x3FFC, some (0x6FFF, 0)), (.vf 1, 0x4000, none)] :
      List (Fn × Nat × Option (Nat × Nat))).all (fun x => decide (bar0Reg x.1 x.2.1 = x.2.2)) = true ∧
    (mirrorInst (.vf 1) 0x6030 0 = some 0 ∧ (State.reset.setReg 0 0x5609 1).regF 0 0x5609 0 3 ≠ 0 ∧ isWide 0x6040 = true) ∧
    (let s := State.reset.setFt 9 (ftMake 2 0 false false false false false 0 false true false)
     let fs := ((s.fot.filter (fun e => decide (ftKind e.2 = 2) && ftAub e.2)).map (·.1)).take 4096
     fs[0]? = some 9 ∧ fs.length ≤ 65536 / 65536 ∧ (s.physRead (physAddr 9 0) 4).toOption.isSome) ∧
    AMap.get? ({ State.reset.host with shadows := [(1, (0x7900, 9))] } : HostPort).shadows 1 = some (0x7900 + 2 * 0, 9) := by decide +kernel

/-- A partition without a checkpoint, with one being streamed, and with one at rest. -/
theorem witness_rollbacks :
    let c : Ckpt := { dest := 0x10000, root := 0x20000, asid := 0, period := 0 }
    let m : Stream := { cut := 0, root := 0x20000, asid := 0, base := 0x10000, frames := [], copied := [], husks := [] }
    let p (c : Option Ckpt) : State := { State.reset with parts := [(3, { ckpt := c })] }
    (State.reset.part 3).roll = none ∧ (State.reset.part 3).ckpt = none ∧
    ((p (some { c with stream := some m })).part 3).ckpt.bind Ckpt.stream = some m ∧ ((p (some c)).part 3).ckpt.map Ckpt.stream = some none := by decide +kernel

/-- A manifest of no frames and no husks, cut at 5, at address 0x10000 of partition 0, with its address at 0x20000. -/
def manifestState : State :=
  let c : Ckpt := { dest := 0x10000, root := 0x20000, asid := 0, period := 0 }
  let s := mapped State.reset
  let m := memPut (memPut s.mem (2 * 65536) (toBytes 1 4 ++ [0, 0, 0, 0] ++ toBytes 5 8)) (3 * 65536) (toBytes 0x10000 8)
  { s with mem := m, parts := [(0, { ckpt := some c })] }

/-- A manifest on a page of the host, which is waited for; another cut asked for. -/
theorem witness_manifest_away :
    (let c : Ckpt := { dest := 0x4000000, root := 0x4000000, asid := 0x400, period := 0 }
     let s : State := { opMapped State.reset with parts := [(0, { ckpt := some c })] }
     let s1 := (s.setPart 0 { s.part 0 with roll := some 5 }).setRegF 0 0x6091 2 1 1
     decide ((s.part 0).roll = none ∧ (s.part 0).ckpt = some c ∧ c.stream = none) &&
       (match readManifest s1 0 5 c with | (_, .error .wait) => true | _ => false)) = true ∧
    (({ State.reset with parts := [(3, { roll := some 4 })] } : State).part 3).roll = some 4 := by decide +kernel

/-- Its manifest is read. -/
theorem witness_manifest :
    let s := manifestState
    let s1 := (s.setPart 0 { s.part 0 with roll := some 5 }).setRegF 0 0x6091 2 1 1
    (match (s.part 0).ckpt with
      | some c => c.stream.isNone && (match readManifest s1 0 5 c with | (_, .ok m) => m.husks.isEmpty | _ => false)
      | none => false) = true := by decide +kernel

/-- A state at a time, with the clock as said. -/
def timeState (gt : Nat) (k : Clock) : State := { State.reset with sys := { gt }, clock := k }

/-- What falls due: boot, a frame, a boost interval, an energy update, the approach window, a slot's opening and its end, at their first tick; an
exhausted budget; a droop and its end; a locked and an unlocked module's exchange. -/
theorem witness_time_events :
    ((timeState 384 {}).clock.booted = false ∧ 384 ≤ (timeState 384 {}).gt ∧ (timeState 384 {}).host.flash.length < 64 ∧ (timeState 383 {}).gt < 384) ∧
    (4096 * (timeState 4096 {}).clock.nextFrame ≤ (timeState 4096 {}).gt ∧ 8192 * (timeState 8192 {}).clock.nextBoost ≤ (timeState 8192 {}).gt ∧
      256 * (timeState 256 {}).clock.nextEnergy ≤ (timeState 256 {}).gt) ∧
    (let s : State := { timeState 0 { spent := [(.partition 63, 3712)] } with paused := [.collective] }
     Activity.partition 63 ∉ s.paused ∧ s.budget (.partition 63) ≤ s.clock.used (.partition 63)) ∧
    ((AMap.getD ({ State.reset with domains := [(3, { fall := true })] } : State).domains 3 {}).fall = true) ∧
    (State.reset.frozen = false ∧ (State.reset.cluster 191).droop = false ∧ ((State.reset.setCluster 191 { droop := true }).cluster 191).droop = true) ∧
    ((timeState 3840 { phase := .open_ }).clock.phase = .open_ ∧ 4096 * ((timeState 3840 { phase := .open_ }).clock.slotFrame + 1) ≤ 3840 + 256) ∧
    (4096 * ((timeState 4096 { phase := .approach }).clock.slotFrame + 1) ≤ (timeState 4096 { phase := .approach }).gt) ∧
    (4096 * (timeState 384 {}).clock.slotFrame + (timeState 384 {}).clock.slotLen + 64 * (timeState 384 {}).clock.ext ≤ 384 ∧
      (timeState 384 {}).clock.slotLen + 64 * (timeState 384 {}).clock.ext + 64 ≤ 3584) ∧
    (timeState 20864 { slotFrame := 5 }).clock.slotFrame % 16 ≠ 0 ∧
    (State.reset.linkTraffic = false ∧ ({ State.reset with inbound := [({ part := 0, dom := 0, va := 0, kind := .load, bytes := 4, data := [], aop := 0, aty := 0 }, none)] } : State).linkTraffic = true) ∧
    (State.reset.regF 0 0x5050 0 1 = 0 ∧ ((State.reset.setReg 0 0x5050 1).regF 0 0x5050 0 1 = 1) ∧ (timeState 2000 { everLocked := true, fixedAt := 976 }).clock.fixedAt + 1024 ≤ 2000 ∧
      1999 < (timeState 2000 { everLocked := true, fixedAt := 976 }).clock.fixedAt + 1024) := by decide +kernel

/-! ### Blocks, launches and words that cannot issue -/

/-- A group on core 0 in a wait. -/
def waiting (w : Wait) (f : Group → Group) : State := at_ 0 (fun g => f { g with slot0 := { g.slot0 with wait := w } }) id

/-- A wait that may end, one that has, and a run whose results are in. -/
theorem witness_waits :
    (let idle (s : State) (P : Group → Bool) : Bool := match s.group? 0 0 with
       | some g => !g.stopped && g.held.isEmpty && g.area.isEmpty && g.forced.isNone && g.top.isNone && decide (g.exited ≠ allLanes) && g.slot0.live && P g
       | none => false
     [Cond.counter 0 0, .counter 3 63, .remote, .drained].all (fun c => let s := waiting (.retry c) id
       idle s (fun g => !g.ending && decide (g.slot0.wait = .retry c) && condHolds s 0 0 0 g c)) &&
     idle (waiting .passed id) (fun g => !g.ending && decide (g.slot0.wait = .passed)) &&
     (match AMap.get? (waiting .none id).blocks 0 with | some b => b.missing.isEmpty && b.core?.isSome | none => false) &&
     idle (waiting .none (fun g => { g with ending := true, inRun := true })) (fun g => g.ending && g.remFail.isEmpty && ((waiting .none id).remotesOf 0 0).isEmpty)) =
      true := by decide +kernel

/-- A callee whose deadline has come, with nothing outstanding and with a copy. -/
theorem witness_deadlines :
    let f : GateFrame := { slot0 := { live := true, mask := 0xFFFFFFFF }, args := 2, rets := 1, deadline := some 0 }
    [0, 1].all (fun n => let s := at_ 0 (fun g => { g with gates := [f], counters := { cpy := n } }) id
      match s.group? 0 0 with
      | some g => decide (g.gates = [f]) && g.held.isEmpty && g.forced.isNone && decide (f.deadline = some 0 ∧ 0 ≤ s.gt) && (s.remotesOf 0 0).isEmpty && f.top.isNone && f.slot0.live && !f.d &&
          decide (f.slot0.mask &&& ~~~ g.exited ≠ 0) && decide ((g.counters = {}) ↔ n = 0)
      | none => false) = true ∧ (0 : Nat) ≠ noHandle := by decide +kernel

/-- The last block of a launch that fills a core's registers, and a gang of two that holds its places. -/
theorem witness_starts :
    (let l : Launch := { part := some 0, groups := 31, regs := 132, accs := 2, scratch := 1024, gx := 2, next := 1 }
     let s := turnOfPart0 l []
     l.again.isEmpty && decide (l.next < l.total) && mayStart s l && !l.stepped && decide (l.gangsz = 0) &&
       (chooseCore (claimFirst s (some 5)) l l.need (reservedBut (claimFirst s (some 5)) 5 l.next none)).isSome) = true ∧
    (let l : Launch := { part := some 0, gx := 2, gangsz := 2 }
     let s := turnOfPart0 l []
     mayStart s l && !cannotFit s l && decide (min l.gangsz (l.total - l.next) = 2) && l.again.isEmpty && !l.stepped &&
       (match (AMap.get? (reserveGang (claimFirst s (some 5)) 5).launches 5).bind Launch.gang with
         | some g => (List.range 2).all (fun i => (g.spots.find? (fun p => decide (p.index = l.next + i) && p.full l)).isSome)
         | none => false)) = true := by decide +kernel

/-- A gang that has waited eight frames, and one that can never fit. -/
theorem witness_gangs :
    (let g : Gang := { indices := [0, 1], since := some 5 }
     ({ turnOfPart0 { gang := some g } [] with sys := { gt := 32773 } } : State).gt = 5 + 8 * 4096 ∧ g.since = some 5) ∧
    (let l : Launch := { part := some 0, gx := 1000, gangsz := 1000 }
     !l.ended && cannotFit { turnOfPart0 l [] with sys := { regs := [(0x6034, 0x10)] } } l) = true := by decide +kernel

/-- Blocks that are done: of a launch and a counting task; a step boundary that every block has reached. -/
theorem witness_completions :
    (let b : Block := { owner := .launch (some 0), launch := some 5, groups := [{ exited := 0xFFFFFFFF }], place := .core 0, gslots := [0] }
     let s := turnOfPart0 { part := some 0, cmd := some 1 } [(7, b), (taskKey 63, { owner := .task 63, groups := [{ exited := 0xFFFFFFFF }] })]
     blockDone s 7 b && blockDone s (taskKey 63) { owner := .task 63, groups := [{ exited := 0xFFFFFFFF }] }) = true ∧
    (let b : Block := { owner := .launch (some 0), launch := some 5, place := .core 0, gslots := [0]
                        groups := [{ slot0 := { live := true, mask := 1, wait := .step 1 } }] }
     let l : Launch := { part := some 0, stepped := true, next := 1 }
     let s := turnOfPart0 l [(7, b)]
     s.allArrived 5 l && inTurn s (some 0) && (s.part 0).ckpt.isNone && decide (l.mindie ≤ (dieRule s l).length) &&
       decide (movesFor s 5 l (dieRule s l) (s.blocksOf 5) [] = ([], true))) = true := by decide +kernel

/-- A block to be switched out, one off its core, and one of the last turn's husks, to be placed. -/
theorem witness_paging :
    (let b : Block := { owner := .launch (some 0), launch := some 5, place := .core 0, gslots := [0], groups := [{}], missing := [.frame 9] }
     let s := turnOfPart0 { part := some 0 } [(7, b)]
     b.core?.isSome && s.sealable 7 && b.groups.all (fun g => groupStopped s 7 0 g && decide (g.areaDepth = 0))) = true ∧
    [Place.out, .husk 64].all (fun p =>
      let b : Block := { owner := .launch (some 0), launch := some 5, place := p, groups := [{}] }
      let s := { turnOfPart0 { part := some 0 } [(7, b)] with parts := [(0, { awaiting := [7] })] }
      inTurn s (some 0) && b.missing.isEmpty && !b.halted && b.gang.isEmpty && decide ((s.part 0).awaiting.head? = some 7) &&
        (chooseCore (claimFirst s none) { part := some 0 } b.need (reservedBut (claimFirst s none) 5 1 none)).isSome && b.groups.all (fun g => g.held.isEmpty && g.area.isEmpty)) = true := by decide +kernel

/-- A group whose word cannot be fetched or names no instruction, early in its run and at its limit. -/
theorem witness_no_words :
    [0, 30, 31].all (fun n => let s := at_ 0 (fun g => { g with slot0 := { g.slot0 with cnt := n } }) id
      match issuing s with
      | some v0 => (match viewOf (startRun s v0) v0.handle v0.gi with
        | some v => (v.g.pend.find? (fun f => decide (v.g.level ≤ f.level))).isNone && decide (v.sl.cnt = n)
        | none => false)
      | none => false) = true := by decide +kernel

/-! ### Engines and rings -/

/-- A matrix request for the last k-block of rows 0 and 7 of quarter 3, B in memory or in a scratchpad of no allocation. -/
def passReq0 (scratch : Bool) (n : Nat) : MReq :=
  { op := 7, handle := 0, gi := 0, q := 3, tile := 7, n, next := 0, rows := 0x81, a := List.replicate 8 (List.replicate 32 0x3C), ascales := [], atag := 2, afmt := 0
    bty := 1, bfmt := 0, scratch, baddr := 0x10000, kstride := 32, cstride := 32, bscales := 0, asid := 0, part := some 0, iaddr := 8, tree := some (0, 0) }

/-- A pass of one request, its last and one before. -/
theorem witness_passes :
    [1, 2].all (fun n => [true, false].all (fun sp => let r := passReq0 sp n
      let s := (engState { mma := 1 } none id).setCluster 0 { (engState { mma := 1 } none id).cluster 0 with reqs := [r] }
      let es := eligibleReqs s [] (s.cluster 0).reqs
      decide (chosenReq s es = some r) && (s.cluster 0).placing.isEmpty && decide (r.q < 4) && (AMap.get? s.blocks r.handle).isSome &&
        (match readB s 0 r with | (s1, .ok _ none) => decide (fused s1 r es = [r]) | _ => false))) = true := by decide +kernel

/-- A copy to be performed, one that has been, and a matrix operation all of whose passes are done. -/
theorem witness_engine_ends :
    ([copyOp, { copyOp with done := true }, { copyOp with kind := .mat, cls := 1 }] : List EngOp).all (fun o =>
      let s := engState { cpy := 1, mma := 1 } (some o) id
      engFirst s 7 o && !s.engBusy 7 && s.ftWaits.isEmpty && s.evWaits.isEmpty && s.scrubQ.isEmpty && o.fail.isNone &&
        (match s.group? 0 0 with | some g => decide (o.owner = .group 0 0 g.gates.length) | none => false) &&
        (o.done || (decide (o.kind = .mat) && matDone s 7) ||
          (decide (o.kind = .copy) && engMay s 7 o && !o.sent && !o.cancelled &&
            (match judgeMoves o (copyMoves o.block) (match o.activity with | some a => s.act a | none => s) with
              | (t, [([.dev a n], [.dev b m], _)]) => decide (a = 131072 ∧ b = 262144 ∧ n = m ∧ n = 64) &&
                  (List.range n).all (fun i => (t.eccUnit (a + i) 1 false).isNone && (t.eccUnit (b + i) 1 true).isNone)
              | _ => false)))) = true := by decide +kernel

/-- A packet: its block's address, TYPE, FLAGS and COUNT. -/
def packet (va type flags count : Nat) : List Byte := toBytes va 8 ++ toBytes type 1 ++ toBytes flags 1 ++ toBytes count 1 ++ [0] ++ toBytes 9 4
/-- Ring 0 of partition 0, in its turn, at 0x20000, where the bytes stand, about to fetch packet 0. -/
def ringMem (bs : List Byte) : State :=
  let s := turnOfPart0 {} []
  let s := mapped ((((s.setRingReg 0 0 0x20000).setRingReg 0 2 0x24).setRingReg 0 3 1).setRingReg 0 4 0)
  { s with mem := memPut s.mem (3 * 65536) bs, sys := { s.sys with gt := 300000 } }
/-- A command of ring 0. -/
def cmd0 (type : Nat) (block : List Byte) : Cmd := { ring := 0, index := 0, type, serial := true, tag := 9, cbva := 0x20040, block, subs := [] }
/-- Ring 0 with one command. -/
def cmdState (c : Cmd) : State := { ringMem [] with cmds := [(3, c)], nextCmd := 4 }

/-- Packets that are fetched, of no command, of one and of an INDIRECT, and one whose TYPE is bad. -/
theorem witness_fetches :
    ([(packet 0 0 0 0, some 0, 0), (packet 0x20040 4 1 0 ++ List.replicate 48 0, some 4, 1), (packet 0x20040 8 0 2 ++ List.replicate 48 0, some 8, 0)] :
      List (List Byte × Option Nat × Nat)).all (fun x => let s := ringMem x.1
      mayFetch s 0 && (s.ring 0).packets.isEmpty && decide (headType s 0 = x.2.1) &&
        (match readPacket 0 5 s (packetAddr s 0 (s.ring 0).fetch) with | (_, .ok cs) => decide (cs.length = x.2.2) && cs.all (fun c => !c.retired) | _ => false)) = true ∧
    (let s := ringMem (packet 0 9 0 0)
     mayFetch s 0 && (match readPacket 0 5 s (packetAddr s 0 (s.ring 0).fetch) with | (_, .error (.fail _ _ _ _ _)) => true | _ => false)) = true := by decide +kernel

/-- A command to be posted, a ticket to be started or posted anew, and commands whose parts start. -/
theorem witness_tickets :
    (let c := cmd0 4 []
     mayCommandStart (cmdState c) 3 c && ticketRoom (cmdState c) && c.ticket.isNone && !c.retired) = true ∧
    (let x : Ticket := { cmd := 3, posted := 37856 }
     let s := { cmdState { cmd0 4 [] with ticket := some 5 } with tickets := [(5, x)], nextTicket := 6 }
     decide (x.posted + 262144 ≤ s.gt) && ticketRoom s && decide (5 < s.nextTicket) && !x.started && !x.reposted) = true ∧
    [1, 2, 3].all (fun n => (readyCmd (cmdState { cmd0 n [] with started := true, subs := [{ kind := 1, dom := 0, block := [], record := [] }, { kind := 3, dom := 15, block := [], record := [] }] }) 3 n).isSome) =
      true := by decide +kernel

/-- The work list at page 1 of the operator's domain, with CLAIMED and SEQ of ticket 5, an agent on core 0, and a claim of it or none. -/
def claimState (claimed seq : Nat) (claims : List (Nat × Nat)) (x : Ticket) : State :=
  let s := opMapped { cmdState { cmd0 4 [] with ticket := some 5 } with tickets := [(5, x)], blocks := [(2 ^ 32, { owner := .agent 0 })], claims }
  let s : State := { s with sys := { s.sys with regs := (0x5700, 0x10000) :: (0x5701, 0) :: s.sys.regs } }
  { s with mem := memPut (memPut s.mem (6 * 65536 + 8) (toBytes claimed 8)) (6 * 65536 + 64 + 160) (toBytes seq 8) }

/-- A ticket that an agent claims, and one that is not its turn; no agent, and one that waits; a claim whose SEQ is there, in time and after
it was posted anew, and one whose SEQ is not; and a claim of an agent that runs no more. -/
theorem witness_claims :
    (cmdState (cmd0 4 [])).idleAgents = [] ∧ (claimState 5 6 [(0, 4)] { cmd := 3, posted := 0 }).idleAgents = [] ∧
    ([(5, 6), (4, 6)] : List (Nat × Nat)).all (fun n =>
      let s := claimState n.1 n.2 [] { cmd := 3, posted := 0 }
      !s.idleAgents.isEmpty && (match vread s 0x400 (s.reg64 0 0x5700 + 8) 8 with
        | (sa, .ok q) => decide (ofBytes q = n.1) && decide ((s.idleAgents[(sa.choose s.idleAgents.length).2]?).isSome)
        | _ => false)) = true ∧
    ([(6, false), (6, true), (5, false)] : List (Nat × Bool)).all (fun n =>
      let s := claimState 6 n.1 [(0, 5)] { cmd := 3, posted := 0, reposted := n.2 }
      decide (s.claims.find? (fun x => decide (x.2 = 5)) = some (0, 5)) && s.agentRuns 0 && (AMap.get? s.tickets 5).isSome &&
        (AMap.get? s.cmds 3).isSome &&
        (match vread s 0x400 (s.reg64 0 0x5700 + BitVec.ofNat 64 (64 + 32 * (5 % 2044))) 8 with
          | (_, .ok q) => decide (ofBytes q = n.1)
          | _ => false)) = true ∧
    ({ claimState 6 6 [(0, 5)] { cmd := 3, posted := 0 } with blocks := [] } : State).agentRuns 0 = false := by decide +kernel

/-- Commands that signal and retire: with no pair, and with one in memory, on a page of the host, on none, and on a page that is cold. -/
theorem witness_signals :
    ([(0, 0), (0x10000, 0), (0x30000, 1), (0x60000, 2), (0x10000, 3)] : List (Nat × Nat)).all (fun x =>
      let state (c : Cmd) : State := let s := cmdState c; if x.2 = 3 then { s with loc := [(2, .cold 0)] } else s
      let posts (c : Cmd) : Bool := x.1 == 0 ||
        match vpost (state c) (cmdSig c).1 (.sig 0 3) (cmdSig c).2.1 (cmdSig c).2.2 with
        | (s1, none) => decide (x.2 ≤ 1) && (s1.remotes.any (fun q => decide (q.2.hw = some (.sig 0 3))) == decide (x.2 = 1))
        | (_, some (cls, _, _)) => decide (2 ≤ x.2) && (decide (cls = clsMSP) == decide (x.2 = 3))
      (let c : Cmd := { cmd0 4 (toBytes x.1 8 ++ toBytes 5 8) with started := true }
       (readyCmd (state c) 3 4).isSome && (earlier (state c) 3 c).isEmpty && decide ((cmdSig c).2.1 = BitVec.ofNat 64 x.1) && !c.signalled &&
         c.page.isNone && posts c) &&
      [1, 2].all (fun n => let c : Cmd := { cmd0 n (toBytes 0 8 ++ toBytes x.1 8 ++ toBytes 5 8) with started := true, begun := true }
        cmdComplete (state c) 3 c && decide ((cmdSig c).2.1 = BitVec.ofNat 64 x.1) && posts c)) = true := by decide +kernel

/-- A WAIT whose value is reached and one whose value is not, first read and read again; CHECKPOINT; QCONFIG at both ends of LOGN. -/
theorem witness_ring_ends :
    [0, 1].all (fun n => [true, false].all (fun first => [true, false].all (fun begins => let c : Cmd := { cmd0 5 (toBytes 0x10000 8 ++ toBytes n 8) with started := true, begun := !first }
      let s : State := { cmdState c with fetched := if begins then [] else [(waitReader 0, 5, [])] }
      let s0 : State := if begins then { s with cmds := AMap.modify s.cmds 3 (fun c => { c with reread := false }) } else s
      decide ((!s.remotes.any (fun x => decide (x.2.hw = some (.fetch (waitReader 0)))) && !s.fetched.any (fun x => decide (x.1 = waitReader 0))) = begins) &&
        decide ((fieldA c.block 0).toNat % 8 = 0) && (if first then (readyCmd s 3 5).isSome && (s.ring 0).stuck.isNone else (s.ring 0).missing.isEmpty) &&
        (match fetchVia (waitReader 0) (ringAsid 0) 2 s0 (fieldA c.block 0) 8 with | (_, .ok bs) => decide (fieldOf c.block 8 8 ≤ ofBytes bs ↔ n = 0) | _ => false)))) = true ∧
    ((readyCmd (cmdState { cmd0 6 (toBytes 0x10000 8 ++ toBytes 0x20000 8) with started := true }) 3 6).isSome && decide (ringPart 0 = some 0)) = true ∧
    ([[1, 4, 1], [15, 16, 0]] : List (List Byte)).all (fun b => let c : Cmd := { cmd0 7 b with started := true }
      let s := cmdState c
      let q := fieldOf c.block 0 1
      (readyCmd s 3 7).isSome && s.ringIn q && !s.ringEn q && decide (q < 16 ∧ 4 ≤ fieldOf c.block 1 1 ∧ fieldOf c.block 1 1 ≤ 16 ∧ fieldOf c.block 2 1 ≤ 1)) =
        true := by decide +kernel

/-! ### The host, peers, collectives and errors -/

/-- Context 0 with one access on its way. -/
def remState (r : Remote) (gt : Nat) : State :=
  let s := at_ 0 id id
  { s with remotes := [(4, r)], sys := { s.sys with gt }, fresh := 9, host := { s.host with ats := [(7, { pasid := 9, page := 6 })] } }

/-- Accesses of a lane, of a whole word, of a store and of a cache line, late and in time, with a group to tell. -/
theorem witness_answers :
    ([rem0, { rem0 with uniform := true }, { rem0 with kind := .store, dst := none }, { rem0 with fill := some 0, dst := none, w := 64 }] : List Remote).all (fun r =>
      let s := remState r 6
      !r.xlat && r.hw.isNone && r.eng.isNone && decide (AMap.get? s.remotes 4 = some r ∧ r.due < s.gt) && (s.group? r.handle r.gi).isSome) = true ∧
    ¬ rem0.due < (remState rem0 5).gt := by decide +kernel

/-- Page 1 of partition 0 is frame 2, which peers may reach or may not. -/
def expState (exp : Bool) : State := mappedIn 65537 (if exp then 0x1010 else 0x10) State.reset

/-- An access of a peer to 8 bytes of that page, on port 3. -/
def inb (k : AccKind) (part dom : Nat) : Inbound :=
  { part, dom, va := 0x10000, kind := k, bytes := 8, data := if k = .store then List.replicate 8 7 else [], aop := 0, aty := 0, port := 3 }

/-- The low word of a counter of 64 bits is listed, the high word is not. -/
def countUp (s : State) (n u : Nat) : State :=
  { s with sys := { s.sys with regs := SMap.erase (SMap.insert s.sys.regs (65536 * 0 + n) (BitVec.ofNat 32 u)) (65536 * 0 + (n + 1)) } }

/-- A counter of 64 bits that stands at 0 counts up. -/
theorem addReg64_zero {s : State} {n u : Nat} (h : s.reg64 0 n = 0) (d : regDefault (65536 * 0 + n) = 0) (d1 : regDefault (65536 * 0 + (n + 1)) = 0)
    (h0 : 0 < u) (h1 : u < 2 ^ 32) :
    s.addReg64 0 n u = countUp s n u := by
  have hl : lo32 ((0 : W64) + BitVec.ofNat 64 u) = BitVec.ofNat 32 u := by
    apply BitVec.eq_of_toNat_eq; simp [lo32]
  have hh : hi32 ((0 : W64) + BitVec.ofNat 64 u) = 0 := by
    apply BitVec.eq_of_toNat_eq; simp [hi32]; omega
  have hn : BitVec.ofNat 32 u ≠ 0 := by
    intro e; have := congrArg BitVec.toNat e; simp at this; omega
  simp only [State.addReg64, h, State.setReg64, State.setReg, Sys.setReg, SMap.set, hl, hh, d, d1, if_true, if_neg hn, countUp]

/-- A state in which page 1 is exportable or not, present or not. -/
def inboundState (e cold : Bool) : State := { expState e with loc := if cold then [(2, .cold 0)] else [], clock := { phase := .open_ } }

/-- The state once the port has counted a message of at most 64 bytes. -/
def counted (e cold : Bool) : State :=
  let u := (inboundState e cold).units 8
  countUp (countUp (inboundState e cold).tick (0x5802 + 4 * 3) u) (0x7000 + 32 * 0 + 8) u

/-- Accesses of peers that are performed, that the page refuses, and that meet a missing page. -/
theorem witness_inbound_judged : ([AccKind.load, .store] : List AccKind).all (fun k => [true, false].all (fun e => [true, false].all (fun cold =>
    let x := inb k 0 0
    match judge (counted e cold) none (16 * x.part + x.dom) (inboundAcc x) x.va x.bytes with
    | (s1, .mem pa _ _ _ f _) => !cold && decide (f = e) && decide (ftKind (s1.ftEntry (pa / 65536)) = 1) &&
        (s1.eccUnit pa x.bytes (decide (x.kind = .store))).isNone && decide (x.kind = .store → x.data.length = x.bytes)
    | (_, .missing _ _ _) => cold
    | _ => false))) = true := by decide +kernel

/-- That is the state in which the machine judges them. -/
theorem witness_inbound_counted (e cold : Bool) (n : Nat) (hn : n ≤ 64) : (inboundState e cold).fabTake (some 0) 3 n = counted e cold := by
  have hu : (inboundState e cold).units n = (inboundState e cold).units 8 := by simp only [State.units, cdiv]; omega
  have h0 : 0 < (inboundState e cold).units 8 := by simp only [State.units]; omega
  have h1 : (inboundState e cold).units 8 < 2 ^ 32 := by simp only [State.units, cdiv]; omega
  have d (k : Nat) (hk : k ∈ [0x580E, 0x580F, 0x7008, 0x7009]) : regDefault k = 0 := by revert k; decide
  simp only [State.fabTake, State.flits, hu]
  rw [addReg64_zero (s := (inboundState e cold).tick) (by cases e <;> cases cold <;> decide +kernel) (d _ (by decide)) (d _ (by decide)) h0 h1,
    addReg64_zero (s := countUp (inboundState e cold).tick _ _) (by cases e <;> cases cold <;> decide +kernel) (d _ (by decide)) (d _ (by decide)) h0 h1,
    counted]

/-- Accesses of peers that the partition refuses, that wait behind another of their port, and that come in a slot. -/
theorem witness_inbound : ¬ (inb .load 64 0).part < Config.partitions ∧ 16 ≤ (inb .load 0 16).dom ∧ State.reset.clock.phase ≠ .open_ ∧
    (({ State.reset with inbound := [(inb .store 0 0, none)] } : State).inbound.find? (fun y => decide (y.1.port = 3))) = some (inb .store 0 0, none) := by
  decide +kernel

/-- The first access that waits at its port, which is performed once the phase is open and its page there. -/
theorem witness_inbound_head :
    (let s : State := { inboundState true false with inbound := [(inb .load 0 0, none)] }
     decide (s.inbound.find? (fun y => decide (y.1.port = 3)) = some (inb .load 0 0, none) ∧ s.clock.phase = .open_) &&
     (match judge s none 0 (inboundAcc (inb .load 0 0)) 0x10000 8 with
      | (s1, .mem pa _ _ _ f _) => f && decide (ftKind (s1.ftEntry (pa / 65536)) = 1) && (s1.eccUnit pa 8 false).isNone
      | _ => false)) = true ∧
    inb .store 0 0 ≠ inb .load 0 0 ∧ (some (PageKey.frame 9) ≠ none) ∧
    [true, false].all (fun e => match judge (counted e true) none 0 (inboundAcc (inb .load 0 0)) 0x10000 8 with
      | (s1, .missing _ tb _) => !tb && (inboundLeaf s1 (inb .load 0 0) == e)
      | _ => false) = true := by decide +kernel

/-- A translation that one access of a group awaits; one that is stale; a page that is barred or asked for. -/
theorem witness_translations :
    (let s := remState { rem0 with xlat := true } 5
     decide (s.awaiting 9 6 = [(4, { rem0 with xlat := true })] ∧ 4 < s.fresh ∧ AMap.get? s.host.ats 7 = some { pasid := 9, page := 6 }) &&
       decide (9 ∉ s.host.priBarred ∧ (9, 6) ∉ s.host.pri) && (match AMap.get? s.blocks 0 with | some b => b.groups[0]?.isSome | none => false)) = true ∧
    (let s : State := { State.reset with host := { pri := [(9, 6)], inv := [{ pasid := 9, page := 6, uses := [] }] } }
     decide ((9, 6) ∈ s.host.pri ∧ (9, 7) ∉ s.host.pri ∧ { pasid := 9, page := 6, uses := [] } ∈ s.host.inv)) = true ∧
    (∀ v ∈ State.reset.host.inv, v.pasid = 9 → v.page = 6 → v.uses ≠ []) := by decide +kernel

/-- Functions with a message held by a mask, with one that no mask holds, and with none. -/
theorem witness_messages :
    [Fn.pf0, .pf1, .vf 1, .vf 64].all (fun fn =>
      let with_ (m : Msix) : State := { State.reset with host := { msix := [(Fn.num fn, m)] } }
      Fn.present fn && !(State.reset.msixOf (Fn.num fn)).pending && (State.reset.msixOf (Fn.num fn)).masked &&
      ((with_ { masked := false, pending := true }).msixOf (Fn.num fn)).pending && !((with_ { masked := false, pending := true }).msixOf (Fn.num fn)).masked &&
      !((with_ { masked := false, pending := true }).msixOf (Fn.num fn)).fnMasked) = true := by decide +kernel

/-- A job of two members, of ranks 0 and 1 of modules 7 and 8, with its member array. -/
def jobDesc (op root : Nat) : List Byte :=
  toBytes op 1 ++ [0, 4, 0] ++ toBytes 9 4 ++ toBytes 0x10000 8 ++ toBytes 0x10000 8 ++ toBytes 64 4 ++ toBytes 32 4 ++ toBytes 2 2 ++ toBytes 0 2 ++ toBytes root 4 ++
    toBytes 0x9000 8 ++ toBytes 0x40000 8 ++ List.replicate 8 0 ++ toBytes 7 4 ++ [0, 0, 0, 0] ++ toBytes 8 4 ++ [0, 0, 0, 0]
/-- Its operation, submitted by a group of partition 0. -/
def collOp (op root : Nat) : EngOp := { copyOp with cls := 3, kind := .coll 9, block := jobDesc op root }
/-- A state with that job, as said. -/
def collState (o : EngOp) (j : Job) : State := { engState { col := 1 } (some o) id with jobs := [(9, j)] }
/-- A member's record, with its ports. -/
def recordOf (o : EngOp) (rank : Nat) (ports : List PortRec) : JobRecord := { ownRecord (collState o {}) o [] with rank, ports }

/-- A record that has been seen, one in a slot, and one of a job without a descriptor, of an earlier, the present and a later tree set. -/
theorem witness_records :
    (let o := collOp 0 0
     let r := recordOf o 1 []
     let s : State := { State.reset with jobs := [(9, { seen := [r], round := 1 })] }
     r ∈ (AMap.getD s.jobs 9 {}).seen ∧ { r with round := 1 } ∉ (AMap.getD s.jobs 9 {}).seen ∧ s.clock.phase ≠ .open_ ∧
     (AMap.getD s.jobs 9 {}).op = none ∧ (collState o {}).clock.phase = .open_ ∧ (AMap.getD State.reset.jobs 9 {}).op = none) := by decide +kernel

/-- The last record of a job, with a tree and without one, where marks are missing and where none are, after a job of the same JOBID that is over
or not; and one that disagrees. -/
theorem witness_last_records :
    (let o := collOp 0 0
     let r0 := recordOf o 0 [{ port := 3, pmod := 8, pport := 5 }]
     let r1 := recordOf o 1 [{ port := 5, pmod := 7, pport := 3 }]
     ([(r1, []), ({ r1 with ports := [] }, []), ({ r1 with marks := [0, 1] }, [0, 1])] : List (JobRecord × List Nat)).all (fun x =>
       let r := x.1
       let s := collState o { op := some 7, records := [{ r0 with marks := x.2 }], marks := x.2 }
       let j : Job := { jobFor (AMap.getD s.jobs 9 {}) r with since := s.gt }
       let recs := j.records.filter (fun y => decide (y.rank ≠ r.rank)) ++ [r]
       let trees := buildTrees (jobNmem o.block) 64 (edgesOf (memberMod o.block) (jobNmem o.block) recs)
       let j' := { j with
         records := recs, seen := r :: j.seen, started := true
         trees := trees.map (fun (y : List Edge) => y.map (fun (e : Edge) => (e.u, e.v))), ports := portsOf (jobRank o.block) trees }
       decide (r ∉ j.seen ∧ s.clock.phase = .open_ ∧ j.op = some 7 ∧ AMap.get? s.ops 7 = some o ∧ j.started = false ∧ r.round = j.round ∧ j.early = []) &&
         recs.all (fun y => decide (sharedFields y = sharedFields (ownRecord s o []))) && decide (jobNmem o.block ≤ recs.length) &&
         decide (trees = [] ↔ r.ports = []) && (j'.complete o.block == !x.2.isEmpty))) = true ∧
    (let o := collOp 0 0
     let r : JobRecord := { recordOf o 1 [] with count := 65 }
     let s := collState o { op := some 7, seen := [recordOf o 1 []] }
     o.fail = none ∧ sharedFields r ≠ sharedFields (ownRecord s o []) ∧ s.clock.phase = .open_ ∧
       recordOf o 1 [] ∈ ({ jobFor (AMap.getD s.jobs 9 {}) (recordOf o 1 []) with since := s.gt } : Job).seen) := by decide +kernel

/-- A broadcast job of rank 0 from rank 1, started, as said. -/
def castJob (writing marks sent : List Nat) : Job :=
  let o := collOp 3 1
  { op := some 7, started := true, trees := [[(0, 1)]], records := [recordOf o 1 []], writing, marks, sent }

/-- A state with that job, in a phase. -/
def castState (j : Job) (phase : Phase) : State :=
  let s := collState (collOp 3 1) j
  { s with clock := { s.clock with phase } }

/-- Chunks of no number, of a write under way, in a slot and outside, and of one that is done, the last of the job and one before. -/
theorem witness_marks :
    let o := collOp 3 1
    (decide (jobAll o.block ≤ 2 ∧ dstChunk o.block (jobRank o.block) 2 = some 2 ∧ 2 ∉ (castJob [] [] []).writing)) = true ∧
    (dstChunk o.block (jobRank o.block) 0 = some 0 ∧ 0 ∈ (castJob [0] [] []).writing ∧ engMay (castState (castJob [0] [] []) .slot) 7 o = false) ∧
    ([[], [1]] : List (List Nat)).all (fun m => let j := castJob [0] m []
      let s := castState j .open_
      !s.engBusy 7 && engMay s 7 o && o.fail.isNone && (match (setMark (s.act .collective) 7 o 0).2 with | .dev _ n => decide (n = 8) | _ => false) &&
        ({ j with marks := 0 :: j.marks, writing := [] }.complete o.block == !m.isEmpty)) = true := by decide +kernel

/-- A chunk that comes from another member, to be written and marked: the last of the job and one before; one that has come before; and one
that has been passed on before. -/
theorem witness_chunks :
    let o := collOp 3 1
    let bs := o.block
    ([[], [0]] : List (List Nat)).all (fun passed => ([[], [1]] : List (List Nat)).all (fun m =>
      ([[(1, List.replicate 32 5)], []] : List (List (Nat × List W32))).all (fun contrib =>
      let j : Job := { castJob [] m [] with passed, bufs := if contrib.isEmpty then [(0, 1, List.replicate 32 5)] else [] }
      let b := bufferChunk (castState j .open_) o j 0 contrib
      let s0 : State := { b.1 with jobs := AMap.put b.1.jobs 9 b.2 }
      let s1 := s0.act .collective
      decide (0 ∉ j.writing ∧ 0 ∉ j.marks ∧ 0 < jobAll bs) && j.started && engMay s0 7 o && !b.2.needsOwn bs 0 && (b.2.outward bs 0).isNone &&
        match b.2.value bs 0 with
        | some x =>
          let sp := if 0 ∈ b.2.passed then { s1 with jobs := AMap.put s1.jobs 9 b.2 }
            else sendChunk { s1 with jobs := AMap.put s1.jobs 9 b.2 } 9 o b.2 0 (b.2.onward bs 0) x
          let j0 : Job := if 0 ∈ b.2.passed then b.2 else { b.2 with passed := 0 :: b.2.passed }
          (match judgeSide { sp with jobs := AMap.put sp.jobs 9 j0 } o .blockStore (false, chunkAddr bs 16 (0 / jobCb bs) (0 % jobCb bs)) (4 * x.length) with
          | (s2, [.dev pa n]) =>
            let s3 := writePieces 7 o [.dev pa n] ((x.flatMap (fun w => toBytes w.toNat 4)).map some) s2
            let j1 := { j0.dropBufs 0 with writing := 0 :: j0.writing }
            let s4 : State := { s3 with jobs := AMap.put s3.jobs 9 j1 }
            !s4.engBusy 7 && (match (setMark s4 7 o 0).2 with | .dev _ n => decide (n = 8) | _ => false) &&
              ({ j1 with marks := 0 :: j1.marks, writing := j1.writing.filter (fun y => decide (y ≠ 0)) }.complete bs == !m.isEmpty)
          | _ => false)
        | none => false))) = true := by decide +kernel

/-- A job that has stalled, one that has not, and one that is over here. -/
theorem witness_stalls :
    (let s := collState (collOp 0 0) { op := some 7 }
     decide (s.gt < 0 + 1024 * 4096) && decide (({ s with sys := { s.sys with gt := 1024 * 4096 } } : State).gt = 1024 * 4096)) = true ∧
    ({ castJob [] [] [] with finished := true } : Job).finished = true := by decide +kernel

/-- A port with a link, the last one of a follower, that a job uses, and one without a link; CXL ports in each state, whose expander is the
first one or has been gone. -/
theorem witness_links :
    State.reset.linkState 127 ≠ 2 ∧
    (let s := (collState (collOp 3 1) { castJob [] [] [] with ports := [(0, 1, 127)] })
     let s : State := { s with sys := { s.sys with regs := [(0x5080, 7), (0x5200 + 2 * 127, 2), (0x5201 + 2 * 127, 8)] } }
     s.linkState 127 = 2 ∧ s.regF 0 0x5050 0 1 = 0 ∧ (∀ q ∈ s.livePorts, q = 127) ∧ (AMap.get? s.jobs 9).map (fun j => j.uses 127) = some true) ∧
    (let o := collOp 0 0
     ({ op := some 7, desc := some o, records := [recordOf o 0 [{ port := 3, pmod := 8, pport := 5 }]] } : Job).uses 3 = true) ∧
    ([1, 2] : List W32).all (fun n => decide (({ State.reset with sys := { regs := [(0x50B7, n)] } } : State).regF 0 (0x50B0 + 7) 0 2 = n.toNat)) = true ∧
    (7 ∉ State.reset.cxlGone ∧ 7 ∈ ({ State.reset with cxlGone := [7] } : State).cxlGone) := by
  decide +kernel

/-- A launch's group struck by an error, a transfer of no group in the crossbar with it, operations of a submission queue, and a frame behind
a CXL port. -/
theorem witness_errors :
    (let r : Remote := { rem0 with handle := noHandle, hw := some .post }
     let x : BlastSet := { groups := [(3, 0, 1)], parts := [0], oper := false }
     let s : State := { State.reset with
       blocks := [(3, { owner := .launch (some 0), groups := [{ longRun := true, inRun := true }], place := .core 0 })], ops := [(7, copyOp)], remotes := [(4, r)]
       loc := [(2, .cxl 5)] }
     (s.group? 3 0).isSome && inCrossbar s (3, 0, 1) && decide ((queueOps s 5 0).length + (queueOps s 4 0).length + (queueOps s 6 0).length = 1) &&
       inBlast x r && decide (locPort (s.locOf (2 * 512 / 512)) = some 5)) = true := by decide +kernel

/-! ### Turns, checkpoints and the whole machine -/

/-- Rotation 15, of partitions 3 and 63, with partition 3 in its turn, or no turn in progress; each has a ring with a packet to fetch, or none. -/
def turnState_ (holder : Option Nat) (st : Nat) (deficit : W32) (w3 w63 : Bool) (gt : Nat) : State :=
  let s : State := { sys := { gt := gt, regs := [(0x5B78, 1)] }, rots := [(15, { cl := [0], members := [3, 63], holder, drainAt := some 0, forcedAt := some 0 })] }
  let work (p : Nat) (w : Bool) (s : State) : State := if w then ((s.setRingReg (16 * p) 2 0x24).setRingReg (16 * p) 3 1) else s
  work 63 w63 (work 3 w3 (((s.setTurnState 3 st).setReg 3 0x6036 deficit).setReg 63 0x6030 1))

/-- The same with `rotsel` naming the rotation for both. -/
def turnState1_ (holder : Option Nat) (st : Nat) (deficit : W32) (w3 w63 : Bool) (gt : Nat) : State :=
  let s := ((turnState_ holder st deficit w3 w63 gt).setReg 3 0x6034 0x1F).setReg 63 0x6034 0x1F
  (s.setReg 0 0x5B78 0).setRot 15 { s.rot 15 with cl := [] }

/-- A launch of partition 3 of two stages, whose QTAB lies on a page of the host's. -/
def stagesAway : Launch := { part := some 3, asid := 0x400, stages := 2, qtab := 0x4000000 }

/-- A free rotation with one member that has work, and one whose turn is over, whose queues are known or still fetched. -/
theorem witness_grants :
    (let s := turnState_ none 0 0 true false 0
     decide ((s.rot 15).holder = none ∧ (s.rot 15).resume = none ∧ (s.rot 15).members.filter s.hasWork = [3]) && decide (0 < s.quantum 3)) = true ∧
    [2, 3].all (fun st => let s := turnState_ (some 3) st 0 true true 0
      decide ((s.rot 15).holder = some 3 ∧ 2 ≤ s.turnState 3) && (s.residentOf 3).isEmpty && (readQueues s 3).2 &&
        (let s : State := { opMapped s with launches := [(5, stagesAway)] }
         decide ((s.rot 15).holder = some 3 ∧ 2 ≤ s.turnState 3) && (s.residentOf 3).isEmpty && !(readQueues s 3).2)) = true := by decide +kernel

/-- Turns with no work, with a deficit left, and with none, with and without another member's work. -/
theorem witness_quanta :
    ((turnState_ (some 3) 1 5 false true 0).hasWork 3 = false ∧ (turnState_ (some 3) 1 5 false true 0).turnState 3 = 1) ∧
    (let s := turnState_ (some 3) 1 5 true true 0
     decide (s.turnState 3 = 1) && s.hasWork 3 && decide (0 < s.deficit 3)) = true ∧
    [true, false].all (fun w => let s := turnState1_ (some 3) 1 0 true w 0
      decide ((s.rot 15).holder = some 3 ∧ s.turnState 3 = 1 ∧ s.deficit 3 ≤ 0) && s.hasWork 3 && !s.rotPending 15 &&
        decide ((s.rot 15).members.any (fun m => decide (m ≠ 3) && s.hasWork m) = w)) = true := by decide +kernel

/-- A drain of 65,536 ticks with a context on a core that goes on, and forced sealing as long. -/
theorem witness_drains :
    [2, 3].all (fun st => let s : State := { turnState_ (some 3) st 0 true true 65536 with blocks := [(7, { owner := .launch (some 3), groups := [{}], place := .core 0 })] }
      decide (s.rotHeld 3 = some 15 ∧ s.turnState 3 = st ∧ (s.rot 15).drainAt = some 0 ∧ 0 + 65536 ≤ s.gt ∧ drainStep s 3 = s ∧ (s.rot 15).forcedAt = some 0) &&
        decide (s.residentOf 3 ≠ []) && !(s.rot 15).overdue) = true := by decide +kernel

/-- Partition 0 in its turn with a checkpoint whose image goes to host pages of the operator's. -/
def ckptState (c : Ckpt) : State :=
  let s := opMapped (turnOfPart0 {} [])
  { s with clock := { s.clock with phase := .open_ }, launches := [], parts := [(0, { ckpt := some c })] }
/-- A checkpoint at 0x4000000. -/
def ckpt0 : Ckpt := { dest := 0x4000000, root := 0x4100000, asid := 0x400, period := 0 }
/-- An image of frame 4 being streamed. -/
def stream0 : Stream := { cut := 5, root := 0x4100000, asid := 0x400, base := 0x4000000, frames := [4], copied := [], husks := [] }

/-- ROOT at page 1 of the operator's domain names an address; a manifest of no frames and no husks stands at 0x10100. -/
def rootState (c : Ckpt) (at_ : Nat) (alt : W64) : State :=
  let s := (ckptState c).setReg64 0 0x6096 alt
  { s with mem := memPut (memPut s.mem (6 * 65536) (toBytes at_ 8)) (6 * 65536 + 0x100) (toBytes 1 4) }

/-- What ROOT names, once it is read. -/
def rootRead (s : State) (c : Ckpt) : Option (State × Option Entries) :=
  match readEntries s (cutReader 0) c (fun hd => decide (fieldOf hd 0 4 = 1)) with
  | (_, .error .wait) => none
  | (s0, .ok e) => some (s0, some e)
  | (s0, .error _) => some (s0, none)

/-- Which of the places that an image may go to lie in the image that ROOT names. -/
def cutInto (s : State) (c : Ckpt) (cur : Option Entries) : List Bool :=
  (imageBases s 0 c).map (fun b => intoCurrent cur b (imageLen (markedFrames s 0 c b ((cutHusks s 0 s.gt).map Husk.total)).length ((cutHusks s 0 s.gt).map Husk.total)))

/-- A checkpoint that falls due, by its period too while another is due, and with its steps; one whose cut begins, waits for ROOT, and is
taken: into DEST, where ROOT names no image, into `ckpalt`, where DEST lies in the image ROOT names, and the other way round, and into neither. -/
theorem witness_cuts :
    ((ckptState { ckpt0 with nextDue := some 0 }).part 0).ckpt = some { ckpt0 with nextDue := some 0 } ∧ ckpt0.due = false ∧ ckpt0.stream = none ∧
    0 ≤ (ckptState ckpt0).gt ∧
    (let c := { ckpt0 with due := true, armed := true, steps := 2 }
     decide (c.armed = true ∧ ((ckptState c).setReg 0 0x6090 2).regF 0 0x6090 0 16 = 2 ∧ (ckptState c).regF 0 0x6090 0 16 = 0)) = true ∧
    (let c := { ckpt0 with due := true }
     let s := ckptState c
     c.due && c.stream.isNone && s.holds 0 && !c.cutting && cutMoment s 0) = true ∧
    (let c := { ckpt0 with due := true, cutting := true }
     c.cutting && cutQuiet (ckptState c) 0 && (rootRead (ckptState c) c).isNone) = true ∧
    ([(0, 0x4000000, 0, false, [false]), (0x10100, 0x10100, 0x4000000, false, [true, false]), (0x10100, 0x4000000, 0x10100, true, [true, false]),
      (0x10100, 0x10100, 0, true, [true])] : List (Nat × W64 × W64 × Bool × List Bool)).all (fun x =>
      let c := { ckpt0 with due := true, cutting := true, root := 0x10000, dest := x.2.1, alt := x.2.2.2.1 }
      let s := rootState c x.1 x.2.2.1
      c.stream.isNone && s.holds 0 && cutQuiet s 0 && (match rootRead s c with
        | some (s0, cur) =>
          let s1 := s0.fetchDone (cutReader 0)
          (cur.isNone == decide (x.1 = 0)) && decide (cutInto s1 c cur = x.2.2.2.2) && (!x.2.2.2.2.contains false ||
            (match writeHusks 0 c.asid s1.gt (cutHusks s1 0 s1.gt) s1 0x4000000
              (65536 * (markedFrames s1 0 c 0x4000000 ((cutHusks s1 0 s1.gt).map Husk.total)).length) with | (_, .ok _) => true | _ => false))
        | none => false)) = true := by
  decide +kernel

/-- A state in which frame 4 is to be copied. -/
def copyState : State := ckptState { ckpt0 with stream := some stream0 }

/-- A frame to copy, whose page no one waits for, while copy engines transfer, and a time when none does. -/
theorem witness_frame_copy : (∃ (c : Ckpt) (bs : List Byte) (s1 : State), (copyState.part 0).ckpt = some c ∧ c.stream = some stream0 ∧ 4 ∈ stream0.frames ∧
    (∀ x ∈ stream0.copied, x.1 ≠ 4) ∧ (∀ k, copyState.pageWaited k = false) ∧ copyState.mayStream 4 = true ∧
    copyState.physRead (physAddr 4 0) 65536 = .ok bs ∧
    writeLong (.image 0 5) stream0.asid 2 (copyState.act (streamEngine 4))
      (stream0.base + BitVec.ofNat 64 (65536 * (stream0.frames.takeWhile (fun x => decide (x ≠ 4))).length)) bs = (s1, none)) ∧
    ({ copyState with paused := [.copyEngine 4] } : State).mayStream 4 = false := by
  have hv : ∀ k, k < 1 → (copyState.act (streamEngine 4)).hostLeaf 0x400 (0x4000000 + BitVec.ofNat 64 (65536 * k)) = true := by decide +kernel
  obtain ⟨r, f, x, e⟩ := writeLong_onTheWay (s := copyState.act (streamEngine 4)) (a := 0x400) (by decide) (by decide) (by decide) (by decide) (.image 0 5)
    0x4000000 (by decide) 1 hv 2 0 (copyState.bytes (physAddr 4 0) 65536) copyState.remotes copyState.fresh copyState.host.ats
    (by simp only [State.bytes, List.length_map, List.length_range]; omega)
  have h : copyState.eccUnit (physAddr 4 0) 65536 false = none := by decide +kernel
  exact ⟨⟨{ ckpt0 with stream := some stream0 }, copyState.bytes (physAddr 4 0) 65536, (copyState.act (streamEngine 4)).onTheWay r f x, rfl, rfl, by decide,
    by decide, fun k => rfl, by decide +kernel, by rw [State.physRead, h], e⟩, by decide +kernel⟩

/-- An image of no frames in each stage of its commit, with a write of it on its way and with none. -/
theorem witness_commit :
    (let m := { stream0 with frames := [] }
     let at_ := m.base + BitVec.ofNat 64 (manifestOff m)
     let state (m : Stream) : State := ckptState { ckpt0 with stream := some m }
     let out (s : State) : State := (writeLong (.image 0 5) 0x400 2 s 0x4000000 [0]).1
     decide (stream0.copied.length < stream0.frames.length ∧ m.frames.length ≤ m.copied.length) && (out (state m)).imageOut 0 5 && !(state m).imageOut 0 5 &&
       (state m).mayStream m.frames.length && !m.manifest && !m.rooted &&
       (writeLong (.image 0 5) m.asid longFuel (state m) at_ (manifestBytes 0 ((state m).reg 0 0x6010) m)).2.isNone &&
       [true, false].all (fun here =>
         let m := { m with manifest := true, root := if here then 0x10000 else 0x4100000 }
         match writeLong (.image 0 5) m.asid longFuel (state m) m.root (toBytes at_.toNat 8) with
         | (s1, none) => s1.imageOut 0 5 != here
         | _ => false)) = true := by decide +kernel

/-- A word is fetched that names an instruction, one that stops others, and one that names none. -/
theorem witness_steps :
    ([(0x003E090A02004000#64, true), (0x029E000000000000#64, false)] : List (W64 × Bool)).all (fun x => let s := placeWord State.reset x.1
      match viewOf s 0 0 with
      | some v => decide (s.cursor = some (0, 0)) && (!v.g.inRun || v.g.word.isNone) && (match fetchWord (beforeFetch s v) v.core v.g.asid.toNat v.pc with
        | (_, .word w) => decide (w = x.1) && decide ((decode w).toOption.isSome = x.2)
        | _ => false) && (match judge (beforeFetch s v) (some v.core) v.g.asid.toNat .fetch v.pc 8 with | (t, .mem pa _ _ _ _ _) => (t.physRead pa 8).toOption.isSome | _ => false)
      | none => false) = true ∧
    ([Instr.seal hu (f3 0 8 10 0 0), .pmpt hu (f3 0 8 10 0 0)] : List Instr).all (fun i =>
      match encode i with | some w => decide ((decode w).toOption = some i) | none => false) = true := by decide +kernel

/-- A fetch fails, and a run goes on with the word it has fetched. -/
theorem witness_steps_fail_and_held :
    (let s := (placeWord State.reset 0).setFt 0 0
     match viewOf s 0 0 with
     | some v => (match fetchWord (beforeFetch s v) v.core v.g.asid.toNat v.pc with | (_, .fail _) => true | _ => false)
     | none => false) = true ∧
    (let s := placeWord State.reset 0
     let s := s.modGroup 0 0 (fun g => { g with inRun := true, word := some (g.slot0.pc, 0x003E090A02004000) })
     match viewOf s 0 0 with
     | some v => v.g.inRun && decide (v.g.word = some (v.pc, 0x003E090A02004000))
     | none => false) = true := by decide +kernel

/-- A group of the operator's whose words lie on a page of the host's. -/
def wordsAway (s : State) : State :=
  let s := opMapped (s.modGroup 0 0 (fun g => { g with asid := 0x400, auth := 1, slot0 := { g.slot0 with pc := 0x4000000 } }))
  { s with mem := memPut s.mem (5 * 65536 + 2 * 8192 + 8) (toBytes (0xB3 + 1024 * 65536) 8) }

/-- A word is waited for, and has come. -/
theorem witness_steps_away :
    (let s := wordsAway (placeWord State.reset 0)
     match viewOf s 0 0 with
     | some v => (match fetchWord (beforeFetch s v) v.core v.g.asid.toNat v.pc with
        | (t, .away _) => (t.kept (wordReader 0 0) 0x400 v.pc).isNone
        | _ => false) &&
       (let s := { s with fetched := [(wordReader 0 0, lineKey 0x400 v.pc, List.replicate 64 0)] }
        match viewOf s 0 0 with
        | some v => (match fetchWord (beforeFetch s v) v.core v.g.asid.toNat v.pc with
          | (t, .away _) => decide ((t.kept (wordReader v.handle v.gi) v.g.asid.toNat v.pc).map List.length = some 64)
          | _ => false)
        | none => false)
     | none => false) = true := by decide +kernel

/-- A ring enabled and rung while its partition is out has a command waiting; enabled alone it has none (R332, R434). -/
theorem test_queued_ring_work :
    (let ring (sh : Option W32) : State := { State.reset with rings := [(0, { queued := [(2, 36)], shadow := sh })] }
     (ring (some 1)).hasWork 0 && !(ring none).hasWork 0) = true := by decide +kernel

/-- A word whose line has failed, and one of the host's while its link is down. -/
theorem witness_steps_away_failed :
    (let s := wordsAway (placeWord State.reset 0)
     let at_ (s : State) (f : State → View → Tr → Bool) : Bool := match viewOf s 0 0 with
       | some v => (match fetchWord (beforeFetch s v) v.core v.g.asid.toNat v.pc with | (t, .away tr) => f t v tr | _ => false)
       | none => false
     at_ { s with fetched := [(wordReader 0 0, lineKey 0x400 0x4000000, [0x15])] }
       (fun t v _ => decide (t.kept (wordReader v.handle v.gi) v.g.asid.toNat v.pc = some [0x15])) &&
     at_ { s with host := { s.host with linkUp := false } }
       (fun t v tr => decide (t.kept (wordReader v.handle v.gi) v.g.asid.toNat v.pc = none ∧ tr.leafTier = 2 ∧ t.host.linkUp = false))) = true := by
  decide +kernel

/-- Instructions that are well formed and have a word, and a word that decodes. -/
theorem witness_encodings :
    ([Instr.nop hv (f3 0 0 0 0 0), .iadd hv (f3 9 10 2 0 0x4000), .yld hu (f3 0 0 0 0 0)] : List Instr).all (fun i => WellFormed i && (encode i).isSome) = true ∧
    (decode 0x003E090A02004000#64).toOption.isSome = true := by decide +kernel

/-- The tables are in canonical form at reset and with a word placed, and a step follows. -/
theorem witness_canonical : State.reset.canonical ∧ (placeWord State.reset 0x003E090A02004000#64).canonical ∧ (∃ t, step State.reset = .next t) ∧
    ∃ t, step (placeWord State.reset 0x003E090A02004000#64) = .next t := by
  refine ⟨by unfold State.canonical; decide, by unfold State.canonical; decide +kernel, ⟨_, rfl⟩, ?_⟩
  generalize h : step (placeWord State.reset 0x003E090A02004000#64) = o
  have : (match step (placeWord State.reset 0x003E090A02004000#64) with | .next _ => true | _ => false) = true := by decide +kernel
  rw [h] at this
  match o, this with
  | .next t, _ => exact ⟨t, rfl⟩

end Sys2Proof.Tests
end

section
/-! PROOFS. How the words of the integer class complete: one rule for each shape of word (R189–R191). -/

namespace Sys2Proof.Machine

@[simp] theorem lo32_zeroExtend (x : W32) : lo32 (x.zeroExtend 64) = x := by
  ext k hk
  simp [lo32, show k < 64 by omega, BitVec.getLsbD_eq_getElem hk]

@[simp] theorem lo32_srcN (v : View) (h : Head) (fs : Bool) (x : BitVec 8) (l : Nat) : lo32 (v.srcN h false fs x l) = v.src h fs x l :=
  lo32_zeroExtend _

theorem putN_false (u : Bool) (d l : Nat) (tag : BitVec 4) (x : W64) : putN u false d l tag x = putReg u d l tag (lo32 x) := rfl

variable {i : Instr} {h : Head} {s : State} {v0 v : View}

/-- A word that only changes register files completes with what its executions leave there. -/
theorem alu_ends {f : View → Nat → Regs → Regs} {P : Regs → Prop} (hi : Issues i h.s .all s v0 v) (he : exec i s = alu i h f s)
    (hP : P (v.forUnits h (f v))) : Ends i h s v0 v P :=
  ⟨_, he.trans (alu_of hi), hP⟩

/-- A word that writes a result of 32 or 64 bits in each execution. -/
theorem aluN_ends {w : Bool} {d : Nat} {x : View → Nat → W64} {y : Nat → W64} (hi : Issues i h.s .all s v0 v)
    (he : exec i s = alu i h (fun v l => putN h.u w d l tagI32 (x v l)) s) (hx : ∀ l, x v l = y l) :
    Ends i h s v0 v (WroteN v h w d 0 y) := by
  obtain rfl : x v = y := funext hx
  exact alu_ends hi he (forUnits_wroteN v h w d tagI32 (x v))

/-- A word that writes a predicate in each execution. -/
theorem aluPrd_ends {k : Nat} {x : View → Nat → Bool} {y : Nat → Bool} (hi : Issues i h.s .all s v0 v)
    (he : exec i s = alu i h (fun v l => putPrd h.u k l (x v l)) s) (hx : ∀ l, x v l = y l) :
    Ends i h s v0 v (WrotePrd v h k y) := by
  obtain rfl : x v = y := funext hx
  exact alu_ends hi he (forUnits_wrotePrd v h k (x v))

/-- A word that writes a result of 32 bits in each execution. -/
theorem alu32_ends {d : Nat} {x : View → Nat → W32} {y : Nat → W32} (hi : Issues i h.s .all s v0 v)
    (he : exec i s = alu i h (fun v l => putN h.u false d l tagI32 ((x v l).zeroExtend 64)) s) (hx : ∀ l, x v l = y l) :
    Ends i h s v0 v (Wrote v h d 0 y) := by
  obtain rfl : x v = y := funext hx
  exact alu_ends hi he (forUnits_wroteN v h false d tagI32 _)

/-- A word of 32-bit sources and a 32-bit result. -/
theorem op32_ends {o : F3} {f : W32 → W32 → W32} {y : Nat → W32} (hi : Issues i h.s .all s v0 v) (he : exec i s = op32 i h o f s)
    (hy : ∀ l, f (v.src h (bit o.mod 13) o.sa l) (v.src h (bit o.mod 14) o.sb l) = y l) :
    Ends i h s v0 v (Wrote v h o.dst.toNat 0 y) := by
  refine alu32_ends (x := fun v l => f (v.src h (bit o.mod 13) o.sa l) (v.src h (bit o.mod 14) o.sb l)) hi ?_ hy
  simpa only [op32, intOp, lo32_srcN] using he

/-- A word of SA and IMM32. -/
theorem immOp_ends {o : FI} {f : W32 → W32 → W32} {y : Nat → W32} (hi : Issues i h.s .all s v0 v) (he : exec i s = immOp i h o f s)
    (hy : ∀ l, f (v.src h false o.sa l) o.imm = y l) : Ends i h s v0 v (Wrote v h o.dst.toNat 0 y) := by
  refine alu32_ends (x := fun v l => f (v.src h false o.sa l) o.imm) hi ?_ hy
  simpa only [immOp, putN_false, lo32_zeroExtend] using he

end Sys2Proof.Machine
end

section
/-! PROOFS. What the operations of R195 and R196 give, in numbers and bit by bit. -/

namespace Sys2Proof

/-- The sum of the powers of the numbers below `n` that satisfy a test, bit by bit. -/
theorem testBit_sumPowers (f : Nat → Bool) (n : Nat) :
    let x := (List.range n).foldl (fun acc i => if f i then acc + 2 ^ i else acc) 0
    x < 2 ^ n ∧ ∀ k, x.testBit k = (decide (k < n) && f k) := by
  induction n with
  | zero => simp
  | succ n ih =>
    obtain ⟨hlt, hbit⟩ := ih
    simp only [List.range_succ, List.foldl_append, List.foldl_cons, List.foldl_nil]
    generalize (List.range n).foldl _ 0 = x at hlt hbit ⊢
    cases hf : f n with
    | false =>
      refine ⟨by simp only [Bool.false_eq_true, if_false]; omega, fun k => ?_⟩
      rcases Nat.lt_trichotomy k n with h | rfl | h
      · simp [hbit, h, Nat.lt_succ_of_lt h]
      · simp [hbit, hf]
      · simp [hbit, Nat.not_lt_of_lt h, show ¬ k < n + 1 by omega]
    | true =>
      have hor : x + 2 ^ n = 2 ^ n ||| x := by simpa [Nat.add_comm] using Nat.two_pow_add_eq_or_of_lt hlt 1
      refine ⟨by simp only [if_true]; omega, fun k => ?_⟩
      simp only [if_true, hor, Nat.testBit_or, Nat.testBit_two_pow, hbit]
      rcases Nat.lt_trichotomy k n with h | rfl | h
      · simp [h, Nat.lt_succ_of_lt h, h.ne']
      · simp [hf]
      · simp [Nat.not_lt_of_lt h, show ¬ k < n + 1 by omega, h.ne]

/-- A lane mask holds exactly the lanes that satisfy its test. -/
theorem bit_maskOf (f : Nat → Bool) {k : Nat} (hk : k < 32) : bit (maskOf f) k = f k := by
  simp only [bit, maskOf, laneNums, BitVec.getLsbD_ofNat, (testBit_sumPowers f 32).2, hk, decide_true, Bool.true_and]

theorem lt_two_pow_bitLen (n : Nat) : n < 2 ^ bitLen n := by
  unfold bitLen
  split
  · omega
  · exact Nat.lt_log2_self

theorem bitLen_le {n k : Nat} (hn : n < 2 ^ k) : bitLen n ≤ k := by
  unfold bitLen
  split
  · omega
  · rename_i h0
    exact (Nat.log2_lt h0).mpr hn

/-- The highest significant bit of a number is set. -/
theorem testBit_bitLen_sub_one {n : Nat} (hn : 0 < bitLen n) : n.testBit (bitLen n - 1) = true := by
  unfold bitLen at hn ⊢
  split
  · simp_all
  · rename_i h0
    exact Nat.testBit_log2 h0

end Sys2Proof

namespace Sys2Proof.Machine

theorem shlVal_eq (a b : W32) : shlVal a b = BitVec.ofNat 32 (a.toNat * 2 ^ b.toNat) := by
  have hs : shlVal a b = a <<< b.toNat := by
    unfold shlVal
    split
    · rename_i hb
      exact (BitVec.shiftLeft_eq_zero hb).symm
    · rfl
  apply BitVec.eq_of_toNat_eq
  rw [hs, BitVec.toNat_shiftLeft, BitVec.toNat_ofNat, Nat.shiftLeft_eq]

theorem shrVal_eq (a b : W32) : shrVal a b = BitVec.ofNat 32 (a.toNat / 2 ^ b.toNat) := by
  have hs : shrVal a b = a >>> b.toNat := by
    unfold shrVal
    split
    · rename_i hb
      exact (BitVec.ushiftRight_eq_zero hb).symm
    · rfl
  apply BitVec.eq_of_toNat_eq
  rw [hs, BitVec.toNat_ushiftRight, BitVec.toNat_ofNat, Nat.shiftRight_eq_div_pow,
    Nat.mod_eq_of_lt (Nat.lt_of_le_of_lt (Nat.div_le_self _ _) a.isLt)]

/-- From 32 places on, an arithmetic right shift leaves the sign alone. -/
theorem sshiftRight_min (a : W32) (n : Nat) : a.sshiftRight (min n 32) = a.sshiftRight n := by
  ext k hk
  simp only [← BitVec.getLsbD_eq_getElem, BitVec.getLsbD_sshiftRight]
  by_cases hn : n < 32
  · rw [Nat.min_eq_left (by omega)]
  · rw [if_neg (by omega), if_neg (by omega)]

theorem sarVal_eq (a b : W32) : sarVal a b = BitVec.ofInt 32 (a.toInt / (2 ^ b.toNat : Nat)) := by
  rw [sarVal, sshiftRight_min, ← Int.shiftRight_eq_div_pow, ← BitVec.toInt_sshiftRight, BitVec.ofInt_toInt]

/-- A rotation puts the low bits, multiplied, above the bits that leave at the top. -/
theorem rotVal_eq (a b : W32) :
    rotVal a b = BitVec.ofNat 32 (a.toNat * 2 ^ (b.toNat % 32) + a.toNat / 2 ^ (32 - b.toNat % 32)) := by
  obtain ⟨r, hr, e⟩ : ∃ r, r < 32 ∧ b.toNat % 32 = r := ⟨_, Nat.mod_lt _ (by decide), rfl⟩
  have hp : 2 ^ 32 = 2 ^ r * 2 ^ (32 - r) := by rw [← Nat.pow_add]; congr 1; omega
  have hq : a.toNat / 2 ^ (32 - r) < 2 ^ r := Nat.div_lt_of_lt_mul (by rw [Nat.mul_comm, ← hp]; exact a.isLt)
  have hm : a.toNat * 2 ^ r % 2 ^ 32 = 2 ^ r * (a.toNat % 2 ^ (32 - r)) := by rw [hp, Nat.mul_comm, Nat.mul_mod_mul_left]
  have hlt : 2 ^ r * (a.toNat % 2 ^ (32 - r)) + a.toNat / 2 ^ (32 - r) < 2 ^ 32 := by
    have hle : a.toNat % 2 ^ (32 - r) + 1 ≤ 2 ^ (32 - r) := Nat.mod_lt _ (Nat.two_pow_pos _)
    calc 2 ^ r * (a.toNat % 2 ^ (32 - r)) + a.toNat / 2 ^ (32 - r)
        < 2 ^ r * (a.toNat % 2 ^ (32 - r) + 1) := by rw [Nat.mul_add_one]; omega
      _ ≤ 2 ^ 32 := by exact (Nat.mul_le_mul_left _ hle).trans_eq hp.symm
  apply BitVec.eq_of_toNat_eq
  rw [rotVal, e, BitVec.toNat_rotateLeft, Nat.mod_eq_of_lt hr, Nat.shiftLeft_eq, Nat.shiftRight_eq_div_pow, hm,
    ← Nat.two_pow_add_eq_or_of_lt hq, BitVec.toNat_ofNat, Nat.add_mod, hm, Nat.mod_eq_of_lt (hq.trans_le (Nat.pow_le_pow_right (by decide) hr.le)),
    Nat.mod_eq_of_lt hlt]

theorem popcVal_toNat (a : W32) : (popcVal a).toNat = ((List.range 32).filter (fun k => bit a k)).length := by
  have hle : ((List.range 32).filter (fun k => bit a k)).length ≤ 32 := (List.length_filter_le _ _).trans_eq List.length_range
  rw [popcVal, laneNums, BitVec.toNat_ofNat, Nat.mod_eq_of_lt (by omega)]

theorem clzVal_toNat (a : W32) : (clzVal a).toNat = 32 - bitLen a.toNat := by
  rw [clzVal, BitVec.toNat_ofNat, Nat.mod_eq_of_lt (by omega)]

/-- The bits above the first `clz` are 0, and the next one is 1. -/
theorem clzVal_spec (a : W32) : (clzVal a).toNat ≤ 32 ∧ (∀ k, k < (clzVal a).toNat → bit a (31 - k) = false) ∧
    ((clzVal a).toNat < 32 → bit a (31 - (clzVal a).toNat) = true) := by
  have hle : bitLen a.toNat ≤ 32 := bitLen_le a.isLt
  rw [clzVal_toNat]
  refine ⟨by omega, fun k hk => ?_, fun hlt => ?_⟩
  · exact Nat.testBit_lt_two_pow ((lt_two_pow_bitLen _).trans_le (Nat.pow_le_pow_right (by decide) (by omega)))
  · rw [show 31 - (32 - bitLen a.toNat) = bitLen a.toNat - 1 by omega]
    exact testBit_bitLen_sub_one (by omega)

theorem bit_brevVal (a : W32) {k : Nat} (hk : k < 32) : bit (brevVal a) k = bit a (31 - k) :=
  bit_maskOf (fun k => bit a (31 - k)) hk

theorem bfPos_eq (f : W32) : bfPos f = min (f.toNat % 256) 32 := rfl

theorem bfLen_eq (f : W32) : bfLen f = min (f.toNat / 256 % 256) (32 - bfPos f) :=
  congrArg (fun x => min (x % 256) (32 - bfPos f)) (Nat.shiftRight_eq_div_pow f.toNat 8)

/-- A field ends at bit 31 at the latest. -/
theorem bfPos_add_bfLen_le (f : W32) : bfPos f + bfLen f ≤ 32 := by
  unfold bfLen bfPos
  omega

/-- The bits of a field, then zeros or copies of its highest bit (R196). -/
theorem bit_bfxVal (uns : Bool) (a f : W32) {k : Nat} (hk : k < 32) : bit (bfxVal uns a f) k =
    if k < bfLen f then bit a (bfPos f + k) else !uns && decide (0 < bfLen f) && bit a (bfPos f + bfLen f - 1) := by
  have hle := bfPos_add_bfLen_le f
  unfold bfxVal
  generalize bfPos f = p at hle ⊢
  generalize bfLen f = l at hle ⊢
  by_cases h0 : l = 0
  · subst h0
    simp
  have hl : 0 < l := Nat.pos_of_ne_zero h0
  cases uns with
  | true =>
    simp only [h0, if_true, if_false, BitVec.getLsbD_and, BitVec.getLsbD_ushiftRight, BitVec.getLsbD_ofNat,
      Nat.testBit_two_pow_sub_one, hk, decide_true, Bool.true_and, Bool.not_true, Bool.false_and]
    by_cases hkl : k < l <;> simp [hkl]
  | false =>
    simp only [h0, hl, Bool.false_eq_true, if_false, BitVec.getLsbD_sshiftRight, BitVec.msb_eq_getLsbD_last, BitVec.getLsbD_shiftLeft,
      BitVec.getLsbD_ushiftRight, Nat.not_le.mpr hk, decide_false, decide_true, Bool.not_false, Bool.true_and]
    by_cases hkl : k < l
    · rw [if_pos hkl, if_pos (by omega), show p + (32 - l + k - (32 - l)) = p + k by omega]
      simp [show 32 - l + k < 32 by omega]
    · rw [if_neg hkl, if_neg (by omega), show p + (32 - 1 - (32 - l)) = p + l - 1 by omega]
      simp [show ¬ 31 < 32 - l by omega]

/-- The bits of the second source within the field, those of the first outside (R196). -/
theorem bit_bfiVal (a b f : W32) {k : Nat} (hk : k < 32) : bit (bfiVal a b f) k =
    if bfPos f ≤ k ∧ k < bfPos f + bfLen f then bit b (k - bfPos f) else bit a k := by
  unfold bfiVal
  generalize bfPos f = p
  generalize bfLen f = l
  simp only [bit, BitVec.getLsbD_or, BitVec.getLsbD_and, BitVec.getLsbD_not, BitVec.getLsbD_ofNat, BitVec.getLsbD_shiftLeft,
    Nat.testBit_shiftLeft, Nat.testBit_two_pow_sub_one, hk, decide_true, Bool.true_and]
  by_cases h1 : p ≤ k
  · by_cases h2 : k - p < l
    · simp [h1, h2, show k < p + l by omega, Nat.not_lt.mpr h1]
    · simp [h2, show ¬ k < p + l by omega]
  · simp [h1]

end Sys2Proof.Machine
end

section
/-! PROOFS. Logic, shifts and bit fields (R195, R196). -/

namespace Sys2Proof

/-- A MOD bit below FSA to FSC that lies outside the mask is 0 (R177). -/
theorem okF3_mod_bit {r k : Nat} {h : Head} {o : F3} {d a b c : Opd} {mask : BitVec 16} (hw : okF3 r k h o d a b c mask = true) {j : Nat}
    (hj : j < 13) (hm : bit mask j = false) : bit o.mod j = false := by
  simp only [okF3, Bool.and_eq_true, decide_eq_true_eq] at hw
  obtain ⟨⟨⟨⟨hmod, -⟩, -⟩, -⟩, -⟩ := hw
  have e : bit (o.mod &&& ~~~(mask ||| 0xE000#16)) j = false := by rw [hmod]; exact BitVec.getLsbD_zero
  have h0 : bit (0xE000#16) j = false := by interval_cases j <;> rfl
  simpa only [bit, BitVec.getLsbD_and, BitVec.getLsbD_not, BitVec.getLsbD_or, hm, h0, show j < 16 by omega, decide_true, Bool.or_false,
    Bool.not_false, Bool.and_true] using e

end Sys2Proof
namespace Sys2Proof.Machine

/-- The words of R195 in the F3 format have no MOD bit but FSA to FSC. -/
theorem logic_mod_bit {h : Head} {o : F3} {i : Instr} (hw : WellFormed i = true)
    (hi : i ∈ [.and h o, .or h o, .xor h o, .not h o, .shl h o, .shr h o, .sar h o, .rot h o, .popc h o, .clz h o, .brev h o]) {k : Nat}
    (hk : k < 13) : bit o.mod k = false := by
  simp only [List.mem_cons, List.not_mem_nil, or_false] at hi
  rcases hi with rfl | rfl | rfl | rfl | rfl | rfl | rfl | rfl | rfl | rfl | rfl <;>
    exact okF3_mod_bit (mask := 0) hw hk BitVec.getLsbD_zero

/-- The immediate shift amounts of R195. -/
theorem shift_imm_lt {h : Head} {p : FI} {i : Instr} (hw : WellFormed i = true) (hi : i ∈ [.shli h p, .shri h p, .sari h p]) :
    p.imm.toNat < 32 := by
  have he : ∀ x : Bool, (x && decide (p.imm.toNat ≤ 31)) = true → p.imm.toNat < 32 := by
    simp only [Bool.and_eq_true, decide_eq_true_eq]
    omega
  simp only [List.mem_cons, List.not_mem_nil, or_false] at hi
  rcases hi with rfl | rfl | rfl <;> exact he _ hw

/-- Settles O3: each word ends with its operation's value on the sources, and the values are those of the table of R195. -/
theorem logicAndShifts : Obligations.LogicAndShifts := by
  unfold Obligations.LogicAndShifts
  refine ⟨fun s v0 v h o p => ⟨?and, ?or, ?xor, ?not, ?andi, ?ori, ?xori⟩,
    fun s v0 v h o p => ⟨?shl, ?shr, ?sar, ?shli, ?shri, ?sari, ?rot⟩, fun s v0 v h o => ⟨?popc, ?clz, ?brev⟩,
    fun h o p i hw => ⟨fun hi k hk => logic_mod_bit hw hi hk, fun hi => shift_imm_lt hw hi⟩⟩
  case and => exact fun hi => ⟨_, op32_ends hi (exec_and h o s) fun _ => rfl, fun _ _ _ => BitVec.getLsbD_and⟩
  case or => exact fun hi => ⟨_, op32_ends hi (exec_or h o s) fun _ => rfl, fun _ _ _ => BitVec.getLsbD_or⟩
  case xor => exact fun hi => ⟨_, op32_ends hi (exec_xor h o s) fun _ => rfl, fun _ _ _ => BitVec.getLsbD_xor⟩
  case not => exact fun hi => ⟨_, op32_ends hi (exec_not h o s) fun _ => rfl, fun _ _ hk => by simp [hk]⟩
  case andi => exact fun hi => ⟨_, immOp_ends hi (exec_andi h p s) fun _ => rfl, fun _ _ _ => BitVec.getLsbD_and⟩
  case ori => exact fun hi => ⟨_, immOp_ends hi (exec_ori h p s) fun _ => rfl, fun _ _ _ => BitVec.getLsbD_or⟩
  case xori => exact fun hi => ⟨_, immOp_ends hi (exec_xori h p s) fun _ => rfl, fun _ _ _ => BitVec.getLsbD_xor⟩
  case shl => exact fun hi => op32_ends hi (exec_shl h o s) fun _ => shlVal_eq _ _
  case shr => exact fun hi => op32_ends hi (exec_shr h o s) fun _ => shrVal_eq _ _
  case sar => exact fun hi => op32_ends hi (exec_sar h o s) fun _ => sarVal_eq _ _
  case shli => exact fun hi => immOp_ends hi (exec_shli h p s) fun _ => shlVal_eq _ _
  case shri => exact fun hi => immOp_ends hi (exec_shri h p s) fun _ => shrVal_eq _ _
  case sari => exact fun hi => immOp_ends hi (exec_sari h p s) fun _ => sarVal_eq _ _
  case rot => exact fun hi => op32_ends hi (exec_rot h o s) fun _ => rotVal_eq _ _
  case popc => exact fun hi => ⟨_, op32_ends hi (exec_popc h o s) fun _ => rfl, fun _ => popcVal_toNat _⟩
  case clz => exact fun hi => ⟨_, op32_ends hi (exec_clz h o s) fun _ => rfl, fun _ => clzVal_spec _⟩
  case brev => exact fun hi => ⟨_, op32_ends hi (exec_brev h o s) fun _ => rfl, fun _ _ hk => bit_brevVal _ hk⟩

/-- Settles O4: the bits of the two operations on fields, with position and length as R196 cuts them. -/
theorem fieldsAreReadAndReplaced : Obligations.FieldsAreReadAndReplaced := by
  unfold Obligations.FieldsAreReadAndReplaced
  refine fun s v0 v h o => ⟨fun hi => ⟨_, op32_ends hi (exec_bfx h o s) fun _ => rfl, fun l k hk => ?bfx⟩,
    fun hi => ⟨_, alu32_ends hi (exec_bfi h o s) fun _ => by simp only [lo32_srcN]; rfl, fun l k hk => ?bfi⟩⟩
  case bfx =>
    simp only [← bfPos_eq, ← bfLen_eq]
    exact bit_bfxVal _ _ _ hk
  case bfi =>
    simp only [← bfPos_eq, ← bfLen_eq]
    exact bit_bfiVal _ _ _ hk

end Sys2Proof.Machine
end

section
/-! PROOFS. Selection, comparison and predicate logic (R197–R200). -/

namespace Sys2Proof

theorem opdOk_zero {u fs : Bool} {r k x : Nat} : opdOk u r k fs x .zero = true ↔ x = 0 ∧ fs = false := by simp [opdOk]
theorem opdOk_pr {u fs : Bool} {r k x : Nat} : opdOk u r k fs x .pr = true ↔ fs = false ∧ x ≤ 7 := by simp [opdOk]
theorem opdOk_prn {u fs : Bool} {r k x : Nat} : opdOk u r k fs x .prn = true ↔ fs = false ∧ x ≤ 15 := by simp [opdOk]

/-- The register fields of a well-formed F3 word. -/
theorem okF3_opds {r k : Nat} {h : Head} {o : F3} {d a b c : Opd} {mask : BitVec 16} (hw : okF3 r k h o d a b c mask = true) :
    opdOk h.u r k false o.dst.toNat d = true ∧ opdOk h.u r k (bit o.mod 13) o.sa.toNat a = true ∧
    opdOk h.u r k (bit o.mod 14) o.sb.toNat b = true ∧ opdOk h.u r k (bit o.mod 15) o.sc.toNat c = true := by
  simp only [okF3, Bool.and_eq_true] at hw
  obtain ⟨⟨⟨⟨-, hd⟩, ha⟩, hb⟩, hc⟩ := hw
  exact ⟨hd, ha, hb, hc⟩

variable {h : Head}

theorem sel_limits {o : F3} (hw : WellFormed (.sel h o) = true) : o.sc.toNat < 16 ∧ bit o.mod 15 = false := by
  obtain ⟨-, -, -, hc⟩ := okF3_opds (c := .prn) hw
  obtain ⟨hfs, hx⟩ := opdOk_prn.mp hc
  exact ⟨by omega, hfs⟩

theorem icmp_limits {o : F3} (hw : WellFormed (.icmp h o) = true) :
    sel o ≤ 5 ∧ comb o ≤ 2 ∧ o.dst.toNat < 8 ∧ o.sc.toNat < 16 ∧ (comb o = 0 → o.sc = 0) := by
  simp only [WellFormed, encOk, Bool.and_eq_true, decide_eq_true_eq] at hw
  obtain ⟨hok, hsel, hcomb⟩ := hw
  obtain ⟨hd, -, -, hc⟩ := okF3_opds hok
  obtain ⟨-, hdst⟩ := opdOk_pr.mp hd
  by_cases h0 : comb o = 0
  · rw [if_pos h0] at hc
    obtain ⟨hsc, -⟩ := opdOk_zero.mp hc
    exact ⟨hsel, hcomb, by omega, by omega, fun _ => BitVec.eq_of_toNat_eq hsc⟩
  · rw [if_neg h0] at hc
    obtain ⟨-, hsc⟩ := opdOk_prn.mp hc
    exact ⟨hsel, hcomb, by omega, by omega, fun e => absurd e h0⟩

theorem plog_limits {o : F3} (hw : WellFormed (.plog h o) = true) :
    sel o ≤ 3 ∧ o.dst.toNat < 8 ∧ o.sa.toNat < 8 ∧ o.sb.toNat < 8 ∧ (sel o = 3 → o.sb = 0 ∧ bit o.mod 8 = false) := by
  simp only [WellFormed, encOk, Bool.and_eq_true, Bool.or_eq_true, decide_eq_true_eq, Bool.not_eq_true'] at hw
  obtain ⟨hok, hsel, hneg⟩ := hw
  obtain ⟨hd, ha, hb, -⟩ := okF3_opds hok
  obtain ⟨-, hdst⟩ := opdOk_pr.mp hd
  obtain ⟨-, hsa⟩ := opdOk_pr.mp ha
  by_cases h3 : sel o = 3
  · rw [if_pos h3] at hb
    obtain ⟨hsb, -⟩ := opdOk_zero.mp hb
    exact ⟨hsel, by omega, by omega, by omega, fun _ => ⟨BitVec.eq_of_toNat_eq hsb, hneg.resolve_left fun e => e h3⟩⟩
  · rw [if_neg h3] at hb
    obtain ⟨-, hsb⟩ := opdOk_pr.mp hb
    exact ⟨hsel, by omega, by omega, by omega, fun e => absurd e h3⟩

theorem icmpi_limits {o : FI} (hw : WellFormed (.icmpi h o) = true) : fldN o.dst 4 3 ≤ 5 ∧ bit o.dst 7 = false := by
  simp only [WellFormed, encOk, Bool.and_eq_true, decide_eq_true_eq, Bool.not_eq_true'] at hw
  obtain ⟨-, hbit, hcond⟩ := hw
  exact ⟨hcond, hbit⟩

end Sys2Proof

namespace Sys2Proof.Machine

theorem condInt_eq (c : Nat) (x y : Int) : condInt c x y =
    if c = 0 then decide (x = y) else if c = 1 then decide (x ≠ y) else if c = 2 then decide (x < y)
    else if c = 3 then decide (x ≤ y) else if c = 4 then decide (y < x) else decide (y ≤ x) := by
  match c with
  | 0 | 1 | 2 | 3 | 4 => rfl
  | _ + 5 => rfl

theorem combine_eq (c : Nat) (t p : Bool) : combine c t p = if c = 0 then t else if c = 1 then t && p else t || p := by
  match c with
  | 0 | 1 => rfl
  | _ + 2 => rfl

theorem plogOp_eq (c : Nat) (a b : Bool) :
    plogOp c a b = if c = 0 then a && b else if c = 1 then a || b else if c = 2 then a != b else !a := by
  match c with
  | 0 | 1 | 2 => rfl
  | _ + 3 => rfl

/-- A choice by a predicate that a bit negates (R197). -/
theorem ite_bne {α : Type} (p n : Bool) (x y : α) : (if (p != n) = true then x else y) = if p = n then y else x := by
  by_cases e : p = n <;> simp [e]

/-- Settles O5: each word ends with the value its rule gives, and the codes that name no instruction fail the encoding's limits. -/
theorem predicatesAndSelection : Obligations.PredicatesAndSelection := by
  unfold Obligations.PredicatesAndSelection
  refine fun s v0 v h => ⟨fun o hi => ?sel, fun o hi => ?icmp, fun o hi => ?icmpi, fun o hi => ?plog,
    fun o => ⟨sel_limits, icmp_limits, plog_limits⟩, fun o => icmpi_limits⟩
  case sel => exact aluN_ends hi (exec_sel h o s) fun _ => ite_bne _ _ _ _
  case icmp => exact aluPrd_ends hi (exec_icmp h o s) fun _ => (combine_eq _ _ _).trans (by rw [condInt_eq]; rfl)
  case icmpi => exact aluPrd_ends hi (exec_icmpi h o s) fun _ => condInt_eq _ _ _
  case plog => exact aluPrd_ends hi (exec_plog h o s) fun _ => plogOp_eq _ _ _

end Sys2Proof.Machine
end
